-- ==== Sys2Proof/Word.lean ====
section
/-! DEFINITION. The byte and the byte string, the units in which records, headers, messages and images are laid out (R5). -/

namespace Sys2Proof

/-- One byte. -/
abbrev Byte := BitVec 8

/-- A byte string in increasing address order. -/
abbrev Bytes := List Byte

end Sys2Proof
end

