-- ==== Sys2Proof/Syntax.lean ====
section
/-! DEFINITION. The commands and events the block takes, one constructor per row of the operation table, with the operands that the surroundings supply with each. -/

namespace Sys2Proof

/-- A Daras message: the fields of its 32-byte transaction header (R346, Table 4) and its payload (R339). -/
structure Msg where
  opcode : Nat
  cls : Nat
  bwClass : Nat
  hops : Nat
  partition : Nat
  epoch : Nat
  source : Nat
  target : Nat
  poison : Bool
  redirected : Bool
  txn : Nat
  combine : Nat
  status : Nat
  slot : Nat
  origin : Nat
  addr : Nat
  arg : Nat
  payload : Bytes
  deriving DecidableEq, Repr, Inhabited

/-- Where a request reaches a home slice from: a task of a cluster of this package, a host port, or a Daras port (R121, R123). -/
inductive Via where
  | task (id : Nat)
  | host (port : Fin 2)
  | daras
  deriving DecidableEq, Repr, Inhabited

/-- A Whist message of a LEASE flit (R383, Table 1). -/
structure Whist where
  kind : Nat
  epoch : Nat
  source : Nat
  subject : Nat
  seq : Nat
  target : Nat
  broadcast : Bool
  ltb : Nat
  set : List Nat
  deriving DecidableEq, Repr, Inhabited

/-- One certificate of the chain of R409: the signed bytes, the subject key they carry, and the signature. -/
structure Cert where
  body : Bytes
  key : Bytes
  signature : Bytes
  deriving DecidableEq, Repr, Inhabited

/-- The fuses (R3, R314, R408, R409, R410, R411, R414, R508). -/
structure Fuses where
  partB : Bool
  disabled : List (Nat × Nat)
  serial : Nat
  identitySecret : Bytes
  deviceSecret : Bytes
  rootHash : Bytes
  chain : List Cert
  fwKeyHash : List (Option Bytes)
  fwRevoked : List Bool
  ownerHash : Option Bytes
  fwCounter : BitVec 64
  imageCounter : BitVec 128
  setPoints : List Nat
  deriving DecidableEq, Repr, Inhabited

/-- The SPI NOR flash as its JESD216 parameters describe it (R460, R518). -/
structure FlashChip where
  bytes : Nat
  described : Bool
  quadRead : Bool
  eraseSuspend : Bool
  deriving DecidableEq, Repr, Inhabited

/-- What the board supplies at an internal release: fuses as manufactured, the flash part, and bytes a board programmer wrote (R485). -/
structure Board where
  fuses : Option Fuses
  chip : Option FlashChip
  flash : Option (List (Nat × Byte))
  bootRom : Bytes
  avsAnswers : Bool
  vcoreWarnMilliamps : Option Nat
  deriving DecidableEq, Repr, Inhabited

/-- One DIMM as its SPD hub and its training show it (R30, R31). -/
structure Dimm where
  channel : Nat
  slot : Nat
  mr : Bool
  ecc : Bool
  organised : Bool
  gib : Nat
  rates : List Nat
  part : Nat
  trains : Bool
  eyes : BitVec 24
  deriving DecidableEq, Repr, Inhabited

/-- What a read of a line finds in its device (R33, R34, R35). -/
inductive LineError where
  | none
  | corrected (rank bank row : Nat)
  | uncorrectable (rank bank row : Nat)
  deriving DecidableEq, Repr, Inhabited

/-- A PCIe ATS Translation Completion (R68). -/
structure AtsAnswer where
  error : Bool
  read : Bool
  write : Bool
  bytes : Nat
  base : Nat
  deriving DecidableEq, Repr, Inhabited

/-- The cache state a CXL.mem read asks for (R123). -/
inductive CacheAsk where
  | shared
  | any
  | invalid
  deriving DecidableEq, Repr, Inhabited

/-- The host-writable configuration fields of R323. -/
inductive CfgField where
  | memorySpace
  | busMaster
  | bar0
  | bar2
  | bar4
  | atsEnable
  | biEnable
  | d3hot
  | completionTimeoutUs
  | aerCorrectableMask
  | aerUncorrectableMask
  | aerSeverity
  | aerStatusClear
  | maxPayload
  | maxReadRequest
  deriving DecidableEq, Repr, Inhabited

/-- One HDM decoder commit (R318). -/
structure HdmCommit where
  base : Nat
  size : Nat
  ways : Nat
  dpaSkip : Nat
  lockOnCommit : Bool
  deriving DecidableEq, Repr, Inhabited

/-- The sensors of one control interval (R512, R513): VCORE current in mA over 10 µs, and temperatures in tenths of a degree. -/
structure Sensed where
  vcoreMilliamps : Nat
  dieTemps : List Int
  hbmTemps : List Int
  deriving DecidableEq, Repr, Inhabited

/-- The IDENT content of R344. -/
structure Ident where
  switch : Bool
  id : Nat
  port : Nat
  cohMode : Nat
  epochs : List Nat
  deriving DecidableEq, Repr, Inhabited

/-- A holder of a line (R121). -/
inductive Holder where
  | cluster (c : Fin 8)
  | host (p : Fin 2)
  | pkg (k : Nat)
  deriving DecidableEq, Repr, Inhabited

/-- The commands and events, one constructor per row of the operation table. -/
inductive Instr where
  | internalRelease (mode48 : Bool) (bootSel : Fin 4) (board : Option Board)
  | resetNFall
  | pwrokFall
  | firmwareCopyRead
  | imageCopyRead
  | farTierTrained (dimms : List Dimm)
  | startComplete
  | engClockStep
  | avsVoltageReached
  | powerControlTick (sensed : Sensed)
  | pmbusPollRound (readings : List (Option (Nat × Nat)))
  | pmbusAlert (words : List (Option (BitVec 16)))
  | thermalTrip
  | supplySagBegin (vcore vdd : Bool)
  | supplySagEnd
  | brownOut
  | nonvolatileWriteDone
  | ltbTick
  | patrolScrub (line : Nat) (e : LineError)
  | channelRecalibration (channel : Fin 16) (ok : Bool)
  | heatEpochEnd
  | migrationPassEnd (frame : Nat)
  | migrationFlipEnd (frame : Nat)
  | coarseRebuildDone (frame : Nat)
  | blockDeadlineExpiry (task block : Nat)
  | translationCompletion (port : Fin 2) (page : BitVec 64) (a : AtsAnswer)
  | atsInvalidateRequest (port : Fin 2) (itag : Fin 32) (base : BitVec 64) (bytes : Nat)
  | invalidateDrainEnd (port : Fin 2) (itag : Fin 32)
  | taskRecordWrite (port : Fin 2) (offset : Nat) (bytes : Bytes)
  | taskPost (m : Msg)
  | leaseRenew (task : Nat)
  | slotReset (task : Nat)
  | slotCloseDone (slot : Nat)
  | tallyOnly (task : Nat)
  | tallyWake (addr : BitVec 64)
  | tallyPoll (task : Nat)
  | taskEnd (task : Nat)
  | contextAssign (task : Nat)
  | contextTimeSlice (engine : Nat)
  | contextAnswerArrives (task : Nat)
  | fenceComplete (task : Nat)
  | matmul (task : Nat)
  | matmulAcc (task : Nat)
  | elemwise (task : Nat)
  | activate (task : Nat)
  | norm (task : Nat)
  | softmax (task : Nat)
  | convert (task : Nat)
  | reduce (task : Nat)
  | route (task : Nat)
  | routeCombine (task : Nat)
  | routeLimitExpiry (task : Nat)
  | mismatchRetry (task : Nat)
  | rtReserve (via : Via) (m : Msg)
  | rtClose (via : Via) (m : Msg)
  | exClaim (task : Nat)
  | expert (task : Nat)
  | expertPassEnd (task : Nat)
  | attend (task : Nat)
  | cocEncode (task : Nat)
  | codebookSpaceFree (task : Nat)
  | hstSearch (task : Nat)
  | merge (task : Nat)
  | mldGather (task : Nat)
  | mldAdd (task : Nat)
  | combiningEntryApply (line : Nat)
  | chkScan (task : Nat)
  | snapOpen (task : Nat)
  | snapDraft (task : Nat)
  | draftFrameCopy (region slot frame : Nat)
  | snapPublish (task : Nat)
  | publishRecallDone (task : Nat)
  | snapClose (task : Nat)
  | viewCloseDone (region slot : Nat)
  | versionReclaimDone (region version : Nat)
  | kvCreate (task : Nat)
  | kvAppend (task : Nat)
  | kvCommit (task : Nat)
  | kvCommitRebuildDone (task : Nat)
  | kvAbandon (task : Nat)
  | kvFork (task : Nat)
  | kvDrop (task : Nat)
  | kvDropRelease (region session : Nat)
  | forerunnerWindowEnd
  | readShared (via : Via) (m : Msg)
  | readOwn (via : Via) (m : Msg)
  | readNoalloc (via : Via) (m : Msg)
  | writeNoalloc (via : Via) (m : Msg)
  | atomic (via : Via) (m : Msg)
  | wbReq (m : Msg)
  | writeLine (m : Msg)
  | writePart (m : Msg)
  | fwd (m : Msg)
  | snpInv (m : Msg)
  | snpShare (m : Msg)
  | snpCur (m : Msg)
  | invAck (m : Msg)
  | snpAck (m : Msg)
  | grant (m : Msg)
  | acksDone (m : Msg)
  | complete (m : Msg)
  | wbGo (m : Msg)
  | wbDone (m : Msg)
  | birsp (port : Fin 2) (addr : BitVec 64) (dirty : Option Bytes) (poison : Bool)
  | snoopTimeout (line : Nat) (holder : Holder)
  | completeTimeout (line : Nat)
  | data (m : Msg)
  | dataRet (m : Msg)
  | ack (m : Msg)
  | wake (m : Msg)
  | redirect (m : Msg)
  | addFloat (m : Msg)
  | atomicRet (m : Msg)
  | addU64 (m : Msg)
  | tallyWatch (m : Msg)
  | tallyUnwatch (m : Msg)
  | tokenPost (m : Msg)
  | mgmtRead (m : Msg)
  | opMessage (m : Msg)
  | opMessagePartialTimeout (source : Nat)
  | e2eTimeout (task : Nat) (addr : BitVec 64)
  | payloadFlit (port : Fin 8) (flit : Bytes)
  | nak (port : Fin 8) (seq : Fin 4096)
  | replayTimer (port : Fin 8)
  | retryBudgetExpiry (port : Fin 8)
  | laneFailed (port : Fin 8) (lane : Fin 9)
  | laneMap (port : Fin 8) (lane : Fin 9)
  | sparingDone (port : Fin 8)
  | signalFound (port : Fin 8) (lanes : Nat)
  | trainLock (port : Fin 8) (lanes : BitVec 9)
  | trainTimeout (port : Fin 8)
  | ident (port : Fin 8) (i : Ident)
  | downTimer (port : Fin 8)
  | schedulingGrant (point : Fin 12)
  | dealEntryEnd (point : Fin 12)
  | dealTakeover (point : Fin 12)
  | queueSample
  | beatSend
  | beat (port : Fin 8) (w : Whist)
  | suspect (port : Fin 8) (w : Whist)
  | suspectHoldExpiry (subject sender : Nat)
  | whistSilenceExpiry (member : Nat)
  | whistDecideExpiry (member : Nat)
  | verdict (port : Fin 8) (w : Whist)
  | selfFence
  | hostLeaseExpiry (port : Fin 2)
  | guardWriteTimeout (line : Nat)
  | aliasHoldLapse (frame : Nat)
  | resumeWaitExpiry (task : Nat)
  | mapPrepare
  | mapSwitch
  | mapRetire
  | partAttach
  | partDetach
  | detachDrainEnd (partition : Fin 64)
  | engage
  | spareReady (copy : Bytes)
  | spareRebuildDone
  | resync
  | debugSet
  | powerRetain
  | retainEntered
  | powerRun
  | idleDelayExpiry
  | obsSet
  | obsWatch
  | dealSet
  | imageWrite
  | patienceCopyDone
  | dbgRead
  | dbgWrite
  | dbgPatience
  | dbgCmdUnlisted (code : Fin 256)
  | dbgFlagClear (ones : BitVec 64)
  | registerWrite (index : Fin 32768) (data : BitVec 64)
  | hostLinkTrained (port : Fin 2) (cxl : Bool) (width : Nat) (speed : Nat)
  | hostLinkDown (port : Fin 2)
  | hotReset (port : Fin 2)
  | functionLevelReset (port : Fin 2)
  | functionResetDone (port : Fin 2)
  | perstNFall (port : Fin 2)
  | perstNRise (port : Fin 2)
  | hostMemoryRead (port : Fin 2) (offset : BitVec 64) (bytes : Nat) (tag : Nat)
  | hostMemoryWrite (port : Fin 2) (offset : BitVec 64) (bytes : Bytes) (ep : Bool)
  | cxlMemRead (port : Fin 2) (addr : BitVec 64) (ask : CacheAsk) (tag : Nat)
  | cxlMemWrite (port : Fin 2) (addr : BitVec 64) (bytes : Bytes) (mask : BitVec 64) (poison : Bool)
  | hdmDecoderCommit (port : Fin 2) (index : Fin 16) (c : HdmCommit)
  | configWrite (port : Fin 2) (field : CfgField) (value : BitVec 64)
  | slotTableRead (port : Fin 2) (offset : Nat)
  | identify (port : Fin 2)
  | getEventRecords (port : Fin 2)
  | getTimestamp (port : Fin 2)
  | getSupportedLogs (port : Fin 2)
  | getLog (port : Fin 2) (effectsLog : Bool)
  | identifyMemoryDevice (port : Fin 2)
  | getHealthInfo (port : Fin 2)
  | mailboxUnsupported (port : Fin 2) (opcode : Nat)
  | outboundCompletionTimeout (port : Fin 2) (tag : Nat)
  | unexpectedCompletion (port : Fin 2) (tag : Nat)
  | size (endpoint : Fin 3)
  | status (endpoint : Fin 3)
  | mctpOpMessage (endpoint : Fin 3) (message : Bytes)
  | mctpUnsupportedCommand (endpoint : Fin 3) (code : Nat)
  | getVersion (endpoint : Fin 3)
  | getCapabilities (endpoint : Fin 3) (version13 : Bool)
  | negotiateAlgorithms (endpoint : Fin 3)
  | getDigests (endpoint : Fin 3)
  | getCertificate (endpoint : Fin 3) (slot : Nat) (offset : Nat) (length : Nat)
  | challenge (endpoint : Fin 3) (slot : Nat) (nonce : Bytes)
  | getMeasurements (endpoint : Fin 3) (index : Nat) (signed : Bool) (nonce : Bytes)
  | spdmUnsupportedRequest (endpoint : Fin 3) (code : Nat)
  | idcode
  | bypass (code : BitVec 8)
  | testLogicReset
  | dbgAccess (read : Option (Fin 32768))
  | samplePreload (cells : List Bool)
  | extest (cells : List Bool)
  | extestPulse (cells : List Bool)
  | extestTrain (cells : List Bool)
  | linkTest (read : Option (Fin 32768))
  | laneTestWrite (index : Fin 32768) (data : BitVec 64)
  | ltInject (lane : Fin 88)
  | checkerLock (lane : Fin 88)
  | checkerLostLock (lane : Fin 88)
  | hbm1500 (access : Option (Bool × Fin 128 × BitVec 64))
  | mbist (read : Option (Fin 32768))
  | mbistStart (data : BitVec 64) (dimms : List Dimm)
  | mbistDone (fails : List Nat) (repairs : List Nat)
  | idleFlit (port : Fin 8) (flit : Bytes)
  | outboundReadCompletion (port : Fin 2) (tag : Nat) (data : Option Bytes)
  | directoryWalkEnd (port : Fin 2)
  | resyncDone
  | runReported
  | openAesDrainEnd
  | setPointSettleExpiry
  | alignRetryExpiry (port : Fin 8)
  | eidAssignment (endpoint : Fin 3) (eid : BitVec 8)
  | doeDiscovery (port : Fin 2) (index : Nat)
  | cdatTableAccess (port : Fin 2) (handle : Nat)
  | testFlagClear (index : Fin 32768) (data : BitVec 64)
  deriving DecidableEq, Repr

end Sys2Proof
end

