-- ==== Sys2Proof/Config.lean ====
section
/-! DEFINITION. Values the spec leaves open: constants with no body, applied to what they depend on. A statement about one holds whatever it is. -/

namespace Sys2Proof.Config

/-- The 256-bit boot nonce of the n-th draw (R419). -/
opaque bootNonce : Nat → BitVec 256

/-- The n-th value of the generator of stochastic rounding: the step and draw are not given by R192. -/
opaque xorshift : BitVec 32 → BitVec 32

/-- The 16 bits that a draw takes from the generator's value (R191). -/
opaque drawBits : BitVec 32 → BitVec 16

/-- The order in which sums of `n` addends are formed, for the k-th such sum: a key for each addend (R189, R294). -/
opaque sumOrder : Nat → Nat → Nat

/-- The signed error, in units of the last place, of a function of code `f` at a value; the model bounds it by 2 (R190). -/
opaque functionUlps : Nat → BitVec 32 → BitVec 3

/-- The sign of a running sum that is exactly zero (R189, R193). -/
opaque zeroSign : Nat → Bool

/-- Whether a NaN gives way to the other operand of a maximum or minimum, for the k-th such place: R202 does not say. -/
opaque nanLoses : Nat → Bool

/-- A byte at an address of an output that a failed task leaves undefined, for the n-th such output (R170). -/
opaque undefinedByte : Nat → Nat → Byte

/-- The result of an operation whose output overlaps its inputs, by task and place (R205). -/
opaque overlapByte : Nat → Nat → Byte

/-- The tier in which a TIERED frame first lies: true for the far tier. The spec gives no rule. -/
opaque startsFar : Nat → Bool

/-- The engine among equals that a task goes to (R179). -/
opaque engineChoice : Nat → Nat → Nat

/-- The port among those the map gives that carries a target and line: the hash of R354. -/
opaque pathHash : Nat → Nat → Nat

/-- A word of the engine, cluster, codebook and landing stores at an address, for the n-th such read: space 0x07 has no layout, and what these stores hold from moment to moment is not given (R431). -/
opaque storeWord : Nat → Nat → BitVec 64

/-- A word of the fuses at an address, as manufactured: space 0x08 has no layout (R431). -/
opaque fuseWord : Nat → BitVec 64

/-- Does a fuse address hold a bit of the identity key or the device secret (R408, R431)? -/
opaque secretFuse : Nat → Bool

/-- A word of an HBM4 wrapper, by its index, for the n-th such read: the HBM4 standard defines these registers (R526). -/
opaque wrapperWord : Nat → Nat → BitVec 64

/-- Bits in error that a locked lane checker has counted between the n-th and the next look at it: what a lane receives is not given (R523). -/
opaque laneErrors : Nat → Nat

/-- Bits that a locked lane checker has checked between the n-th and the next look at it (R523). -/
opaque laneBits : Nat → Nat

/-- Boundary cells as captured from the balls, for the n-th capture (R525). -/
opaque boundaryCells : Nat → List Bool

/-- The body of an SPDM or mailbox answer that other standards define, by kind (R323, R416). -/
opaque standardBody : Nat → Nat → Bytes

/-- The dimension D of the partials that a COMBINE reads, in sixteens, by its record: a COMBINE names no region, and Table 12 has no field for it (R233, R236). -/
opaque combineDim16 : Bytes → Nat

/-- A byte of a flash sector whose erase was abandoned (R485). -/
opaque cutErase : Nat → Byte

/-- The code of a state in a Patience snapshot, by table and place in it: R459 gives the field and not the codes. -/
opaque patienceCode : Nat → Nat → Nat

/-- A word of a Patience snapshot whose fields R459 lists without their places, by section and the fields' values. -/
opaque patienceWord : Nat → List Nat → BitVec 64

/-- The index by which observation names an engine: the package assigns it at start (R445). -/
opaque engineIndex : Nat → Nat

/-- What an engine does in one ENG cycle of a tick, by engine, tick and cycle, while a context of it can run: 0 it issues to its array, 1 to 3 it waits for the expander, for memory or for the vector unit (R180, R445). -/
opaque engineOutcome : Nat → Nat → Nat → BitVec 2

/-- The set of a translation cache that holds a page: R65 gives 256 sets and no index. -/
opaque xltSet : Nat → Nat → Fin 256

/-- Which of a channel's two DIMMs holds a frame: R28 names the channel only. -/
opaque dimmSlot : Nat → Bool

/-- Has a half a free frame in a tier, true for the far one, beyond the reserve, for the n-th move of an epoch that ends at a tick? It follows from where TIERED frames first lie, which the spec leaves open (R37). -/
opaque tierFree : Nat → Bool → Nat → Nat → Bool

/-- Does an IDENT of a switch or package, with its identifier, port and COH.MODE, agree under R344 with a package of this identifier and mode? R344 lists what an IDENT carries and not what agreement is. -/
opaque identAgrees : Bool → Nat → Nat → Nat → Nat → Nat → Bool

/-- Does an address of another package lie in a guarded region there? R403 turns on it, and no message tells the requester. -/
opaque remoteGuarded : Nat → Bool

/-- Byte `i` of the payload of an IDENT or LANE_MAP flit, by flit type and the values it carries: R336 and R344 give no layout. -/
opaque linkByte : Nat → List Nat → Nat → Byte

/-- Byte `i` of a line that a spare takes over from a lost package, as that package's surviving guard copies give it (R400, R401). -/
opaque survivingByte : Nat → Nat → Byte

/-- The versions that stood HEAD or RETAINED in a lost package's SNAPSHOT region, by package and region, oldest first: number and frame map (R400). -/
opaque survivingVersions : Nat → Nat → List (Nat × List (Nat × Nat))

/-- The sessions of a lost package's KV region, by package and region: session, committed length and version (R400). -/
opaque survivingSessions : Nat → Nat → List (Nat × Nat × Nat)

/-- The committed pages of a lost package's KV region, by package and region: session, layer, index, tokens, first data frame and summary (R400). -/
opaque survivingPages : Nat → Nat → List (Nat × Nat × Nat × Nat × Nat × Option Bytes)

/-- Which 64-bit word of SEC.OWNER_HASH lies at a fuse address, if any: space 0x08 has no layout (R411, R431). -/
opaque ownerHashWord : Nat → Option (Fin 8)

/-- The bytes that measurement 1 digests, from the revoke bits, the counters and SEC.OWNER_HASH: R413 names the items and not their form. -/
opaque bootItem : List Bool → BitVec 64 → BitVec 128 → Option Bytes → Bytes

end Sys2Proof.Config
end

