-- ==== Sys2Proof/Machine/State.lean ====
section
/-! DEFINITION. Everything the spec gives the package, as plain data, and the state right after power is applied. The management side (Mgt) is clocks, reset, power, flash, fuses, security, composition and test access; the data plane (Dp) is the store, coherence, tasks, fabric, host ports and observation. -/

namespace Sys2Proof.Machine

/-- No command of this block stops with a fault: the type has no use beyond naming the outcome. Safe. -/
inductive Fault where
  /-- Raised by nothing: kept so that the outcome type is closed. Safe. -/
  | none
  deriving DecidableEq, Repr

/-- Reasons a command has no meaning. -/
inductive Refusal where
  /-- Raised by an arm of the dispatch whose row has no meaning yet. Safe. -/
  | notModelled (mnemonic : String)
  deriving DecidableEq, Repr

/-! ### The accepted image (chapter "The configuration image") -/

/-- The PACKAGE entry (R464, Table 4). -/
structure PackageEntry where
  packageId : Nat
  ownerOrdered : Bool
  forerunner : Bool
  debugStart : Nat
  modeStart : Nat
  obsEnable : Nat
  hkClass : Nat
  hkQueue : Nat
  mrdimm : Bool
  darPorts : Nat
  hostModes : List Nat
  loopId : Nat
  loopEnable : Bool
  subsysVendor : Nat
  subsysId : Nat
  frLimits : List Nat
  farMtsCap : Nat
  heatEpochMs : Nat
  heatMargin : Nat
  migrateBudget : Nat
  scrubHours : Nat
  guardReserveGib : Nat
  rebuildGbps : Nat
  resumeWaitMs : Nat
  classDeadline : List Nat
  deriving DecidableEq, Repr, Inhabited

/-- The timers and observation fields of the PACKAGE entry (R464, Table 4, W6 to W10). -/
structure TimerEntry where
  retryBudgetUs : Nat
  snoopTimeoutMs : Nat
  e2e10us : Nat
  leaseLossMs : Nat
  beat10us : Nat
  silence10us : Nat
  decide10us : Nat
  idleDelayUs : Nat
  colourAware : Nat
  yellowClasses : Nat
  sampleTicks : Nat
  logBase : Nat
  logBytes : Nat
  deriving DecidableEq, Repr, Inhabited

/-- A PARTITIONS entry (R466, Table 6). -/
structure PartEntry where
  id : Nat
  attached : Bool
  isolated : Bool
  clusters : Nat
  contexts : Nat
  dirReserve : Bool
  dirWay : Nat
  queues : List Nat
  deriving DecidableEq, Repr, Inhabited

/-- A region descriptor (R73, Table 1). -/
structure Region where
  id : Nat
  kind : Nat
  partition : Nat
  sealed : Bool
  tier : Nat
  affinity : Nat
  coarse : Nat
  guard : Nat
  cls : Nat
  retain : Nat
  views : Nat
  drafts : Nat
  base : Nat
  length : Nat
  viewBase : Nat
  kvLayers : Nat
  kvHeads : Nat
  kvDim16 : Nat
  kvFormat : Nat
  kvSessions : Nat
  deriving DecidableEq, Repr, Inhabited

/-- A window entry (R57, Table 1). -/
structure Window where
  outbound : Bool
  port : Nat
  partition : Nat
  page : Nat
  lengthGib : Nat
  hostBase : Nat
  poolBase : Nat
  cls : Nat
  deriving DecidableEq, Repr, Inhabited

/-- A SLOTS entry (R468, Table 7). -/
structure SlotEntry where
  number : Nat
  owner : Nat
  partition : Nat
  depth : Nat
  rejectAddr : Nat
  deriving DecidableEq, Repr, Inhabited

/-- A queue entry (R367, Table 2). -/
structure QueueEntry where
  cls : Nat
  metered : Bool
  limit : Nat
  quantum : Nat
  cir : Nat
  pir : Nat
  cbs : Nat
  pbs : Nat
  deriving DecidableEq, Repr, Inhabited

/-- A deal: its entries as gate mask and ticks (R374, Table 3). -/
abbrev Deal := List (Nat × Nat)

/-- A point entry (R374). -/
structure PointEntry where
  deal : Nat
  guard : Nat
  overhead : Nat
  deriving DecidableEq, Repr, Inhabited

/-- A tensor watch entry (R447, Table 7). -/
structure WatchEntry where
  layer : Nat
  layerMask : Nat
  operator : Nat
  operatorMask : Nat
  partition : Nat
  kind : Nat
  base : Int
  step : Nat
  records : Nat
  buffer : Nat
  number : Nat
  deriving DecidableEq, Repr, Inhabited

/-- A route entry that differs from the empty one (R469, Table 10). -/
structure RouteEntry where
  id : Nat
  ports : Nat
  composed : Bool
  leasesMe : Bool
  server : Nat
  deriving DecidableEq, Repr, Inhabited

/-- A map (R469): its epoch, its lease block as role, position and package, and its non-zero route entries. -/
structure MapRec where
  epoch : Nat
  lease : List (Nat × Nat × Nat)
  routes : List RouteEntry
  raw : Bytes
  deriving DecidableEq, Repr, Inhabited

/-- The accepted image (R461 to R469). -/
structure Image where
  copyB : Bool
  version : Nat
  secver : Nat
  commit : Bool
  ownerKey : Bytes
  pkg : PackageEntry
  timers : TimerEntry
  fmKeys : List (Option Bytes)
  debugKey : Option Bytes
  keysRaw : Bytes
  parts : List PartEntry
  regions : List Region
  windows : List Window
  slots : List SlotEntry
  queues : List QueueEntry
  deals : List Deal
  points : List PointEntry
  watch : List WatchEntry
  map : Option MapRec
  raw : Bytes
  deriving DecidableEq, Repr, Inhabited

/-! ### Management side -/

/-- Stages of a start (R484, R490 to R493). -/
inductive Phase where
  | off
  | inReset
  | firmware
  | image
  | loading
  | running
  | held
  | halted
  deriving DecidableEq, Repr, Inhabited

/-- Clocks, reset and straps (R482 to R493). -/
structure Clk where
  phase : Phase
  ltb : Nat
  mode48 : Bool
  bootSel : Nat
  bootRom : Bytes
  copiesTried : Nat
  fwSecver : Nat
  fwCommit : Bool
  engMhz : Nat
  engLast : Nat
  engDone : Bool
  farDone : Bool
  deriving DecidableEq, Repr, Inhabited

/-- Power delivery (R506 to R516). -/
structure Pwr where
  pwrok : Bool
  setPoint : Nat
  oldSetPoint : Nat
  commandTick : Option Nat
  pendingMhz : Option Nat
  avsAnswers : Bool
  warnMilliamps : Option Nat
  rails : List (Nat × Nat)
  words : List (BitVec 16)
  causeTick : Nat
  powerAvg : Nat
  powerWindow : List Nat
  temps : List Int
  sagVcore : Bool
  sagVdd : Bool
  sagPwrok : Bool
  thermTrip : Bool
  deriving DecidableEq, Repr, Inhabited

/-- What a non-volatile write does (chapter "Package, balls and power delivery", "Supply sag and brown-out"). -/
inductive NvKind where
  | burnFw (bit : Nat)
  | burnImage (bit : Nat)
  | burnFuse (word bit : Nat)
  | program (offset : Nat) (data : Bytes)
  | erase (offset : Nat)
  deriving DecidableEq, Repr, Inhabited

/-- Who is answered when a non-volatile write ends. -/
inductive NvOrigin where
  | counter
  | debug
  | log (seq : Nat)
  | imageWrite
  deriving DecidableEq, Repr, Inhabited

/-- A non-volatile write under way or waiting behind one. -/
structure NvOp where
  kind : NvKind
  origin : NvOrigin
  begun : Bool
  suspended : Bool
  deriving DecidableEq, Repr, Inhabited

/-- Who is answered for an operational message (R474). -/
inductive Asker where
  | mctp (endpoint : Nat)
  | daras (m : Msg)
  deriving DecidableEq, Repr, Inhabited

/-- Flash, fuses and non-volatile writes. `writeAsker` is who awaits the answer of an IMAGE_WRITE, and its key; `logNext` is the log's next offset from its base; `extra` holds fuse bits burnt through the debug port, by address; `starts` counts the boot nonces drawn. -/
structure Nvm where
  chip : FlashChip
  flash : List (Nat × Byte)
  fuses : Fuses
  ops : List NvOp
  writeAsker : Option (Asker × Nat)
  logNext : Nat
  logWrapped : Bool
  extra : List (Nat × BitVec 64)
  starts : Nat
  deriving DecidableEq, Repr, Inhabited

/-- Debug levels (R427). -/
inductive Level where
  | sealed
  | observe
  | opened
  deriving DecidableEq, Repr, Inhabited

/-- Power states that HOP.STS_POWER reports (R432). -/
inductive PowerState where
  | run
  | idle
  | retain
  deriving DecidableEq, Repr, Inhabited

/-- The debug port's registers (R430, Table 7). -/
structure DbgPort where
  space : Nat
  select : Nat
  addr : BitVec 64
  data : BitVec 64
  done : Bool
  denied : Bool
  error : Bool
  busy : Bool
  refusedAt : Option Nat
  deriving DecidableEq, Repr, Inhabited

/-- One MCTP endpoint and its SPDM connection (R416). -/
structure Endpoint where
  eid : Option (BitVec 8)
  version : Bool
  capabilities : Bool
  algorithms : Bool
  v13 : Bool
  deriving DecidableEq, Repr, Inhabited

/-- Security (R408 to R435). `opening` runs from the acceptance of DEBUG_SET to Open until HOP.STS_DEBUG shows it; `sealedLost` tells that sealed regions are handled as lost; `i3cHeld` are MCTP requests that wait on the I3C bus for a sag to end (R516). -/
structure Sec where
  level : Level
  highest : Level
  opening : Bool
  meas1 : Bytes
  meas2 : Bytes
  meas3 : Bytes
  meas5 : Bytes
  meas6 : Bytes
  keys : List (Nat × Bytes)
  sealedLost : Bool
  alive : List Nat
  dbg : DbgPort
  endpoints : List Endpoint
  power : PowerState
  retaining : Bool
  waking : Bool
  i3cHeld : List Instr
  deriving DecidableEq, Repr, Inhabited

/-- A partly received operational message (R474). -/
structure Partial where
  source : Nat
  count : Nat
  since : Nat
  parts : List (Nat × Bytes)
  deriving DecidableEq, Repr, Inhabited

/-- An accepted message waiting to be acted on (R475). -/
structure Accepted where
  code : Nat
  body : Bytes
  asker : Asker
  tick : Nat
  deriving DecidableEq, Repr, Inhabited

/-- Composition: maps, epochs, messages and spares (R359, R399 to R407, R474). -/
structure Comp where
  stamp : Nat
  maps : List MapRec
  switched : Bool
  partials : List Partial
  waiting : List (Asker × Bytes)
  accepted : Option Accepted
  engaged : Option (Nat × Nat × Nat)
  engageReady : Bool
  rebuilding : Bool
  resyncing : Bool
  lostImage : Option Image
  deriving DecidableEq, Repr, Inhabited

/-- One lane's test words (R521, Table 2). -/
structure LaneTest where
  lane : Nat
  loop : Nat
  pattern : Nat
  txEn : Bool
  rxEn : Bool
  injecting : Bool
  injectBits : Nat
  injectPeriod : Nat
  rate : Nat
  lost : Bool
  lock : Bool
  user : BitVec 64
  errors : BitVec 64
  bits : BitVec 64
  deriving DecidableEq, Repr, Inhabited

/-- The test access port and its test spaces (R519 to R528). -/
structure Tap where
  ir : BitVec 8
  capture : BitVec 64
  cells : List Bool
  refusedAt : Option Nat
  lanes : List LaneTest
  mbistBusy : Bool
  mbistDone : Bool
  mbistMask : Nat
  channels : List (BitVec 64)
  stackWords : List (BitVec 64)
  deriving DecidableEq, Repr, Inhabited

/-- The far tier and the size table's far fields (R19, R32). -/
structure Far where
  gib : Nat
  mts : Nat
  trained : List Dimm
  final : Bool
  absent : List Nat
  deriving DecidableEq, Repr, Inhabited

/-- The management side. -/
structure Mgt where
  clk : Clk
  pwr : Pwr
  nvm : Nvm
  sec : Sec
  comp : Comp
  tap : Tap
  far : Far
  image : Option Image
  parts : List (Nat × Nat)
  deriving DecidableEq, Repr, Inhabited

/-! ### The store -/

/-- Where a frame lies (R25, R28): tier, half (0 west, 1 east) and device (stack or channel). -/
structure Loc where
  far : Bool
  half : Nat
  device : Nat
  deriving DecidableEq, Repr, Inhabited

/-- What the frame table and the heat counters hold for one frame that has been touched (R25, R36, R49, R50, R392, R498). -/
structure FrameRec where
  frame : Nat
  loc : Loc
  heatW : Nat
  heatE : Nat
  fresh : Bool
  coarseStale : Bool
  coarseAbsent : Bool
  guard : Option Nat
  deriving DecidableEq, Repr, Inhabited

/-- A request that waits on a frame in its flip, or behind held adds (R41 to R44). -/
abbrev HeldReq := Via × Msg

/-- A move of a frame (R40 to R45). -/
structure Move where
  frame : Nat
  dest : Loc
  swap : Option Nat
  pass : Nat
  dirty : List Nat
  flipping : Bool
  deriving DecidableEq, Repr, Inhabited

/-- Does a move take a frame along: its own, or the one it swaps with? -/
def Move.covers (v : Move) (f : Nat) : Bool := v.frame = f || v.swap = some f

/-- A combining or side-buffer entry (R43, R292): its line in the store, the pool address that named it, table format, task and group, and FP32 addends by element. Format 0 holds 32-bit halves of unsigned 64-bit addends. -/
structure AddEntry where
  line : Nat
  pool : Nat
  format : Nat
  task : Nat
  group : Nat
  sums : List (Nat × BitVec 32)
  deriving DecidableEq, Repr, Inhabited

/-- The store and its two tiers. `restored` are frames, as first and count, taken over from a lost package, and `own` the lines of them written since (R400, R401). -/
structure Store where
  mem : List Host.Cell
  poison : List Nat
  tags : List (Nat × BitVec 64)
  frames : List FrameRec
  free : List (Nat × Nat)
  nextDevice : List Nat
  moves : List Move
  side : List AddEntry
  combine : List AddEntry
  failed : List (Bool × Nat)
  recalFails : List (Nat × Nat)
  badRows : List (Nat × Nat × Nat)
  coarse : List (Nat × Bytes)
  lostRegions : List Nat
  restored : List (Nat × Nat)
  own : List Nat
  heatTick : Nat
  deriving DecidableEq, Repr, Inhabited

/-! ### Snapshots and KV sessions -/

/-- States of a version (R85, Table 4). -/
inductive VerState where
  | head
  | pinned
  | retained
  | retired
  deriving DecidableEq, Repr, Inhabited

/-- A version and its frame map, where it differs from the region's own frames. -/
structure Version where
  number : Nat
  state : VerState
  map : List (Nat × Nat)
  deriving DecidableEq, Repr, Inhabited

/-- States of a draft (R85, Table 4). -/
inductive DraftState where
  | draft
  | stale
  | spoilt
  deriving DecidableEq, Repr, Inhabited

/-- A draft: its base, its own copies, its reservation and what tasks have set aside (R80, R81). -/
structure Draft where
  base : Nat
  state : DraftState
  frozen : Bool
  map : List (Nat × Nat)
  copies : List (Nat × Nat)
  copying : List (Nat × Nat)
  reserved : List Nat
  setAside : List (Nat × Nat)
  deriving DecidableEq, Repr, Inhabited

/-- What an open view slot shows. -/
inductive Shown where
  | version (n : Nat)
  | draft (d : Draft)
  deriving DecidableEq, Repr, Inhabited

/-- A view slot that is open, or that an accepted task will open (R75, R76, R87). -/
structure View where
  slot : Nat
  shown : Shown
  owner : Nat
  opening : Option Nat
  closing : Option (Option Nat)
  publish : Option Nat
  committed : Bool
  deriving DecidableEq, Repr, Inhabited

/-- A SNAPSHOT region's version record and views (R78). -/
structure SnapRegion where
  region : Nat
  head : Nat
  versions : List Version
  views : List View
  deriving DecidableEq, Repr, Inhabited

/-- States of a KV session (R99, Table 8). -/
inductive KvState where
  | free
  | active
  | appending
  | dropping
  | lost
  deriving DecidableEq, Repr, Inhabited

/-- A page of one layer: its page table entry, its data frames and its summary (R90 to R92). -/
structure KvPage where
  id : Nat
  region : Nat
  session : Nat
  layer : Nat
  index : Nat
  tokens : Nat
  data : Nat
  summary : Option Bytes
  summaryAt : Nat
  share : Nat
  deriving DecidableEq, Repr, Inhabited

/-- A KV session (R89, R95). -/
structure KvSession where
  region : Nat
  session : Nat
  state : KvState
  length : Nat
  version : Nat
  holder : Option Nat
  pending : List Nat
  pages : List (Nat × Nat × Nat)
  creating : Option Nat
  committing : Option (Nat × Nat)
  deriving DecidableEq, Repr, Inhabited

/-- Snapshot and KV state. -/
structure Snaps where
  regions : List SnapRegion
  sessions : List KvSession
  pages : List KvPage
  nextPage : Nat
  summarySpace : List (Nat × Nat × List Nat)
  deriving DecidableEq, Repr, Inhabited

/-! ### Coherence -/

/-- A directory entry (R125, Table 2), with the tick of its allocation for R127. -/
structure DirEntry where
  line : Nat
  way : Nat
  owned : Bool
  clusters : BitVec 8
  hosts : BitVec 2
  coarse : Bool
  ptrs : List Nat
  groups : BitVec 64
  stamp : Nat
  deriving DecidableEq, Repr, Inhabited

/-- Snoops to holders (R138, Table 6), and a forwarded request (R132). -/
inductive SnoopKind where
  | inv
  | share
  | cur
  | fwd
  deriving DecidableEq, Repr, Inhabited

/-- An unanswered snoop: its holder, kind, the tick its timer started, and whether it has been sent. -/
structure Snoop where
  holder : Holder
  kind : SnoopKind
  since : Nat
  sent : Bool
  resent : Bool
  deriving DecidableEq, Repr, Inhabited

/-- A home tracker: a busy line, the request it serves, its snoops and what it waits for (R131, R132, R393). -/
structure Tracker where
  line : Nat
  via : Via
  req : Msg
  snoops : List Snoop
  complete : Option Nat
  guards : List (Nat × Nat × Bytes × Nat)
  owner : Option Nat
  supplied : Bool
  cause : Nat
  deriving DecidableEq, Repr, Inhabited

/-- A line of another package held in a cluster store of this one (R122, R137): state 1 S, 2 E, 3 M; in a write-back buffer also 0 given up and 4 freed by the next FWD. `poison` is the region number that came with a poisoned line (R536). -/
structure RemoteLine where
  line : Nat
  state : Nat
  data : Bytes
  poison : Option Nat
  writeback : Bool
  deriving DecidableEq, Repr, Inhabited

/-- An outstanding request of this package: its transaction, for whom it was sent, what it asked and what it still awaits (R346, R363). -/
structure Txn where
  txn : Nat
  via : Via
  msg : Msg
  since : Nat
  data : Option Bytes
  poison : Option Nat
  acks : Bool
  fwds : List Msg
  dead : Bool
  deriving DecidableEq, Repr, Inhabited

/-- Coherence state. `groups` are TOKEN_POSTs being applied: a number, the message, the lines left and the status so far (R352); `stamps` say since when a task's own request waits at a home of this package: task, line and tick (R363); `raw` holds words written through the debug port to directory slots, by their address in space 0x04 (R530, R531). -/
structure Coh where
  dir : List DirEntry
  stamp : Nat
  trackers : List Tracker
  waiting : List HeldReq
  remote : List RemoteLine
  txns : List Txn
  nextTxn : Nat
  walk : List Bool
  writebacks : List (Nat × Nat)
  otherMode : List Nat
  heldHome : List Msg
  groups : List (Nat × Msg × Nat × Nat)
  stamps : List (Nat × Nat × Nat)
  raw : List (Nat × BitVec 64)
  deriving DecidableEq, Repr, Inhabited

/-! ### Tasks -/

/-- States of a submitter slot (R151, Table 1). -/
inductive SlotState where
  | unbound
  | open_
  | resetting
  | closing
  deriving DecidableEq, Repr, Inhabited

/-- A submitter slot (R147, R151, R156, R162). -/
structure Slot where
  number : Nat
  state : SlotState
  alive : Nat
  fallback : Nat
  deriving DecidableEq, Repr, Inhabited

/-- What an unended task waits for (R459, Table 12). -/
inductive TaskState where
  | waitTally
  | waitSerial
  | waitClaim
  | waitContext
  | running
  | waitRemote
  | waitBank
  | waitReturn
  | waitResume
  | ending
  deriving DecidableEq, Repr, Inhabited

/-- The status, detail, flags and counts a task ends with (R168). -/
structure Result where
  status : Nat
  detail : Nat
  flags : Nat
  countA : Nat
  countB : Nat
  deriving DecidableEq, Repr, Inhabited

/-- A 64-byte line that has arrived for a task from outside the package. -/
structure Arrived where
  line : Nat
  data : Bytes
  poison : Option Nat
  deriving DecidableEq, Repr, Inhabited

/-- The progress of a multi-step operator: ROUTE's pairs, reservations sent and grants, EXPERT's slots, a gather's posts. -/
structure Progress where
  stage : Nat
  next : Nat
  count : Nat
  started : Nat
  pairs : List (Nat × Nat × Nat × Nat)
  asked : List (Nat × Nat × Nat)
  pend : List (Nat × Nat × Nat × Nat)
  retry : List (Nat × Nat)
  rerouted : Nat
  skipped : Nat
  seen : List Nat
  deriving DecidableEq, Repr, Inhabited

/-- What a task was accepted against: views as region, slot and whether it is an output, and a session's pages and version. -/
structure Binding where
  views : List (Nat × Nat × Bool)
  session : Option (Nat × Nat)
  tokens : Nat
  version : Nat
  committed : Nat
  pages : List (Nat × Nat)
  deriving DecidableEq, Repr, Inhabited

/-- An accepted task that has not ended. `entry` is its watch entry and the count of that entry's settings; `watchOut` holds the watched rows it has written, as format, elements, element bytes and scale bytes (R447 to R451). -/
structure Task where
  id : Nat
  slot : Nat
  part : Nat
  record : Bytes
  tick : Nat
  phase : Nat
  state : TaskState
  cluster : Nat
  context : Option (Nat × Nat)
  unitHeld : Bool
  polling : Bool
  entry : Option (WatchEntry × Nat)
  result : Option Result
  arrived : List Arrived
  outstanding : Nat
  written : List Nat
  flags : Nat
  late : List Nat
  bind : Binding
  prog : Progress
  waitAddr : Nat
  waitValue : Nat
  seen : Nat
  waitPackage : Nat
  watchOut : List (Nat × Nat × Bytes × Bytes)
  deriving DecidableEq, Repr, Inhabited

/-- States of an engine context (R177, Table 2). -/
inductive CtxState where
  | ready
  | running
  | waiting
  deriving DecidableEq, Repr, Inhabited

/-- An occupied engine context, and its task (R175, R177). -/
structure Ctx where
  engine : Nat
  number : Nat
  task : Nat
  state : CtxState
  since : Nat
  deriving DecidableEq, Repr, Inhabited

/-- A watch at a home atomic unit (R165): a local task, or a message of another package. -/
structure Watch where
  addr : Nat
  value : Nat
  task : Option Nat
  msg : Option Msg
  claim : Bool
  deriving DecidableEq, Repr, Inhabited

/-- Tasks, slots, contexts and watches; `watchSeq` holds a watch entry's number, the count of its settings and its next record number, and `due` are rejections whose completion address waits for a translation: slot, partition, address and record; `queue` holds tasks for which no context was free, in order of readiness (R179). -/
structure Tasks where
  slots : List Slot
  tasks : List Task
  nextTask : Nat
  ctxs : List Ctx
  generators : List (Nat × Nat × BitVec 32)
  watches : List Watch
  books : List (Nat × Nat × Nat × Nat × List Nat)
  bookWaits : List (Nat × Nat × Nat × Nat × Nat)
  tieHalf : Nat
  idleSince : Nat
  draws : Nat
  watchSeq : List (Nat × Nat × Nat)
  due : List (Nat × Nat × Nat × Bytes)
  queue : List Nat
  deriving DecidableEq, Repr, Inhabited

/-! ### Translation and host ports -/

/-- A translation cache entry (R65). -/
structure Xlt where
  cluster : Nat
  port : Nat
  page : Nat
  base : Nat
  bytes : Nat
  read : Bool
  write : Bool
  used : Nat
  invalidating : Bool
  deriving DecidableEq, Repr, Inhabited

/-- A translation request, outstanding or waiting in the agent (R66). -/
structure XltReq where
  port : Nat
  page : Nat
  bytes : Nat
  clusters : List Nat
  tasks : List Nat
  sent : Bool
  since : Nat
  deriving DecidableEq, Repr, Inhabited

/-- An outbound read of host memory, outstanding (R63). `drained` tells that no transfer is left of it for R69; `lost` that its task still awaits data that will not come (R324). -/
structure OutRead where
  port : Nat
  tag : Nat
  task : Nat
  line : Nat
  page : Nat
  flush : Bool
  drained : Bool
  lost : Bool
  since : Nat
  deriving DecidableEq, Repr, Inhabited

/-- An invalidation in progress (R69). -/
structure Inval where
  port : Nat
  itag : Nat
  base : Nat
  bytes : Nat
  answer : Bool
  deriving DecidableEq, Repr, Inhabited

/-- A committed HDM decoder (R318). -/
structure Hdm where
  index : Nat
  base : Nat
  size : Nat
  committed : Bool
  locked : Bool
  notCommitted : Bool
  deriving DecidableEq, Repr, Inhabited

/-- A host port (R311 to R331). -/
structure HostPort where
  mode : Nat
  width : Nat
  speed : Nat
  perst : Bool
  resetting : Bool
  memEnable : Bool
  busMaster : Bool
  bar0 : Nat
  bar2 : Nat
  bar4 : Nat
  ats : Bool
  bi : Bool
  d3 : Bool
  timeoutUs : Nat
  corrMask : BitVec 32
  uncorrMask : BitVec 32
  severity : BitVec 32
  corrStatus : BitVec 32
  uncorrStatus : BitVec 32
  maxPayload : Nat
  maxRead : Nat
  decoders : List Hdm
  nextTag : Nat
  bytesNow : Nat
  bytesLast : Nat
  deriving DecidableEq, Repr, Inhabited

/-- A host port's lease, its grants and what is held for the next window (R101, R389, R390). -/
structure HostLease where
  state : Nat
  renewed : Nat
  grants : Nat
  held : List Instr
  deriving DecidableEq, Repr, Inhabited

/-- A host read whose lines are being gathered: port, tag, pool address, bytes, and the lines that have come (R319, R534). -/
structure HostRead where
  port : Nat
  tag : Nat
  addr : Nat
  bytes : Nat
  cxl : Bool
  cls : Nat
  since : Nat
  part : Nat
  arrived : List Arrived
  failed : Bool
  deriving DecidableEq, Repr, Inhabited

/-- Translation and host ports. -/
structure Hosts where
  ports : List HostPort
  leases : List HostLease
  caches : List Xlt
  reqs : List XltReq
  reads : List OutRead
  hostReads : List HostRead
  invals : List Inval
  flushDue : List (Nat × Nat)
  uses : Nat
  windowAt : Nat
  deriving DecidableEq, Repr, Inhabited

/-! ### The fabric and its scheduling -/

/-- States of a Daras port (R343, Table 3). -/
inductive PortState where
  | disabled
  | detect
  | train
  | align
  | up
  | self
  | replay
  | sparing
  | down
  deriving DecidableEq, Repr, Inhabited

/-- A Daras port (R332 to R344). `trained` are the lanes that locked; `spared` and `txSpared` the lane that lane 8 stands for in each direction; `mapAwaited` tells that the far end owes its own LANE_MAP; `replayBuf` holds unacknowledged flits as sequence number, tick and bytes; an episode is the number it named and the tick it began; `returned` are credits not yet sent back. -/
structure DarPort where
  state : PortState
  far : Option Ident
  loop : Bool
  width : Nat
  trained : List Nat
  spared : Option Nat
  txSpared : Option Nat
  mapAwaited : Bool
  disagreed : Bool
  txSeq : Nat
  rxSeq : Nat
  ackDue : Bool
  replayBuf : List (Nat × Nat × Bytes)
  rxEpisode : Option (Nat × Nat)
  txEpisode : Option (Nat × Nat)
  credits : List Nat
  returned : List Nat
  rxUnits : List Bytes
  since : Nat
  episodes : Nat
  deriving DecidableEq, Repr, Inhabited

/-- An item of a scheduling queue: a message, its coherence class, its counted payload, its partition and class, its tick, and its colour: 0 not yet coloured, 1 green, 2 yellow. -/
structure QItem where
  msg : Msg
  host : Option (Nat × Bytes)
  coh : Nat
  bytes : Nat
  part : Nat
  cls : Nat
  tick : Nat
  colour : Nat
  deriving DecidableEq, Repr, Inhabited

/-- A queue (R367 to R373). `cb` and `pb` are what is missing from the committed and the peak bucket, in 1/256 B. -/
structure Queue where
  number : Nat
  items : List QItem
  cb : Nat
  pb : Nat
  deficit : Nat
  depthMax : Nat
  delayMax : Nat
  sample : Nat × Nat × Nat × Nat
  deriving DecidableEq, Repr, Inhabited

/-- A scheduling point (R365 to R379). -/
structure Point where
  queues : List Queue
  last : Nat
  deal : Option Deal
  entry : Nat
  entryStart : Nat
  takeover : Option (Nat × Deal)
  deriving DecidableEq, Repr, Inhabited

/-- A member's silence and lease, as this package sees it (R383, R384, R389). -/
structure Member where
  id : Nat
  lease : Nat
  lastBeat : Option Nat
  since : Nat
  suspectedAt : Option Nat
  logged : Bool
  set : List Nat
  sent : Nat
  deriving DecidableEq, Repr, Inhabited

/-- Whist (R383 to R389). -/
structure WhistState where
  members : List Member
  suspicions : List (Nat × Nat × Nat)
  verdicts : List (Nat × Nat)
  armed : Option Nat
  fenced : Bool
  beats : Nat
  lastBeatSend : Nat
  degraded : List Nat
  holds : List (Nat × Nat × Nat)
  nextGuard : Nat
  freedGuards : List Nat
  deriving DecidableEq, Repr, Inhabited

/-- An operational message sent on to its target for an MCTP endpoint: its transaction, the tick of its first segment, the epoch it was last sent under, whether it has been redirected, and whether it waits for this package to hold that epoch (R361, R474). -/
structure Forward where
  txn : Nat
  endpoint : Nat
  target : Nat
  since : Nat
  epoch : Nat
  resent : Bool
  held : Bool
  bytes : Bytes
  deriving DecidableEq, Repr, Inhabited

/-- The fabric. `inbox` holds delivered messages with the port each came by, 8 for none; `early` are those of a partition received before its PART_DETACH was accepted (R405); `sampleAt` is the tick of the last queue sample. -/
structure Fabric where
  ports : List DarPort
  points : List Point
  inbox : List (Nat × Msg)
  early : List Msg
  forwards : List Forward
  sampleTicks : Nat
  sampleAt : Nat
  whist : WhistState
  deriving DecidableEq, Repr, Inhabited

/-! ### Observation -/

/-- An error-log entry (R452, Table 9). -/
structure LogEntry where
  seq : Nat
  severity : Nat
  block : Nat
  event : Nat
  ltb : Nat
  part : Option Nat
  flash : Bool
  package : Nat
  slot : Nat
  count : Nat
  addr : Nat
  detail : List Nat
  deriving DecidableEq, Repr, Inhabited

/-- Observation (R437 to R459). -/
structure Obs where
  mode : Nat
  enable : Nat
  counters : List (Nat × Nat)
  watch : List WatchEntry
  log : List LogEntry
  logCount : Nat
  pending : Option (Nat × Nat × Nat × Nat × Nat)
  patience : List (BitVec 64)
  shadows : Option (List (BitVec 64))
  flashDue : List (Nat × Bytes)
  deriving DecidableEq, Repr, Inhabited

/-- What the package has put on its wires: answers to hosts and MCTP, Daras flits, and snoops. The code of an MCTP answer is its message type, 0x7E or 0x05 for SPDM, in bits 15:8, and its command or response code in bits 7:0. -/
inductive Out where
  | host (port : Nat) (tag : Nat) (status : Nat) (data : Bytes)
  | hostWrite (port : Nat) (addr : Nat) (data : Bytes)
  | hostRead (port : Nat) (tag : Nat) (addr : Nat) (bytes : Nat)
  | atsRequest (port : Nat) (addr : Nat) (bytes : Nat)
  | atsInvalidated (port : Nat) (itag : Nat)
  | bisnp (port : Nat) (kind : SnoopKind) (addr : Nat)
  | flit (port : Nat) (bytes : Bytes)
  | mctp (endpoint : Nat) (code : Nat) (data : Bytes)
  | mailbox (port : Nat) (code : Nat) (data : Bytes)
  | doe (port : Nat) (data : Bytes)
  | avs (millivolts : Nat)
  | scan (cells : List Bool)
  deriving DecidableEq, Repr, Inhabited

/-- The data plane. -/
structure Dp where
  store : Store
  snaps : Snaps
  coh : Coh
  tasks : Tasks
  hosts : Hosts
  fab : Fabric
  obs : Obs
  out : List Out
  deriving DecidableEq, Repr, Inhabited

/-- The package, and the commands that wait for it, first in, first out. -/
structure State where
  mgt : Mgt
  dp : Dp
  pending : List Instr
  deriving DecidableEq, Repr

/-! ### The state right after reset -/

/-- Fuses of an RDX-96-A before an owner is provisioned: every key hash blank (R411). -/
def Fuses.blank : Fuses where
  partB := false
  disabled := []
  serial := 0
  identitySecret := []
  deviceSecret := []
  rootHash := []
  chain := []
  fwKeyHash := [none, none, none, none]
  fwRevoked := [false, false, false, false]
  ownerHash := none
  fwCounter := 0
  imageCounter := 0
  setPoints := List.replicate 10 750

/-- The debug port at start (R430, Table 7). -/
def DbgPort.reset : DbgPort where
  space := 0
  select := 0
  addr := 0
  data := 0
  done := false
  denied := false
  error := false
  busy := false
  refusedAt := none

/-- An MCTP endpoint before its bus owner gives it an EID. -/
def Endpoint.reset : Endpoint where
  eid := none
  version := false
  capabilities := false
  algorithms := false
  v13 := false

/-- Clocks at reset: LTB zero, ENG at its 1.0 GHz starting clock (R482, R483). -/
def Clk.reset : Clk where
  phase := .inReset
  ltb := 0
  mode48 := false
  bootSel := 0
  bootRom := []
  copiesTried := 0
  fwSecver := 0
  fwCommit := false
  engMhz := 1000
  engLast := 0
  engDone := false
  farDone := false

/-- Power at reset: VCORE at its boot voltage of 0.75 V (R507, R508). -/
def Pwr.reset : Pwr where
  pwrok := true
  setPoint := 750
  oldSetPoint := 750
  commandTick := none
  pendingMhz := none
  avsAnswers := true
  warnMilliamps := none
  rails := List.replicate 8 (0, 0)
  words := List.replicate 8 0
  causeTick := 0
  powerAvg := 0
  powerWindow := []
  temps := List.replicate 40 0
  sagVcore := false
  sagVdd := false
  sagPwrok := false
  thermTrip := false

/-- Flash erased and described under JESD216, fuses as manufactured, no write under way. -/
def Nvm.reset : Nvm where
  chip := ⟨134217728, true, true, true⟩
  flash := []
  fuses := Fuses.blank
  ops := []
  writeAsker := none
  logNext := 0
  logWrapped := false
  extra := []
  starts := 0

/-- Security at reset: extended measurements are 64 zero bytes (R413), alive values 0x00 (R475). -/
def Sec.reset : Sec where
  level := .sealed
  highest := .sealed
  opening := false
  meas1 := List.replicate 64 0
  meas2 := List.replicate 64 0
  meas3 := List.replicate 64 0
  meas5 := List.replicate 64 0
  meas6 := List.replicate 64 0
  keys := []
  sealedLost := false
  alive := List.replicate 6 0
  dbg := DbgPort.reset
  endpoints := List.replicate 3 Endpoint.reset
  power := .run
  retaining := false
  waking := false
  i3cHeld := []

/-- No map, no message, no spare. -/
def Comp.reset : Comp where
  stamp := 0
  maps := []
  switched := false
  partials := []
  waiting := []
  accepted := none
  engaged := none
  engageReady := false
  rebuilding := false
  resyncing := false
  lostImage := none

/-- Test-Logic-Reset with IDCODE selected (R519); reports read zero. -/
def Tap.reset : Tap where
  ir := 0x01
  capture := 0
  cells := []
  refusedAt := none
  lanes := []
  mbistBusy := false
  mbistDone := false
  mbistMask := 0
  channels := List.replicate 16 0
  stackWords := List.replicate 8 0

/-- Far-tier fields at start (R19, Table 5). -/
def Far.reset : Far where
  gib := 0
  mts := 0
  trained := []
  final := false
  absent := []

/-- The management side at reset. -/
def Mgt.reset : Mgt where
  clk := Clk.reset
  pwr := Pwr.reset
  nvm := Nvm.reset
  sec := Sec.reset
  comp := Comp.reset
  tap := Tap.reset
  far := Far.reset
  image := none
  parts := []

/-- An empty store: every byte reads zero (R498). -/
def Store.reset : Store where
  mem := []
  poison := []
  tags := []
  frames := []
  free := []
  nextDevice := [0, 0, 0, 0]
  moves := []
  side := []
  combine := []
  failed := []
  recalFails := []
  badRows := []
  coarse := []
  lostRegions := []
  restored := []
  own := []
  heatTick := 0

/-- No view, version or session before an image is in force. -/
def Snaps.reset : Snaps where
  regions := []
  sessions := []
  pages := []
  nextPage := 0
  summarySpace := []

/-- An empty directory (R125) and no transaction. -/
def Coh.reset : Coh where
  dir := []
  stamp := 0
  trackers := []
  waiting := []
  remote := []
  txns := []
  nextTxn := 0
  walk := [false, false]
  writebacks := []
  otherMode := []
  heldHome := []
  groups := []
  stamps := []
  raw := []

/-- No slot, no task, every context FREE (R177). -/
def Tasks.reset : Tasks where
  slots := []
  tasks := []
  nextTask := 0
  ctxs := []
  generators := []
  watches := []
  books := []
  bookWaits := []
  tieHalf := 1
  idleSince := 0
  draws := 0
  watchSeq := []
  due := []
  queue := []

/-- A host port that has not trained (R311), its configuration at reset values. -/
def HostPort.reset : HostPort where
  mode := 0
  width := 0
  speed := 0
  perst := false
  resetting := false
  memEnable := false
  busMaster := false
  bar0 := 0
  bar2 := 0
  bar4 := 0
  ats := false
  bi := false
  d3 := false
  timeoutUs := 50000
  corrMask := 0x0000E000
  uncorrMask := 0x02400000
  severity := 0x00462030
  corrStatus := 0
  uncorrStatus := 0
  maxPayload := 128
  maxRead := 512
  decoders := []
  nextTag := 0
  bytesNow := 0
  bytesLast := 0

/-- A lease that has never been granted (R389). -/
def HostLease.reset : HostLease where
  state := 0
  renewed := 0
  grants := 0
  held := []

/-- Both host ports at reset. -/
def Hosts.reset : Hosts where
  ports := [HostPort.reset, HostPort.reset]
  leases := [HostLease.reset, HostLease.reset]
  caches := []
  reqs := []
  reads := []
  hostReads := []
  invals := []
  flushDue := []
  uses := 0
  windowAt := 0

/-- A Daras port before an image enables it: idle transmitters (R343). -/
def DarPort.reset : DarPort where
  state := .disabled
  far := none
  loop := false
  width := 8
  trained := []
  spared := none
  txSpared := none
  mapAwaited := false
  disagreed := false
  txSeq := 0
  rxSeq := 0
  ackDue := false
  replayBuf := []
  rxEpisode := none
  txEpisode := none
  credits := [512, 256, 256, 1024, 1024]
  returned := [0, 0, 0, 0, 0]
  rxUnits := []
  since := 0
  episodes := 0

/-- A scheduling point with every gate open and nothing queued. -/
def Point.reset : Point where
  queues := []
  last := 0
  deal := none
  entry := 0
  entryStart := 0
  takeover := none

/-- No lease set, not fenced (R389). -/
def WhistState.reset : WhistState where
  members := []
  suspicions := []
  verdicts := []
  armed := none
  fenced := false
  beats := 0
  lastBeatSend := 0
  degraded := []
  holds := []
  nextGuard := 0
  freedGuards := []

/-- Eight ports and twelve points. -/
def Fabric.reset : Fabric where
  ports := List.replicate 8 DarPort.reset
  points := List.replicate 12 Point.reset
  inbox := []
  early := []
  forwards := []
  sampleTicks := 0
  sampleAt := 0
  whist := WhistState.reset

/-- Counters off, log empty (R437). -/
def Obs.reset : Obs where
  mode := 0
  enable := 0
  counters := []
  watch := []
  log := []
  logCount := 0
  pending := none
  patience := []
  shadows := none
  flashDue := []

/-- The data plane at reset. -/
def Dp.reset : Dp where
  store := Store.reset
  snaps := Snaps.reset
  coh := Coh.reset
  tasks := Tasks.reset
  hosts := Hosts.reset
  fab := Fabric.reset
  obs := Obs.reset
  out := []

/-- The package right after reset: held in internal reset with its At start values, flash erased, no command waiting. -/
def State.reset : State where
  mgt := Mgt.reset
  dp := Dp.reset
  pending := []

end Sys2Proof.Machine
end

