-- ==== Sys2Proof/Machine/Bits.lean ====
section
/-! DEFINITION. Fields of little-endian words (R5), association lists, and the store's cells. -/

namespace Sys2Proof.Machine

/-- The number whose little-endian bytes are given, lowest address first (R5). -/
def leNat : Bytes → Nat
  | [] => 0
  | b :: bs => b.toNat + 256 * leNat bs

/-- The `n` little-endian bytes of a number (R5). -/
def natBytes : Nat → Nat → Bytes
  | 0, _ => []
  | n + 1, x => BitVec.ofNat 8 x :: natBytes n (x / 256)

/-- Bits hi to lo inclusive (R5). -/
def bits (x hi lo : Nat) : Nat := (x >>> lo) % 2 ^ (hi + 1 - lo)

/-- One bit as a truth value. -/
def bitAt (x i : Nat) : Bool := (x >>> i) % 2 = 1

/-- `n` bytes at an offset. -/
def slice (b : Bytes) (off n : Nat) : Bytes := (b.drop off).take n

/-- The 64-bit word of index `i`. -/
def wordAt (b : Bytes) (i : Nat) : Nat := leNat (slice b (8 * i) 8)

/-- A field of word `i`, bits hi to lo. -/
def fieldAt (b : Bytes) (i hi lo : Nat) : Nat := bits (wordAt b i) hi lo

/-- The bytes of a list of 64-bit words. -/
def wordsBytes (ws : List Nat) : Bytes := ws.flatMap (natBytes 8)

/-- Zero bytes. -/
def zeros (n : Nat) : Bytes := List.replicate n 0

/-- A byte string padded with zeros, or cut, to a length. -/
def fit (n : Nat) (b : Bytes) : Bytes := (b ++ zeros n).take n

/-- The least multiple of `k` that is at least `n`. -/
def roundUp (n k : Nat) : Nat := (n + k - 1) / k * k

/-- The quotient rounded up. -/
def ceilDiv (n k : Nat) : Nat := (n + k - 1) / k

/-- The largest power of two not above `n`, as its exponent. -/
def log2 (n : Nat) : Nat := Nat.log2 n

/-- The value of a key in an association list. -/
def assoc {α β : Type} [DecidableEq α] (l : List (α × β)) (k : α) : Option β := (l.find? (·.1 = k)).map (·.2)

/-- An association list with a key set. -/
def setKey {α β : Type} [DecidableEq α] (l : List (α × β)) (k : α) (v : β) : List (α × β) := (k, v) :: l.filter (·.1 ≠ k)

/-- An association list without a key. -/
def dropKey {α β : Type} [DecidableEq α] (l : List (α × β)) (k : α) : List (α × β) := l.filter (·.1 ≠ k)

/-- A list with the element of index `i` changed. -/
def modAt {α : Type} (l : List α) (i : Nat) (f : α → α) : List α := l.modify i f

/-- A list with every element that meets a test changed. -/
def modWhere {α : Type} (l : List α) (p : α → Bool) (f : α → α) : List α := l.map fun a => if p a then f a else a

/-- A list with an element added unless it stands there already. -/
def addNew {α : Type} [DecidableEq α] (l : List α) (a : α) : List α := if a ∈ l then l else a :: l

/-- The element with the least key, the first among equals. -/
def minBy {α : Type} (key : α → Nat) : List α → Option α
  | [] => none
  | a :: as => match minBy key as with
    | none => some a
    | some b => if key a ≤ key b then some a else some b

/-- A list put in increasing order of a strict order, stable. -/
def insertBy {α : Type} (lt : α → α → Bool) (a : α) : List α → List α
  | [] => [a]
  | b :: bs => if lt b a then b :: insertBy lt a bs else a :: b :: bs

/-- Insertion sort by a strict order; equal elements keep their places. -/
def sortBy {α : Type} (lt : α → α → Bool) : List α → List α
  | [] => []
  | a :: as => insertBy lt a (sortBy lt as)

/-- The exclusive OR of two byte strings of one length. -/
def xorBytes (a b : Bytes) : Bytes := List.zipWith (· ^^^ ·) a b

/-- The nibble count of a mask: how many of the low `n` bits are set. -/
def popBits (n x : Nat) : Nat := ((List.range n).filter (bitAt x)).length

/-- The numbers below `n` whose bits are set. -/
def setBits (n x : Nat) : List Nat := (List.range n).filter (bitAt x)

/-- The ASCII bytes of a string. -/
def ascii (s : String) : Bytes := s.toList.map fun c => BitVec.ofNat 8 c.toNat

/-! ### Cells -/

/-- What a list of cells reads as at an address, with `d` where nothing is listed. -/
def cellGet (d : Byte) (m : List Host.Cell) (a : Nat) : Byte :=
  match m with
  | [] => d
  | (k, v) :: rest => if k = a then v else cellGet d rest a

/-- A list of cells with one byte written; writing what an unlisted address reads as removes the cell. -/
def cellSet (d : Byte) (m : List Host.Cell) (a : Nat) (b : Byte) : List Host.Cell :=
  match m with
  | [] => if b = d then [] else [(a, b)]
  | (k, v) :: rest =>
    if a < k then (if b = d then (k, v) :: rest else (a, b) :: (k, v) :: rest)
    else if a = k then (if b = d then rest else (a, b) :: rest)
    else (k, v) :: cellSet d rest a b

/-- Every key of the list lies above a bound, strictly rising, and no value is the default. -/
def cellWfFrom (d : Byte) : Option Nat → List Host.Cell → Bool
  | _, [] => true
  | lo, (k, v) :: rest => (match lo with | none => true | some l => l < k) && v != d && cellWfFrom d (some k) rest

/-- The canonical form: addresses strictly rising, and no cell equal to what an unlisted address reads as. -/
def cellWf (d : Byte) (m : List Host.Cell) : Bool := cellWfFrom d none m

/-- Bytes written from an address upwards. -/
def cellWrite (d : Byte) (m : List Host.Cell) (a : Nat) : Bytes → List Host.Cell
  | [] => m
  | b :: bs => cellWrite d (cellSet d m a b) (a + 1) bs

/-- `n` bytes read from an address upwards. -/
def cellRead (d : Byte) (m : List Host.Cell) (a : Nat) : Nat → Bytes
  | 0 => []
  | n + 1 => cellGet d m a :: cellRead d m (a + 1) n

/-- The store's memory in canonical form: an unlisted byte reads zero (R498). -/
def Memory.wf (m : List Host.Cell) : Bool := cellWf 0 m

/-- A byte of the flash: an unlisted byte reads as erased. -/
def flashRead (n : Nvm) (a len : Nat) : Bytes := cellRead 0xFF n.flash a len

end Sys2Proof.Machine
end

