-- ==== Sys2Proof/Machine/Float.lean ====
section
/-! DEFINITION. Number formats, exact values, one rounding, and the FP32 arithmetic and functions of the engines (R181, R182, R186 to R194, R291). -/

namespace Sys2Proof.Machine

/-- A value: NaN, an infinity, or a sign and an exact dyadic magnitude m × 2^e. -/
inductive FVal where
  | nan
  | inf (neg : Bool)
  | fin (neg : Bool) (m : Nat) (e : Int)
  deriving DecidableEq, Repr, Inhabited

/-- A floating-point element format: exponent bits, fraction bits, bias, the largest finite code, and the codes of infinity and NaN where it has them. -/
structure FloatFmt where
  expBits : Nat
  fracBits : Nat
  bias : Nat
  maxCode : Nat
  infCode : Option Nat
  nanCode : Option Nat
  deriving DecidableEq, Repr

/-- FP8 E4M3. -/
def e4m3 : FloatFmt := ⟨4, 3, 7, 0x7E, none, some 0x7F⟩
/-- FP8 E5M2. -/
def e5m2 : FloatFmt := ⟨5, 2, 15, 0x7B, some 0x7C, some 0x7E⟩
/-- BF16. -/
def bf16 : FloatFmt := ⟨8, 7, 127, 0x7F7F, some 0x7F80, some 0x7FC0⟩
/-- FP16. -/
def fp16 : FloatFmt := ⟨5, 10, 15, 0x7BFF, some 0x7C00, some 0x7E00⟩
/-- FP32. -/
def fp32 : FloatFmt := ⟨8, 23, 127, 0x7F7FFFFF, some 0x7F800000, some 0x7FC00000⟩
/-- FP4 E2M1. -/
def e2m1 : FloatFmt := ⟨2, 1, 1, 7, none, none⟩
/-- FP6 E2M3. -/
def e2m3 : FloatFmt := ⟨2, 3, 1, 31, none, none⟩
/-- FP6 E3M2. -/
def e3m2 : FloatFmt := ⟨3, 2, 3, 31, none, none⟩

/-- The floating-point element of a format code (R181, Table 4), MX formats by their elements. -/
def floatOf : Nat → Option FloatFmt
  | 0x01 => some e4m3
  | 0x02 => some e5m2
  | 0x03 => some bf16
  | 0x04 => some fp16
  | 0x05 => some fp32
  | 0x08 => some e2m1
  | 0x11 => some e4m3
  | 0x12 => some e5m2
  | 0x13 => some e2m3
  | 0x14 => some e3m2
  | 0x15 => some e2m1
  | _ => none

/-- Element bits of a format code (R181, Table 4); 0 for a code the table does not list. -/
def fmtBits : Nat → Nat
  | 0x01 => 8
  | 0x02 => 8
  | 0x03 => 16
  | 0x04 => 16
  | 0x05 => 32
  | 0x06 => 8
  | 0x07 => 4
  | 0x08 => 4
  | 0x11 => 8
  | 0x12 => 8
  | 0x13 => 6
  | 0x14 => 6
  | 0x15 => 4
  | 0x16 => 8
  | _ => 0

/-- A format code that shares block scales. -/
def fmtMx (f : Nat) : Bool := f ≥ 0x11 && f ≤ 0x16

/-- The index of a format in the counters (R443). -/
def fmtIndex (f : Nat) : Nat := if f < 0x10 then f else f - 8

/-- The value of a floating-point code. -/
def decodeFloat (f : FloatFmt) (code : Nat) : FVal :=
  let neg := bitAt code (f.expBits + f.fracBits)
  let mag := code % 2 ^ (f.expBits + f.fracBits)
  if mag ≤ f.maxCode then
    let e := mag / 2 ^ f.fracBits
    let m := mag % 2 ^ f.fracBits
    if e = 0 then .fin neg m (1 - f.bias - f.fracBits : Int)
    else .fin neg (2 ^ f.fracBits + m) ((e : Int) - f.bias - f.fracBits)
  else if some mag = f.infCode then .inf neg else .nan

/-- A two's-complement integer of a width, as a value scaled by 2^e. -/
def decodeInt (width code : Nat) (e : Int) : FVal :=
  if bitAt code (width - 1) then .fin true (2 ^ width - code) e else .fin false code e

/-- The value of an element of a format, before any block scale (R181, R182). -/
def decodeElem (f code : Nat) : FVal :=
  match floatOf f with
  | some k => decodeFloat k code
  | none => match f with
    | 0x06 => decodeInt 8 code 0
    | 0x07 => decodeInt 4 code 0
    | 0x16 => decodeInt 8 code (-6)
    | _ => .fin false 0 0

/-- A value times a power of two. -/
def FVal.scale (v : FVal) (k : Int) : FVal :=
  match v with
  | .fin n m e => .fin n m (e + k)
  | v => v

/-- The opposite value. -/
def FVal.neg : FVal → FVal
  | .nan => .nan
  | .inf n => .inf (!n)
  | .fin n m e => .fin (!n) m e

/-- The magnitude. -/
def FVal.abs : FVal → FVal
  | .nan => .nan
  | .inf _ => .inf false
  | .fin _ m e => .fin false m e

/-- Exactly zero. -/
def FVal.isZero : FVal → Bool
  | .fin _ m _ => m = 0
  | _ => false

/-- Not a number. -/
def FVal.isNan : FVal → Bool
  | .nan => true
  | _ => false

/-- A signed integer times a power of two, as a value. -/
def ofDyadic (i : Int) (e : Int) : FVal := if i < 0 then .fin true i.natAbs e else .fin false i.natAbs e

/-- The signed integer of a finite value over a lower exponent. -/
def signedAt (neg : Bool) (m : Nat) (e lo : Int) : Int :=
  let i : Int := m * 2 ^ (e - lo).toNat
  if neg then -i else i

/-- The exact sum (R188); a zero sum of opposite signs is positive. -/
def FVal.add (a b : FVal) : FVal :=
  match a, b with
  | .nan, _ => .nan
  | _, .nan => .nan
  | .inf x, .inf y => if x = y then .inf x else .nan
  | .inf x, _ => .inf x
  | _, .inf y => .inf y
  | .fin n m e, .fin n' m' e' =>
    if m = 0 && m' = 0 then .fin (n && n') 0 0
    else
      let lo := min e e'
      ofDyadic (signedAt n m e lo + signedAt n' m' e' lo) lo

/-- The exact product (R187, R188). -/
def FVal.mul (a b : FVal) : FVal :=
  match a, b with
  | .nan, _ => .nan
  | _, .nan => .nan
  | .inf x, .inf y => .inf (x != y)
  | .inf x, .fin n m _ => if m = 0 then .nan else .inf (x != n)
  | .fin n m _, .inf y => if m = 0 then .nan else .inf (n != y)
  | .fin n m e, .fin n' m' e' => .fin (n != n') (m * m') (e + e')

/-- The quotient, to 96 bits beyond its leading bit with a sticky bit below, so that one rounding is exact. -/
def FVal.div (a b : FVal) : FVal :=
  match a, b with
  | .nan, _ => .nan
  | _, .nan => .nan
  | .inf _, .inf _ => .nan
  | .inf x, .fin n _ _ => .inf (x != n)
  | .fin n _ _, .inf y => .fin (n != y) 0 0
  | .fin n m e, .fin n' m' e' =>
    if m' = 0 then (if m = 0 then .nan else .inf (n != n'))
    else
      let k := 96 + Nat.log2 m'
      let q := m * 2 ^ k / m'
      let sticky := if m * 2 ^ k % m' = 0 then 0 else 1
      .fin (n != n') (2 * q + sticky) (e - e' - k - 1)

/-- Is a value strictly below another? False where either is NaN. -/
def FVal.lt (a b : FVal) : Bool :=
  match a, b with
  | .nan, _ => false
  | _, .nan => false
  | .inf x, .inf y => x && !y
  | .inf x, _ => x
  | _, .inf y => !y
  | .fin n m e, .fin n' m' e' => let lo := min e e'; signedAt n m e lo < signedAt n' m' e' lo

/-- The larger of two values; a NaN takes no part. -/
def FVal.max (a b : FVal) : FVal := if a.isNan then b else if b.isNan then a else if a.lt b then b else a

/-- The smaller of two values; a NaN takes no part. -/
def FVal.min (a b : FVal) : FVal := if a.isNan then b else if b.isNan then a else if b.lt a then b else a

/-! ### Rounding -/

/-- Rounding modes (R191, R93): nearest even, towards zero, stochastic with 16 drawn bits, upward and downward. -/
inductive Round where
  | rne
  | rtz
  | sr (r : Nat)
  | up
  | down
  deriving DecidableEq, Repr

/-- Does an inexact magnitude `n + rem/den` of a sign round away from zero? -/
def roundsAway (mode : Round) (neg : Bool) (n rem den : Nat) : Bool :=
  match mode with
  | .rne => 2 * rem > den || (2 * rem = den && n % 2 = 1)
  | .rtz => false
  | .up => rem > 0 && !neg
  | .down => rem > 0 && neg
  | .sr r =>
    if rem = 0 then false
    else if neg then !((den - rem) * 65536 / den + r ≥ 65536)
    else rem * 65536 / den + r ≥ 65536

/-- A magnitude m × 2^e as an integer count of 2^q, rounded. -/
def roundTo (mode : Round) (neg : Bool) (m : Nat) (e q : Int) : Nat :=
  if q ≤ e then m * 2 ^ (e - q).toNat
  else
    let den := 2 ^ (q - e).toNat
    let n := m / den
    if roundsAway mode neg n (m % den) den then n + 1 else n

/-- ⌊log₂⌋ of a magnitude m × 2^e that is not zero. -/
def floorLog (m : Nat) (e : Int) : Int := (Nat.log2 m : Int) + e

/-- The magnitude code of a finite magnitude, which may pass the format's largest (R191). -/
def roundCode (f : FloatFmt) (mode : Round) (neg : Bool) (m : Nat) (e : Int) : Nat :=
  if m = 0 then 0
  else
    let emin : Int := 1 - f.bias
    let ex := max (floorLog m e) emin
    roundTo mode neg m e (ex - f.fracBits) + (ex - emin).toNat * 2 ^ f.fracBits

/-- The code of a value in a floating-point format, under a mode and SAT (R193, Table 5). -/
def encodeFloat (f : FloatFmt) (mode : Round) (sat : Bool) (v : FVal) : Nat :=
  let sign := fun (neg : Bool) => if neg then 2 ^ (f.expBits + f.fracBits) else 0
  let beyond := fun (neg : Bool) =>
    if sat then sign neg + f.maxCode
    else match f.infCode, f.nanCode with
      | some i, _ => sign neg + i
      | none, some n => n
      | none, none => sign neg + f.maxCode
  match v with
  | .nan => f.nanCode.getD 0
  | .inf n => beyond n
  | .fin n m e =>
    let c := roundCode f mode n m e
    if c ≤ f.maxCode then sign n + c
    else if mode = .rtz then sign n + f.maxCode
    else beyond n

/-- The code of a value in a two's-complement integer of 8 bits scaled by 2^e, saturated (R193, R194). -/
def encodeInt8 (mode : Round) (e : Int) (v : FVal) : Nat :=
  match v with
  | .nan => 0
  | .inf n => if n then 128 else 127
  | .fin n m k =>
    let i := roundTo mode n m k e
    if n then (256 - min i 128) % 256 else min i 127

/-- The code of a value in INT4, saturated as INT8 saturates (R193, R248). -/
def encodeInt4 (mode : Round) (v : FVal) : Nat :=
  match v with
  | .nan => 0
  | .inf n => if n then 8 else 7
  | .fin n m k =>
    let i := roundTo mode n m k 0
    if n then (16 - min i 8) % 16 else min i 7

/-- The code of a value in an element format that is not MX (R193). -/
def encodeElem (f : Nat) (mode : Round) (sat : Bool) (v : FVal) : Nat :=
  match floatOf f with
  | some k => encodeFloat k (if f = 0x05 then .rne else mode) sat v
  | none => if f = 0x06 then encodeInt8 mode 0 v else if f = 0x07 then encodeInt4 mode v else 0

/-- A value rounded once to FP32, nearest even. -/
def f32 (v : FVal) : FVal := decodeFloat fp32 (encodeFloat fp32 .rne false v)

/-- The FP32 code of a value. -/
def f32Code (v : FVal) : Nat := encodeFloat fp32 .rne false v

/-- The value of an FP32 code. -/
def f32Val (c : Nat) : FVal := decodeFloat fp32 c

/-- FP32 sum with one rounding. -/
def fadd (a b : FVal) : FVal := f32 (a.add b)
/-- FP32 difference with one rounding. -/
def fsub (a b : FVal) : FVal := f32 (a.add b.neg)
/-- FP32 product with one rounding. -/
def fmul (a b : FVal) : FVal := f32 (a.mul b)
/-- FP32 quotient with one rounding. -/
def fdiv (a b : FVal) : FVal := f32 (a.div b)

/-- The value zero. -/
def fzero : FVal := .fin false 0 0
/-- The value of a natural number. -/
def fnat (n : Nat) : FVal := .fin false n 0

/-! ### MX results -/

/-- The exponent e of an MX element format (R194). -/
def mxExp : Nat → Int
  | 0x11 => 8
  | 0x12 => 15
  | 0x13 => 2
  | 0x14 => 4
  | 0x15 => 2
  | _ => 0

/-- The scale byte of an MX block of results (R194). -/
def mxScale (f : Nat) (vs : List FVal) : Nat :=
  if vs.any fun v => match v with | .fin _ _ _ => false | _ => true then 0xFF
  else
    let amax := vs.foldl (fun a v => a.max v.abs) fzero
    match amax with
    | .fin _ m e =>
      if m = 0 then 0
      else (max (-127) (min 127 (floorLog m e - mxExp f)) + 127).toNat
    | _ => 0xFF

/-- With SAT 1 infinities are first replaced by the largest FP32 magnitude (R194). -/
def mxSat (sat : Bool) (v : FVal) : FVal :=
  match v with
  | .inf n => if sat then decodeFloat fp32 (fp32.maxCode + if n then 2 ^ 31 else 0) else v
  | v => v

/-- An MX element under its scale byte (R194). -/
def mxElem (f : Nat) (mode : Round) (scale : Nat) (v : FVal) : Nat :=
  if scale = 0xFF then 0
  else
    let w := v.scale (127 - (scale : Int))
    match floatOf f with
    | some k => encodeFloat k mode true w
    | none => encodeInt8 mode (-6) w

/-- The value of an MX element under its scale byte (R182). -/
def mxValue (f scale code : Nat) : FVal :=
  if scale = 0xFF then .nan else (decodeElem f code).scale ((scale : Int) - 127)

/-! ### Packed elements (R183) -/

/-- Element `i` of a packed row. -/
def elemAt (f : Nat) (row : Bytes) (i : Nat) : Nat :=
  match fmtBits f with
  | 8 => (row.getD i 0).toNat
  | 16 => leNat (slice row (2 * i) 2)
  | 32 => leNat (slice row (4 * i) 4)
  | 4 => bits (row.getD (i / 2) 0).toNat (4 * (i % 2) + 3) (4 * (i % 2))
  | 6 => bits (leNat (slice row (3 * (i / 4)) 3)) (6 * (i % 4) + 5) (6 * (i % 4))
  | _ => 0

/-- Pack pairs of 4-bit elements, the lower index in bits 3:0. -/
def pack4 : List Nat → Bytes
  | [] => []
  | [a] => [BitVec.ofNat 8 a]
  | a :: b :: rest => BitVec.ofNat 8 (a + 16 * b) :: pack4 rest

/-- Pack groups of four 6-bit elements into 3 bytes. -/
def pack6 : List Nat → Bytes
  | [] => []
  | [a] => natBytes 3 a
  | [a, b] => natBytes 3 (a + 64 * b)
  | [a, b, c] => natBytes 3 (a + 64 * b + 4096 * c)
  | a :: b :: c :: d :: rest => natBytes 3 (a + 64 * b + 4096 * c + 262144 * d) ++ pack6 rest

/-- The packed bytes of a row of elements. -/
def packRow (f : Nat) (codes : List Nat) : Bytes :=
  match fmtBits f with
  | 8 => codes.map (BitVec.ofNat 8)
  | 16 => codes.flatMap (natBytes 2)
  | 32 => codes.flatMap (natBytes 4)
  | 4 => pack4 codes
  | 6 => pack6 codes
  | _ => []

/-- Bytes of `n` packed elements. -/
def elemBytes (f n : Nat) : Nat := ceilDiv (n * fmtBits f) 8

/-- The length of a row of `n` elements, rounded up to 64 B. -/
def rowBytes (f n : Nat) : Nat := roundUp (elemBytes f n) 64

/-- The length of a row of scales for `n` elements. -/
def scaleRow (n : Nat) : Nat := roundUp (ceilDiv n 32) 64

/-- Bytes of a tensor of `rows` rows of `n` elements, its scales included. -/
def tensorBytes (f rows n : Nat) : Nat :=
  rows * rowBytes f n + (if fmtMx f then rows * scaleRow n else 0)

/-! ### Functions of FP32 values (R190)

Each is evaluated in fixed point to 512 fraction bits and rounded; the spec allows 2 units in the last place, and Config.functionUlps moves the result within that bound. -/

/-- Fraction bits of the fixed-point evaluations. -/
def fxBits : Nat := 512

/-- A finite value in fixed point, truncated towards minus infinity. -/
def toFx (neg : Bool) (m : Nat) (e : Int) : Int :=
  let s := e + fxBits
  let i : Int := if 0 ≤ s then m * 2 ^ s.toNat else m / 2 ^ (-s).toNat
  if neg then -i else i

/-- A product in fixed point. -/
def fxMul (a b : Int) : Int := a * b / 2 ^ fxBits

/-- A quotient in fixed point. -/
def fxDiv (a b : Int) : Int := if b = 0 then 0 else a * 2 ^ fxBits / b

/-- One in fixed point. -/
def fxOne : Int := 2 ^ fxBits

/-- The Taylor sum of exp from term `k` on: 1 + r/k (1 + r/(k+1) (…)). -/
def fxExpSeries (r : Int) : Nat → Nat → Int
  | 0, _ => fxOne
  | n + 1, k => fxOne + fxMul (r / k) (fxExpSeries r n (k + 1))

/-- artanh z by its series; `z2` is z², `t` the power reached. -/
def fxArtanh (z2 : Int) : Nat → Nat → Int → Int
  | 0, _, _ => 0
  | n + 1, k, t => t / (2 * k + 1) + fxArtanh z2 n (k + 1) (fxMul t z2)

/-- ln 2 = 2 artanh(1/3). -/
def fxLn2 : Int := 2 * fxArtanh (fxOne / 9) 90 0 (fxOne / 3)

/-- exp of a fixed-point number, as a mantissa in fixed point and a power of two. -/
def fxExp (x : Int) : Int × Int :=
  let k := x / fxLn2
  (fxExpSeries (x - k * fxLn2) 40 1, k)

/-- A fixed-point number times 2^k as a value. -/
def ofFx (x k : Int) : FVal := ofDyadic x (k - fxBits)

/-- An FP32 value moved by the free error of a function of code `f` at an argument: at most 2 units in the last place (R190). -/
def nudge (f arg : Nat) (v : FVal) : FVal :=
  match v with
  | .fin n m e =>
    let c := encodeFloat fp32 .rne false (.fin n m e)
    let mag := c % 2 ^ 31
    let d := max (-2) (min 2 (Config.functionUlps f (BitVec.ofNat 32 arg)).toInt)
    if mag = 0 || mag ≥ fp32.maxCode - 2 then f32Val c
    else f32Val ((c - mag) + ((mag : Int) + d).toNat)
  | v => v

/-- exp of a finite value, where it neither overflows nor vanishes. -/
def expVal (n : Bool) (m : Nat) (e : Int) : FVal :=
  if m = 0 then fnat 1
  else if floorLog m e ≥ 8 then (if n then fzero else .inf false)
  else let r := fxExp (toFx n m e); ofFx r.1 r.2

/-- exp in FP32. -/
def fexp (a : FVal) : FVal :=
  match a with
  | .nan => .nan
  | .inf n => if n then fzero else .inf false
  | .fin n m e => nudge 1 (f32Code a) (f32 (expVal n m e))

/-- 1 / (1 + exp(−x)). -/
def sigmoidVal (a : FVal) : FVal :=
  match a with
  | .nan => .nan
  | .inf n => if n then fzero else fnat 1
  | .fin n m e => (fnat 1).div ((fnat 1).add (expVal (!n) m e))

/-- The logistic function in FP32. -/
def fsigmoid (a : FVal) : FVal := nudge 2 (f32Code a) (f32 (sigmoidVal a))

/-- x / (1 + exp(−x)) in FP32. -/
def fsilu (a : FVal) : FVal :=
  match a with
  | .inf true => nudge 3 (f32Code a) (.fin true 0 0)
  | a => nudge 3 (f32Code a) (f32 (a.mul (sigmoidVal a)))

/-- tanh x = 2 σ(2x) − 1; for a small argument x itself stands for it. -/
def tanhVal (a : FVal) : FVal :=
  match a with
  | .fin n m e =>
    if m = 0 then a else if floorLog m e < -20 then a
    else (((fnat 2).mul (sigmoidVal (.fin n m (e + 1)))).add (fnat 1).neg)
  | a => ((fnat 2).mul (sigmoidVal a)).add (fnat 1).neg

/-- tanh in FP32. -/
def ftanh (a : FVal) : FVal := nudge 4 (f32Code a) (f32 (tanhVal a))

/-- The integer square root by bisection from a power of two. -/
def isqrt (n : Nat) : Nat := Nat.sqrt n

/-- The square root of a value, to 128 fraction bits beyond its own. -/
def sqrtVal (a : FVal) : FVal :=
  match a with
  | .nan => .nan
  | .inf n => if n then .nan else .inf false
  | .fin n m e =>
    if m = 0 then a else if n then .nan
    else
      let odd := e % 2 = 1
      let m' := (if odd then 2 * m else m) * 2 ^ 256
      let e' := (if odd then e - 1 else e) / 2 - 128
      let r := isqrt m'
      .fin false (2 * r + if r * r = m' then 0 else 1) (e' - 1)

/-- 1/√x in FP32. -/
def frsqrt (a : FVal) : FVal := nudge 5 (f32Code a) (f32 ((fnat 1).div (sqrtVal a)))

/-- erf x for |x| below 12 by its series 2/√π Σ (−1)^k x^(2k+1)/(k!(2k+1)), in fixed point: term `t` is x^(2k+1)/k!. -/
def fxErfSeries (x2 : Int) : Nat → Nat → Int → Int
  | 0, _, _ => 0
  | n + 1, k, t => t / (2 * k + 1) - fxErfSeries x2 n (k + 1) (fxMul t x2 / (k + 1))

/-- π by Machin's formula in fixed point. -/
def fxArctanInv (q : Nat) : Nat → Nat → Int → Int
  | 0, _, _ => 0
  | n + 1, k, t => t / (2 * k + 1) - fxArctanInv q n (k + 1) (t / (q * q))

/-- π in fixed point. -/
def fxPi : Int := 16 * fxArctanInv 5 60 0 (fxOne / 5) - 4 * fxArctanInv 239 20 0 (fxOne / 239)

/-- 2/√π in fixed point. -/
def fxTwoOverSqrtPi : Int := fxDiv (2 * fxOne) (isqrt ((fxPi * 2 ^ fxBits).toNat))

/-- erf of a value. -/
def erfVal (a : FVal) : FVal :=
  match a with
  | .nan => .nan
  | .inf n => .fin n 1 0
  | .fin n m e =>
    if m = 0 then a
    else if toFx false m e ≥ 12 * fxOne then .fin n 1 0
    else
      let x := toFx false m e
      let r := ofFx (fxMul fxTwoOverSqrtPi (fxErfSeries (fxMul x x) (if toFx false m e < fxOne then 60 else 600) 0 x)) 0
      if n then r.neg else r

/-- x (1 + erf(x/√2)) / 2 in FP32. -/
def fgelu (a : FVal) : FVal :=
  match a with
  | .nan => .nan
  | .inf n => if n then fzero else .inf false
  | .fin _ m _ =>
    if m = 0 then a
    else nudge 6 (f32Code a) (f32 ((a.mul ((fnat 1).add (erfVal (a.div (sqrtVal (fnat 2)))))).scale (-1)))

/-- The natural logarithm of a value, in FP32. -/
def fln (a : FVal) : FVal :=
  match a with
  | .nan => .nan
  | .inf n => if n then .nan else .inf false
  | .fin n m e =>
    if m = 0 then .inf true
    else if n then .nan
    else
      let k := floorLog m e
      let x := toFx false m (e - k)
      let z := fxDiv (x - fxOne) (x + fxOne)
      nudge 7 (f32Code a) (f32 (ofFx (2 * fxArtanh (fxMul z z) 90 0 z + k * fxLn2) 0))

end Sys2Proof.Machine
end

