-- ==== Sys2Proof/Machine/Crc.lean ====
section
/-! DEFINITION. The four CRC algorithms of R298, Table 1, and the alive-counter rule of R308. -/

namespace Sys2Proof.Machine

/-- The parameters of a CRC algorithm (R298, Table 1): width, polynomial, initial value, reflection, final exclusive OR. -/
structure CrcAlg where
  width : Nat
  poly : Nat
  init : Nat
  reflected : Bool
  final : Nat
  deriving DecidableEq, Repr

/-- The algorithm of a code (R298, Table 1). -/
def crcAlg : Nat → Option CrcAlg
  | 0x01 => some ⟨32, 0x1EDC6F41, 0xFFFFFFFF, true, 0xFFFFFFFF⟩
  | 0x02 => some ⟨32, 0x04C11DB7, 0xFFFFFFFF, true, 0xFFFFFFFF⟩
  | 0x03 => some ⟨64, 0x42F0E1EBA9EA3693, 0, false, 0⟩
  | 0x04 => some ⟨16, 0x1021, 0xFFFF, false, 0⟩
  | _ => none

/-- The low `n` bits of a number in reverse order. -/
def reverseBits : Nat → Nat → Nat
  | 0, _ => 0
  | n + 1, x => (x % 2) * 2 ^ n + reverseBits n (x / 2)

/-- Shift one step: out at the least significant end for a reflected algorithm, at the most significant end otherwise. -/
def crcShift (a : CrcAlg) (reg : Nat) : Nat :=
  if a.reflected then
    if reg % 2 = 1 then (reg / 2) ^^^ reverseBits a.width a.poly else reg / 2
  else
    if bitAt reg (a.width - 1) then ((2 * reg) % 2 ^ a.width) ^^^ a.poly else (2 * reg) % 2 ^ a.width

/-- `n` shifts. -/
def crcShifts (a : CrcAlg) : Nat → Nat → Nat
  | 0, reg => reg
  | n + 1, reg => crcShifts a n (crcShift a reg)

/-- Fold one byte into the register. -/
def crcByte (a : CrcAlg) (reg : Nat) (b : Byte) : Nat :=
  if a.reflected then crcShifts a 8 (reg ^^^ b.toNat) else crcShifts a 8 (reg ^^^ (b.toNat * 2 ^ (a.width - 8)))

/-- Fold bytes in increasing address order. -/
def crcFold (a : CrcAlg) : Nat → Bytes → Nat
  | reg, [] => reg
  | reg, b :: bs => crcFold a (crcByte a reg b) bs

/-- The CRC of a byte string. -/
def crc (code : Nat) (b : Bytes) : Nat :=
  match crcAlg code with
  | some a => crcFold a a.init b ^^^ a.final
  | none => 0

/-- The three classes of an alive counter (R308). -/
inductive AliveClass where
  | passes
  | gap
  | repeat_
  deriving DecidableEq, Repr

/-- An alive counter against the expected value (R308). -/
def aliveClass (received expected : Nat) : AliveClass :=
  let d := (received + 256 - expected % 256) % 256
  if d = 0 then .passes else if d ≤ 127 then .gap else .repeat_

end Sys2Proof.Machine
end

