-- ==== Sys2Proof/Machine/Crypto.lean ====
section
/-! DEFINITION. The cryptography the spec names: SHA-512, HMAC and HKDF (R410, R413, R419), Ed25519 (R408 to R410), AES-256-XTS and AES-256-CMAC (R420), and GF(2^8) arithmetic for stripes (R394). -/

namespace Sys2Proof.Machine

/-! ### SHA-512 -/

/-- The first 80 primes. -/
def primes80 : List Nat :=
  [2, 3, 5, 7, 11, 13, 17, 19, 23, 29, 31, 37, 41, 43, 47, 53, 59, 61, 67, 71, 73, 79, 83, 89, 97, 101, 103, 107, 109, 113,
   127, 131, 137, 139, 149, 151, 157, 163, 167, 173, 179, 181, 191, 193, 197, 199, 211, 223, 227, 229] ++
  [233, 239, 241, 251, 257, 263, 269, 271, 277, 281, 283, 293, 307, 311, 313, 317, 331, 337, 347, 349, 353, 359, 367, 373,
   379, 383, 389, 397, 401, 409]

/-- The integer root of degree `d`, by deciding its bits from the highest. -/
def intRoot (d x : Nat) : Nat → Nat → Nat
  | 0, r => r
  | b + 1, r => if (r + 2 ^ b) ^ d ≤ x then intRoot d x b (r + 2 ^ b) else intRoot d x b r

/-- The first 64 bits of the fraction of a root of a prime, from which SHA-512 takes its constants. -/
def rootFraction (d p : Nat) : BitVec 64 := BitVec.ofNat 64 (intRoot d (p * 2 ^ (64 * d)) 70 0)

/-- The 80 round constants. -/
def sha512K : List (BitVec 64) := primes80.map (rootFraction 3)

/-- The initial hash value. -/
def sha512H : List (BitVec 64) := (primes80.take 8).map (rootFraction 2)

/-- The number whose big-endian bytes are given. -/
def beNat (b : Bytes) : Nat := b.foldl (fun n x => 256 * n + x.toNat) 0

/-- The `n` big-endian bytes of a number. -/
def natBytesBE (n x : Nat) : Bytes := (natBytes n x).reverse

/-- Extend a message schedule, held newest first, by `n` words. -/
def shaSchedule : Nat → List (BitVec 64) → List (BitVec 64)
  | 0, w => w
  | n + 1, w =>
    let x := w.getD 1 0
    let y := w.getD 14 0
    let s1 := x.rotateRight 19 ^^^ x.rotateRight 61 ^^^ (x >>> 6)
    let s0 := y.rotateRight 1 ^^^ y.rotateRight 8 ^^^ (y >>> 7)
    shaSchedule n ((s1 + w.getD 6 0 + s0 + w.getD 15 0) :: w)

/-- One round on the eight working words. -/
def shaRound (v : List (BitVec 64)) (kw : BitVec 64 × BitVec 64) : List (BitVec 64) :=
  match v with
  | [a, b, c, d, e, f, g, h] =>
    let s1 := e.rotateRight 14 ^^^ e.rotateRight 18 ^^^ e.rotateRight 41
    let t1 := h + s1 + ((e &&& f) ^^^ (~~~e &&& g)) + kw.1 + kw.2
    let s0 := a.rotateRight 28 ^^^ a.rotateRight 34 ^^^ a.rotateRight 39
    let t2 := s0 + ((a &&& b) ^^^ (a &&& c) ^^^ (b &&& c))
    [t1 + t2, a, b, c, d + t1, e, f, g]
  | _ => v

/-- Compress `n` blocks of 128 bytes. -/
def shaBlocks : Nat → List (BitVec 64) → Bytes → List (BitVec 64)
  | 0, h, _ => h
  | n + 1, h, b =>
    let w0 := (List.range 16).map fun i => BitVec.ofNat 64 (beNat (slice b (8 * i) 8))
    let w := (shaSchedule 64 w0.reverse).reverse
    let v := (List.zip sha512K w).foldl shaRound h
    shaBlocks n (List.zipWith (· + ·) h v) (b.drop 128)

/-- SHA-512. -/
def sha512 (m : Bytes) : Bytes :=
  let padded := m ++ [0x80] ++ zeros ((239 - m.length % 128) % 128) ++ natBytesBE 16 (8 * m.length)
  (shaBlocks (padded.length / 128) sha512H padded).flatMap fun x => natBytesBE 8 x.toNat

/-- HMAC with SHA-512. -/
def hmac (key m : Bytes) : Bytes :=
  let k := fit 128 (if key.length > 128 then sha512 key else key)
  sha512 (k.map (· ^^^ 0x5C) ++ sha512 (k.map (· ^^^ 0x36) ++ m))

/-- HKDF with SHA-512, 96 bytes of output (R419). -/
def hkdf96 (salt ikm info : Bytes) : Bytes :=
  let prk := hmac salt ikm
  let t1 := hmac prk (info ++ [1])
  let t2 := hmac prk (t1 ++ info ++ [2])
  (t1 ++ t2).take 96

/-! ### Ed25519 -/

/-- The field prime of Ed25519. -/
def edP : Nat := 2 ^ 255 - 19

/-- The order of the base point. -/
def edL : Nat := 2 ^ 252 + 27742317777372353535851937790883648493

/-- Modular exponentiation, from the highest of `n` bits of the exponent. -/
def powMod (m b e : Nat) : Nat → Nat
  | 0 => 1 % m
  | n + 1 => let r := powMod m b (e / 2) n; let q := r * r % m; if e % 2 = 1 then q * b % m else q

/-- The inverse in the field. -/
def edInv (x : Nat) : Nat := powMod edP x (edP - 2) 255

/-- The curve constant d = −121665 / 121666. -/
def edD : Nat := (edP - 121665) * edInv 121666 % edP

/-- A point in extended coordinates X, Y, Z, T. -/
abbrev EdPoint := Nat × Nat × Nat × Nat

/-- Point addition. -/
def edAdd (p q : EdPoint) : EdPoint :=
  let a := (p.2.1 + edP - p.1) * (q.2.1 + edP - q.1) % edP
  let b := (p.2.1 + p.1) * (q.2.1 + q.1) % edP
  let c := 2 * p.2.2.2 * q.2.2.2 % edP * edD % edP
  let d := 2 * p.2.2.1 * q.2.2.1 % edP
  let e := (b + edP - a) % edP
  let f := (d + edP - c) % edP
  let g := (d + c) % edP
  let h := (b + a) % edP
  (e * f % edP, g * h % edP, f * g % edP, e * h % edP)

/-- Scalar multiplication over `n` bits. -/
def edMul (p : EdPoint) (k : Nat) : Nat → EdPoint
  | 0 => (0, 1, 1, 0)
  | n + 1 => let r := edMul p (k / 2) n; let q := edAdd r r; if k % 2 = 1 then edAdd q p else q

/-- The x coordinate of a y coordinate and sign, where there is one. -/
def edRecover (y : Nat) (sign : Nat) : Option Nat :=
  if y ≥ edP then none else
  let x2 := (y * y + edP - 1) % edP * edInv ((edD * (y * y % edP) + 1) % edP) % edP
  if x2 = 0 then (if sign = 1 then none else some 0) else
  let x := powMod edP x2 ((edP + 3) / 8) 253
  let x := if x * x % edP = x2 then x else x * powMod edP 2 ((edP - 1) / 4) 253 % edP
  if x * x % edP ≠ x2 then none
  else if x % 2 = sign then some x else some (edP - x)

/-- The base point. -/
def edBase : EdPoint :=
  let y := 4 * edInv 5 % edP
  let x := (edRecover y 0).getD 0
  (x, y, 1, x * y % edP)

/-- A point from its 32-byte encoding. -/
def edDecode (b : Bytes) : Option EdPoint :=
  if b.length ≠ 32 then none else
  let n := leNat b
  let y := n % 2 ^ 255
  (edRecover y (n / 2 ^ 255)).map fun x => (x, y, 1, x * y % edP)

/-- The 32-byte encoding of a point. -/
def edEncode (p : EdPoint) : Bytes :=
  let z := edInv p.2.2.1
  let x := p.1 * z % edP
  let y := p.2.1 * z % edP
  natBytes 32 (y + (x % 2) * 2 ^ 255)

/-- Two points are one point. -/
def edSame (p q : EdPoint) : Bool :=
  (p.1 * q.2.2.1) % edP = (q.1 * p.2.2.1) % edP && (p.2.1 * q.2.2.1) % edP = (q.2.1 * p.2.2.1) % edP

/-- Verify a pure Ed25519 signature (R410). -/
def edVerify (key m sig : Bytes) : Bool :=
  if sig.length ≠ 64 then false else
  match edDecode key, edDecode (sig.take 32) with
  | some a, some r =>
    let s := leNat (sig.drop 32)
    if s ≥ edL then false else
    let h := leNat (sha512 (sig.take 32 ++ key ++ m)) % edL
    edSame (edMul edBase s 253) (edAdd r (edMul a h 253))
  | _, _ => false

/-- The secret scalar and prefix of a 32-byte secret. -/
def edExpand (secret : Bytes) : Nat × Bytes :=
  let h := sha512 secret
  let a := leNat (h.take 32)
  (a % 2 ^ 254 / 8 * 8 + 2 ^ 254, h.drop 32)

/-- The public key of a secret. -/
def edPublic (secret : Bytes) : Bytes := edEncode (edMul edBase (edExpand secret).1 255)

/-- A pure Ed25519 signature (R417). -/
def edSign (secret m : Bytes) : Bytes :=
  let e := edExpand secret
  let r := leNat (sha512 (e.2 ++ m)) % edL
  let rB := edEncode (edMul edBase r 253)
  let k := leNat (sha512 (rB ++ edPublic secret ++ m)) % edL
  rB ++ natBytes 32 ((r + k * e.1) % edL)

/-! ### GF(2^8) -/

/-- Multiply in GF(2^8) with a reduction polynomial whose low eight bits are given. -/
def gfMul (poly : Byte) (a b : Byte) : Nat → Byte
  | 0 => 0
  | n + 1 =>
    let rest := gfMul poly ((a <<< 1) ^^^ (if a.msb then poly else 0)) (b >>> 1) n
    if b.getLsbD 0 then a ^^^ rest else rest

/-- The stripe field of R394: polynomial 0x11D. -/
def gfStripe (a b : Byte) : Byte := gfMul 0x1D a b 8

/-- The generator 0x02 to the power `i` (R394). -/
def gfPow2 : Nat → Byte
  | 0 => 1
  | i + 1 => gfStripe (gfPow2 i) 2

/-! ### AES-256 -/

/-- Multiply in the AES field. -/
def aesMul (a b : Byte) : Byte := gfMul 0x1B a b 8

/-- The 254th power in the AES field: the inverse, and zero for zero. -/
def aesInv (a : Byte) : Byte :=
  let a2 := aesMul a a
  let a3 := aesMul a2 a
  let a12 := aesMul (aesMul a3 a3) (aesMul a3 a3)
  let a15 := aesMul a12 a3
  let sq := fun x => aesMul x x
  let a240 := sq (sq (sq (sq a15)))
  aesMul (aesMul a240 a12) a2

/-- The AES substitution of a byte. -/
def aesSub (a : Byte) : Byte :=
  let b := aesInv a
  b ^^^ b.rotateLeft 1 ^^^ b.rotateLeft 2 ^^^ b.rotateLeft 3 ^^^ b.rotateLeft 4 ^^^ 0x63

/-- The inverse substitution. -/
def aesUnsub (a : Byte) : Byte := aesInv (a.rotateLeft 1 ^^^ a.rotateLeft 3 ^^^ a.rotateLeft 6 ^^^ 0x05)

/-- The key schedule's words as bytes, oldest first: `n` more words of four bytes. -/
def aesExpand : Nat → Byte → List Bytes → List Bytes
  | 0, _, w => w
  | n + 1, rcon, w =>
    let i := w.length
    let prev := w.getD (i - 1) []
    let back := w.getD (i - 8) []
    let t := if i % 8 = 0 then xorBytes ((prev.drop 1 ++ prev.take 1).map aesSub) [rcon, 0, 0, 0]
      else if i % 8 = 4 then prev.map aesSub else prev
    aesExpand n (if i % 8 = 0 then aesMul rcon 2 else rcon) (w ++ [xorBytes back t])

/-- The fifteen round keys of a 32-byte key. -/
def aesKeys (key : Bytes) : List Bytes :=
  let w := aesExpand 52 1 ((List.range 8).map fun i => slice key (4 * i) 4)
  (List.range 15).map fun r => ((w.drop (4 * r)).take 4).flatten

/-- Rotate row r of the column-major state by r, forwards or backwards. -/
def aesShift (k : Nat) (s : Bytes) : Bytes := (List.range 16).map fun i => s.getD ((i + 4 * k * (i % 4)) % 16) 0

/-- Multiply each column by a circulant matrix. -/
def aesMix (c : List Byte) (s : Bytes) : Bytes :=
  (List.range 16).map fun i =>
    let col := slice s (4 * (i / 4)) 4
    (List.range 4).foldl (fun acc j => acc ^^^ aesMul (c.getD ((j + 4 - i % 4) % 4) 0) (col.getD j 0)) 0

/-- Encrypt one 16-byte block. -/
def aesEncrypt (key block : Bytes) : Bytes :=
  let ks := aesKeys key
  let s := xorBytes block (ks.getD 0 [])
  let s := ((ks.drop 1).take 13).foldl (fun s k => xorBytes (aesMix [2, 3, 1, 1] (aesShift 1 (s.map aesSub))) k) s
  xorBytes (aesShift 1 (s.map aesSub)) (ks.getD 14 [])

/-- Decrypt one 16-byte block. -/
def aesDecrypt (key block : Bytes) : Bytes :=
  let ks := aesKeys key
  let s := xorBytes block (ks.getD 14 [])
  let s := (((ks.drop 1).take 13).reverse).foldl
    (fun s k => aesMix [14, 11, 13, 9] (xorBytes ((aesShift 3 s).map aesUnsub) k)) s
  xorBytes ((aesShift 3 s).map aesUnsub) (ks.getD 0 [])

/-- Multiply a 16-byte tweak by α, little-endian (IEEE 1619). -/
def xtsNext (t : Bytes) : Bytes :=
  let n := leNat t
  natBytes 16 ((2 * n) % 2 ^ 128 ^^^ (if bitAt n 127 then 0x87 else 0))

/-- XTS over `n` blocks with a block cipher. -/
def xtsRun (f : Bytes → Bytes) : Nat → Bytes → Bytes → Bytes
  | 0, _, _ => []
  | n + 1, t, b => xorBytes (f (xorBytes (b.take 16) t)) t ++ xtsRun f n (xtsNext t) (b.drop 16)

/-- Encrypt a 64-byte line under the two keys of XTS; the tweak is the line number (R420). -/
def xtsEncrypt (keys : Bytes) (line : Nat) (b : Bytes) : Bytes :=
  xtsRun (aesEncrypt (keys.take 32)) 4 (aesEncrypt (slice keys 32 32) (natBytes 16 line)) b

/-- Decrypt a 64-byte line (R420). -/
def xtsDecrypt (keys : Bytes) (line : Nat) (b : Bytes) : Bytes :=
  xtsRun (aesDecrypt (keys.take 32)) 4 (aesEncrypt (slice keys 32 32) (natBytes 16 line)) b

/-- Double a CMAC subkey, big-endian (SP 800-38B). -/
def cmacDouble (b : Bytes) : Bytes :=
  let n := beNat b
  natBytesBE 16 ((2 * n) % 2 ^ 128 ^^^ (if bitAt n 127 then 0x87 else 0))

/-- CBC over whole blocks. -/
def cbcMac (key : Bytes) : Nat → Bytes → Bytes → Bytes
  | 0, c, _ => c
  | n + 1, c, b => cbcMac key n (aesEncrypt key (xorBytes c (b.take 16))) (b.drop 16)

/-- AES-256-CMAC (SP 800-38B). -/
def cmac (key m : Bytes) : Bytes :=
  let k1 := cmacDouble (aesEncrypt key (zeros 16))
  let n := max 1 (ceilDiv m.length 16)
  let head := m.take (16 * (n - 1))
  let last := m.drop (16 * (n - 1))
  let last := if last.length = 16 then xorBytes last k1
    else xorBytes (fit 16 (last ++ [0x80])) (cmacDouble k1)
  aesEncrypt key (xorBytes (cbcMac key (n - 1) (zeros 16) head) last)

/-- The 64-bit tag of a sealed line: ciphertext followed by its 8-byte pool offset (R420). -/
def lineTag (tagKey cipher : Bytes) (offset : Nat) : BitVec 64 :=
  BitVec.ofNat 64 (leNat ((cmac tagKey (cipher ++ natBytes 8 offset)).take 8))

end Sys2Proof.Machine
end

