-- ==== Sys2Proof/Machine/Ops.lean ====
section
/-! DEFINITION. The named operations that every command is built from: lifting, the image's tables, the error log, counters, where an address lies, lines of the store, the free store, and what goes out on the wires. -/

namespace Sys2Proof.Machine

/-- A command that reads the management side and changes the data plane only. -/
def liftDp (f : Mgt → Dp → Dp) (s : State) : Host.Outcome State Fault Refusal :=
  .next { s with dp := f s.mgt s.dp }

/-- A command that changes both sides. -/
def liftAll (f : Mgt → Dp → Mgt × Dp) (s : State) : Host.Outcome State Fault Refusal :=
  .next { s with mgt := (f s.mgt s.dp).1, dp := (f s.mgt s.dp).2 }

/-! ### Lanes under test (R521, R522) -/

/-- A lane is under test while any of its loop, pattern or enables is non-zero (R522). -/
def LaneTest.underTest (l : LaneTest) : Bool := l.loop ≠ 0 || l.pattern ≠ 0 || l.txEn || l.rxEn

/-- Is some lane of a range under test? -/
def Mgt.testing (m : Mgt) (first count : Nat) : Bool := m.tap.lanes.any fun l => first ≤ l.lane && l.lane < first + count && l.underTest

/-- Is some lane of a Daras port under test (R521: lane l of port p is lane 9p + l)? -/
def Mgt.darTesting (m : Mgt) (p : Nat) : Bool := m.testing (9 * p) 9

/-- Is some lane of a host port under test (R521)? -/
def Mgt.hostTesting (m : Mgt) (p : Nat) : Bool := m.testing (72 + 8 * p) 8

/-! ### The image's tables -/

/-- The PACKAGE entry in force. -/
def Mgt.pkg (m : Mgt) : PackageEntry := (m.image.map (·.pkg)).getD default

/-- The timers in force. -/
def Mgt.timers (m : Mgt) : TimerEntry := (m.image.map (·.timers)).getD default

/-- This package's identifier. -/
def Mgt.self (m : Mgt) : Nat := m.pkg.packageId

/-- Every region in service: those the image declares, or, once a spare is READY, those of the package it replaces (R400). -/
def Mgt.regions (m : Mgt) : List Region :=
  match m.comp.lostImage with
  | some i => if m.comp.engageReady then i.regions else (m.image.map (·.regions)).getD []
  | none => (m.image.map (·.regions)).getD []

/-- The region of a number. -/
def Mgt.region (m : Mgt) (id : Nat) : Option Region := m.regions.find? (·.id = id)

/-- Every window declared. -/
def Mgt.windows (m : Mgt) : List Window := (m.image.map (·.windows)).getD []

/-- The SLOTS entry of a number. -/
def Mgt.slotEntry (m : Mgt) (n : Nat) : Option SlotEntry := ((m.image.map (·.slots)).getD []).find? (·.number = n)

/-- The PARTITIONS entry of an identifier. -/
def Mgt.part (m : Mgt) (p : Nat) : Option PartEntry :=
  ((m.image.map (·.parts)).getD [] ++ (m.comp.lostImage.map (·.parts)).getD []).find? (·.id = p)

/-- The attach state of a partition (R404): 0 DETACHED, 1 ATTACHED, 2 DETACHING. -/
def Mgt.attach (m : Mgt) (p : Nat) : Nat := (assoc m.parts p).getD 0

/-- Forerunner mode is in force exactly under R495. -/
def Mgt.forerunner (m : Mgt) : Bool := m.clk.mode48 && m.pkg.forerunner && m.image.isSome

/-- The end-to-end timeout in LTB ticks (R362). -/
def Mgt.e2e (m : Mgt) : Nat := m.timers.e2e10us * 1000

/-- The snoop timeout in LTB ticks (R140). -/
def Mgt.snoopTicks (m : Mgt) : Nat := m.timers.snoopTimeoutMs * 100000

/-- The map of the stamping epoch. -/
def Mgt.map (m : Mgt) : Option MapRec := m.comp.maps.find? (·.epoch = m.comp.stamp)

/-- The route entry of an identifier under the map in force; without a map the package composes only itself (R469). -/
def Mgt.route (m : Mgt) (id : Nat) : Option RouteEntry :=
  match m.map with
  | some r => r.routes.find? (·.id = id)
  | none => if id = m.self then some ⟨id, 0, true, false, id⟩ else none

/-- The map that an epoch's messages follow: the epoch's own while it is held, otherwise the newest held (R361). -/
def Mgt.mapUnder (m : Mgt) (epoch : Nat) : Option MapRec :=
  match m.comp.maps.find? (·.epoch = epoch) with
  | some r => some r
  | none => m.comp.maps.getLast?

/-- Is an identifier composed under the map in force? -/
def Mgt.composed (m : Mgt) (id : Nat) : Bool := ((m.route id).map (·.composed)).getD false

/-- Does this package answer for an identifier (R345, R400)? -/
def Mgt.serves (m : Mgt) (id : Nat) : Bool :=
  id = m.self || (m.pkg.loopEnable && id = m.pkg.loopId)
  || (match m.comp.engaged with
      | some (l, _, _) => l = id && m.comp.engageReady && (m.route l).any (·.server = m.self)
      | none => false)

/-- The identifier whose pool this package serves: its own, or, once it has taken over, the lost package's (R400). -/
def Mgt.homeId (m : Mgt) : Nat :=
  match m.comp.engaged with
  | some (l, _, _) => if m.comp.engageReady then l else m.self
  | none => m.self

/-- The package is in service: RUNNING (R20, R493). -/
def Mgt.running (m : Mgt) : Bool := m.clk.phase = .running

/-- Frames of 64 KiB in the pool (R26): near and far tier less the reserve and the coarse copies. -/
def Mgt.coarseBytes (m : Mgt) : Nat :=
  (m.regions.map fun r => match r.coarse with | 1 => r.length / 8 | 2 => r.length / 4 | 3 => r.length / 2 | _ => 0).sum

/-- The pool length in bytes (R26). -/
def Mgt.poolBytes (m : Mgt) : Nat := (512 - 16 + m.far.gib) * 2 ^ 30 - m.coarseBytes

/-- The image's lease set: packages of roles 1 to 3 (R382). -/
def Mgt.leaseSet (m : Mgt) : List Nat :=
  match m.map with
  | some r => (r.lease.filter fun e => e.1 = 1 || e.1 = 2 || e.1 = 3).map (·.2.2)
  | none => []

/-- The mirror partner, where there is one. -/
def Mgt.partner (m : Mgt) : Option Nat := (m.map.bind fun r => r.lease.find? (·.1 = 1)).map (·.2.2)

/-- This package's own position in its coding group (R469, role 4). -/
def Mgt.position (m : Mgt) : Option Nat := (m.map.bind fun r => r.lease.find? (·.1 = 4)).map (·.2.1)

/-- The package at a position of the coding group. -/
def Mgt.atPosition (m : Mgt) (p : Nat) : Option Nat :=
  (m.map.bind fun r => r.lease.find? fun e => (e.1 = 2 || e.1 = 4) && e.2.1 = p).map (·.2.2)

/-- Enabled engines of each cluster (R2, R3). -/
def Mgt.perCluster (m : Mgt) : Nat := if m.nvm.fuses.partB then 6 else 8

/-! ### Counters and the error log -/

/-- The enabled engines of a cluster, by package-wide number (R3). -/
def enginesOf (m : Mgt) (c : Nat) : List Nat :=
  ((List.range 8).filter fun e => (c, e) ∉ m.nvm.fuses.disabled).map (8 * c + ·)

/-- The enabled engines of the package. -/
def engines (m : Mgt) : List Nat := (List.range 8).flatMap (enginesOf m)

/-- The index by which observation names an engine, below ENG.COUNT (R445). -/
def engineIdx (m : Mgt) (e : Nat) : Nat := Config.engineIndex e % (engines m).length

/-- Add to one counter of the counter space where its group is enabled, saturating (R439, R440, R443). -/
def countAt (group addr n : Nat) (d : Dp) : Dp :=
  if bitAt d.obs.enable group then
    let v := (assoc d.obs.counters addr).getD 0
    { d with obs := { d.obs with counters := setKey d.obs.counters addr (min (v + n) (2 ^ 64 - 1)) } }
  else d

/-- Add one to a named counter (R444, Table 4). -/
def countNamed (n : Nat) (d : Dp) : Dp := countAt 3 (0x060000 + 8 * n) 1 d

/-- A supply sag is in force (R515). -/
def Mgt.sag (m : Mgt) : Bool := m.pwr.sagVcore || m.pwr.sagVdd || m.pwr.sagPwrok

/-- The 64 bytes of an error-log entry (R452, Table 9). -/
def LogEntry.encode (e : LogEntry) : Bytes :=
  let w0 := e.seq * 2 ^ 32 + e.severity * 2 ^ 28 + e.block * 2 ^ 16 + e.event
  let w2 := (e.part.getD 0) * 2 ^ 58 + (if e.part.isSome then 2 ^ 57 else 0) + (if e.flash then 2 ^ 56 else 0)
    + e.package * 2 ^ 42 + e.slot * 2 ^ 32 + e.count
  fit 64 (wordsBytes ([w0, e.ltb, w2, e.addr] ++ e.detail.take 4))

/-- Whether a log entry is appended to flash now: ERROR and FATAL, with a log in the image, no sag, and space where erase suspend is absent (R455, R518). -/
def appendsNow (m : Mgt) (severity : Nat) : Bool :=
  severity ≥ 3 && m.timers.logBytes > 0 && !m.sag && (m.nvm.chip.eraseSuspend || !m.nvm.logWrapped)

/-- Write one error-log entry (R452, R453, R455). -/
def logEvent (m : Mgt) (severity block event : Nat) (part : Option Nat) (package slot addr : Nat) (detail : List Nat) (d : Dp) : Dp :=
  let flash := appendsNow m severity
  let e : LogEntry := ⟨d.obs.logCount + 1, severity, block, event, m.clk.ltb, part, flash, package, slot, 1, addr, detail⟩
  { d with obs := { d.obs with
      logCount := min (d.obs.logCount + 1) (2 ^ 32 - 1)
      log := (e :: d.obs.log).take 4096
      flashDue := if flash then d.obs.flashDue ++ [(e.seq, e.encode)] else d.obs.flashDue } }

/-- Add one to the entry that an interval already has, or write a new entry: at most one per millisecond, by other package or, where `byDetail`, by the first detail word (R319, R349, R431). -/
def logLimited (byDetail : Bool) (m : Mgt) (severity block event : Nat) (part : Option Nat) (package slot addr : Nat) (detail : List Nat) (d : Dp) : Dp :=
  let same := fun (e : LogEntry) => e.block = block && e.event = event && e.package = package
    && (!byDetail || e.detail.head? = detail.head?) && m.clk.ltb < e.ltb + 100000
  if d.obs.log.any same then
    { d with obs := { d.obs with log := modWhere d.obs.log same fun e => { e with count := min (e.count + 1) (2 ^ 32 - 1) } } }
  else logEvent m severity block event part package slot addr detail d

/-! ### Where an address lies -/

/-- How a region is reached at an address. -/
inductive Reach where
  | plain
  | head
  | view (slot : Nat)
  deriving DecidableEq, Repr

/-- Where a pool address lies (R12, R25, R61, R75 to R77, R350, R392). -/
inductive Place where
  | store (region : Nat) (reach : Reach) (at_ : Nat)
  | freeView (region : Nat)
  | beyondView (region : Nat)
  | post
  | guard
  | hostMapped
  | outside
  | remote (pkg : Nat)
  deriving DecidableEq, Repr

/-- The view space one slot of a SNAPSHOT region takes: its length rounded up to 1 GiB (R75). -/
def Region.viewSize (r : Region) : Nat := roundUp r.length (2 ^ 30)

/-- The SNAPSHOT record of a region. -/
def Dp.snap (d : Dp) (region : Nat) : Option SnapRegion := d.snaps.regions.find? (·.region = region)

/-- A version of a SNAPSHOT region. -/
def SnapRegion.version (s : SnapRegion) (n : Nat) : Option Version := s.versions.find? (·.number = n)

/-- An open view slot of a SNAPSHOT region. -/
def SnapRegion.view (s : SnapRegion) (v : Nat) : Option View := s.views.find? fun x => x.slot = v && x.opening.isNone

/-- The physical frame that stands for frame `i` of a region under a frame map. -/
def mappedFrame (r : Region) (map : List (Nat × Nat)) (i : Nat) : Nat := (assoc map i).getD (r.base / 65536 + i)

/-- The frame map that an open view shows. -/
def SnapRegion.shownMap (s : SnapRegion) (v : View) : List (Nat × Nat) :=
  match v.shown with
  | .version n => ((s.version n).map (·.map)).getD []
  | .draft d => d.map

/-- The frame map of the head version. -/
def SnapRegion.headMap (s : SnapRegion) : List (Nat × Nat) := ((s.version s.head).map (·.map)).getD []

/-- Where an offset of the package's own pool lies. -/
def placeOffset (m : Mgt) (d : Dp) (off : Nat) : Place :=
  if bitAt off 49 then .hostMapped
  else if bitAt off 48 then
    if off ≥ 0x1FFFFFFC00000 then .post
    else match m.regions.find? fun r => r.kind = 2 && r.viewBase ≤ off && off < r.viewBase + r.views * r.viewSize with
      | none => .outside
      | some r =>
        let slot := (off - r.viewBase) / r.viewSize
        let o := (off - r.viewBase) % r.viewSize
        match (d.snap r.id).bind fun s => (s.view slot).map fun v => (s, v) with
        | none => .freeView r.id
        | some (s, v) =>
          if o ≥ r.length then .beyondView r.id
          else .store r.id (.view slot) (mappedFrame r (s.shownMap v) (o / 65536) * 65536 + o % 65536)
  else if bitAt off 47 then .guard
  else match m.regions.find? fun r => r.kind ≠ 3 && r.base ≤ off && off < r.base + r.length with
    | none => .outside
    | some r =>
      if r.kind = 2 then
        let i := (off - r.base) / 65536
        .store r.id .head (mappedFrame r (((d.snap r.id).map (·.headMap)).getD []) i * 65536 + off % 65536)
      else .store r.id .plain off

/-- Where a pool address lies. -/
def place (m : Mgt) (d : Dp) (addr : Nat) : Place :=
  let id := addr / 2 ^ 50
  if !m.serves id then .remote id
  else if m.homeId ≠ m.self && id = m.self then .outside
  else placeOffset m d (addr % 2 ^ 50)

/-- The region number of an address for error details: 0xFFFF_FFFF outside every region. -/
def regionOf (m : Mgt) (d : Dp) (addr : Nat) : Nat :=
  match place m d addr with
  | .store r _ _ => r
  | .freeView r => r
  | .beyondView r => r
  | _ => 0xFFFFFFFF

/-- The line of an address: offset bits 49:6 (R124). -/
def lineOf (addr : Nat) : Nat := addr % 2 ^ 50 / 64

/-- The home slice of a line: the exclusive OR of its 44 bits (R124); 0 west. -/
def homeSlice (line : Nat) : Nat := popBits 44 line % 2

/-- The directory set of a line (R124). -/
def dirSet (line : Nat) : Nat := bits line 21 1 ^^^ bits line 42 22 ^^^ (bits line 43 43 * 2 ^ 20)

/-! ### Frames -/

/-- Which region a physical frame belongs to by its own offset. -/
def frameRegion (m : Mgt) (f : Nat) : Option Region :=
  m.regions.find? fun r => r.kind ≠ 3 && r.base ≤ f * 65536 && f * 65536 < r.base + r.length

/-- Does a half have a trained channel? -/
def halfHasFar (m : Mgt) (h : Nat) : Bool := m.far.trained.any fun x => x.channel / 8 = h

/-- The half in which a frame is first placed (R29, R39). -/
def firstHalf (m : Mgt) (f : Nat) : Nat :=
  let auto := if f % 2 = 0 then 1 else 0
  match frameRegion m f with
  | some r =>
    if r.affinity = 1 then 1 else if r.affinity = 2 then 0
    else if r.tier = 2 && !halfHasFar m auto then 1 - auto else auto
  | none => auto

/-- The tier in which a frame is first placed: pinned tiers as R39 gives, TIERED open. -/
def firstFar (m : Mgt) (f : Nat) : Bool :=
  match frameRegion m f with
  | some r => if r.tier = 1 then false else if r.tier = 2 then true
      else halfHasFar m (firstHalf m f) && Config.startsFar f
  | none => halfHasFar m (firstHalf m f) && Config.startsFar f

/-- The channels of a half that have a trained DIMM, in order. -/
def halfChannels (m : Mgt) (h : Nat) : List Nat := (List.range 16).filter fun c => c / 8 = h && m.far.trained.any (·.channel = c)

/-- Where a frame is first placed: new frames go on a half's stacks and trained channels in turn (R28). -/
def firstLoc (m : Mgt) (f : Nat) : Loc :=
  let h := firstHalf m f
  let far := firstFar m f
  if far then ⟨true, h, (halfChannels m h).getD (f / 2 % max 1 (halfChannels m h).length) (8 * h)⟩
  else ⟨false, h, 4 * h + f / 2 % 4⟩

/-- A frame taken over from a lost package (R400). -/
def restoredFrame (d : Dp) (f : Nat) : Bool := d.store.restored.any fun x => x.1 ≤ f && f < x.1 + x.2

/-- What the frame table holds for a frame; an untouched frame is fresh (R498), unless it was taken over from a lost package. -/
def frameRec (m : Mgt) (d : Dp) (f : Nat) : FrameRec :=
  (d.store.frames.find? (·.frame = f)).getD ⟨f, firstLoc m f, 0, 0, !restoredFrame d f, false, false, none⟩

/-- Replace what the frame table holds for a frame. -/
def setFrame (r : FrameRec) (d : Dp) : Dp :=
  { d with store := { d.store with frames := r :: d.store.frames.filter (·.frame ≠ r.frame) } }

/-- The device that holds a frame at a place: a stack, or a DIMM numbered twice its channel plus its slot. -/
def deviceOf (m : Mgt) (f : Nat) (l : Loc) : Nat :=
  if l.far then
    2 * l.device + (match (m.far.trained.filter (·.channel = l.device)).map (·.slot) with
      | [s] => s
      | _ => if Config.dimmSlot f then 1 else 0)
  else l.device

/-- A place for a frame lies on a failed device. -/
def locFailed (m : Mgt) (d : Dp) (f : Nat) (l : Loc) : Bool := (l.far, deviceOf m f l) ∈ d.store.failed

/-- A frame is failed when its device has been declared failed (R47). -/
def frameFailed (m : Mgt) (d : Dp) (f : Nat) : Bool := locFailed m d f (frameRec m d f).loc

/-- Count heat for a line touched by a cluster of a half or through a half's port (R36). -/
def heat (m : Mgt) (half at_ : Nat) (d : Dp) : Dp :=
  let r := frameRec m d (at_ / 65536)
  setFrame (if half = 0 then { r with heatW := min 255 (r.heatW + 1) } else { r with heatE := min 255 (r.heatE + 1) }) d

/-! ### Lines of the store -/

/-- The keys of a partition: 64 bytes of XTS keys, then the tag key (R419). -/
def Mgt.partKeys (m : Mgt) (p : Nat) : Bytes := (assoc m.sec.keys p).getD []

/-- The 64 stored bytes of a line: as they stand in the memory, or, in a frame taken over from a lost package and not written since, what its surviving copies give (R401). -/
def rawLine (d : Dp) (at_ : Nat) : Bytes :=
  if restoredFrame d (at_ / 65536) && at_ / 64 ∉ d.store.own then (List.range 64).map (Config.survivingByte (at_ / 64))
  else cellRead 0 d.store.mem (at_ / 64 * 64) 64

/-- Store 64 bytes in the memory as they are. -/
def setRaw (at_ : Nat) (b : Bytes) (d : Dp) : Dp :=
  { d with store := { d.store with
    mem := cellWrite 0 d.store.mem (at_ / 64 * 64) b
    own := if restoredFrame d (at_ / 65536) then addNew d.store.own (at_ / 64) else d.store.own } }

/-- What a read of a line gives: its bytes as the partition reads them, and whether it is poisoned (R142, R421, R498). -/
def readLine (m : Mgt) (d : Dp) (region at_ : Nat) : Bytes × Bool :=
  let l := at_ / 64
  if l ∈ d.store.poison then (rawLine d at_, true) else
  match m.region region with
  | some r =>
    if r.sealed && !(frameRec m d (at_ / 65536)).fresh then
      let c := rawLine d at_
      let k := m.partKeys r.partition
      if assoc d.store.tags l = some (lineTag (k.drop 64) c (l * 64)) then (xtsDecrypt (k.take 64) l c, false) else (c, true)
    else (rawLine d at_, false)
  | none => (rawLine d at_, false)

/-- Store the 64 bytes of a line as its region protects it, without touching its poison (R420). -/
def storeLine (m : Mgt) (region at_ : Nat) (data : Bytes) (d : Dp) : Dp :=
  let l := at_ / 64
  match m.region region with
  | some r =>
    if r.sealed then
      let k := m.partKeys r.partition
      let c := xtsEncrypt (k.take 64) l data
      let d := setRaw at_ c d
      { d with store := { d.store with tags := setKey d.store.tags l (lineTag (k.drop 64) c (l * 64)) } }
    else setRaw at_ data d
  | none => setRaw at_ data d

/-- The first write to a fresh frame: a sealed frame is encrypted whole, and the mark is cleared (R421, R498). -/
def openFrame (m : Mgt) (region f : Nat) (d : Dp) : Dp :=
  let r := frameRec m d f
  if r.fresh then
    let d := if ((m.region region).map (·.sealed)).getD false
      then (List.range 1024).foldl (fun d i => storeLine m region (f * 65536 + 64 * i) (zeros 64) d) d else d
    setFrame { r with fresh := false } d
  else d

/-- A write to a dual-resolution frame makes its coarse copy stale before it becomes visible (R50). -/
def staleCoarse (m : Mgt) (region f : Nat) (d : Dp) : Dp :=
  if ((m.region region).map (·.coarse)).getD 0 ≠ 0 then setFrame { frameRec m d f with coarseStale := true } d else d

/-- A line written while its frame is copied is copied again in the next pass (R42). -/
def markDirty (at_ : Nat) (d : Dp) : Dp :=
  { d with store := { d.store with moves := modWhere d.store.moves (·.covers (at_ / 65536)) fun v => { v with dirty := addNew v.dirty (at_ / 64) } } }

/-- Write a whole line, poisoned or clean: a clean full write clears poison (R142). -/
def writeLine (m : Mgt) (region at_ : Nat) (data : Bytes) (poison : Bool) (d : Dp) : Dp :=
  let l := at_ / 64
  let d := openFrame m region (at_ / 65536) d
  let d := staleCoarse m region (at_ / 65536) d
  let d := storeLine m region at_ data d
  let d := { d with store := { d.store with poison := if poison then addNew d.store.poison l else d.store.poison.filter (· ≠ l) } }
  markDirty at_ d

/-- The line with the masked bytes replaced. -/
def mergeMask (old new : Bytes) (mask : Nat) : Bytes :=
  (List.range 64).map fun i => if bitAt mask i then new.getD i 0 else old.getD i 0

/-- Poison a line in place (R34, R141). -/
def poisonLine (at_ : Nat) (d : Dp) : Dp :=
  { d with store := { d.store with poison := addNew d.store.poison (at_ / 64) } }

/-! ### The free store -/

/-- Frames in the free store. -/
def freeCount (d : Dp) : Nat := (d.store.free.map (·.2)).sum

/-- Take `n` frames that lie one after another, from the first extent that holds them. -/
def takeRun (n : Nat) : List (Nat × Nat) → Option (Nat × List (Nat × Nat))
  | [] => none
  | (s, k) :: rest =>
    if n ≤ k then some (s, if n = k then rest else (s + n, k - n) :: rest)
    else (takeRun n rest).map fun r => (r.1, (s, k) :: r.2)

/-- Take `n` frames from the free store, wherever they lie. -/
def takeFrames (n : Nat) (free : List (Nat × Nat)) : List Nat × List (Nat × Nat) :=
  match free with
  | [] => ([], [])
  | (s, k) :: rest =>
    if n ≤ k then ((List.range n).map (s + ·), if n = k then rest else (s + n, k - n) :: rest)
    else let r := takeFrames (n - k) rest; ((List.range k).map (s + ·) ++ r.1, r.2)

/-- Return a frame to the free store; its contents and its guard number go with it (R86, R392). -/
def giveFrame (f : Nat) (d : Dp) : Dp :=
  let guard := ((d.store.frames.find? (·.frame = f)).bind (·.guard)).toList
  let w := { d.fab.whist with freedGuards := guard ++ d.fab.whist.freedGuards }
  { d with
    fab := { d.fab with whist := w }
    store := { d.store with
      free := (f, 1) :: d.store.free
      coarse := d.store.coarse.filter fun c => c.1 / 65536 ≠ f
      moves := d.store.moves.filter fun v => !v.covers f
      side := d.store.side.filter fun e => e.line / 1024 ≠ f
      mem := d.store.mem.filter fun c => c.1 / 65536 ≠ f
      restored := d.store.restored.flatMap fun x =>
        if x.1 ≤ f && f < x.1 + x.2 then [(x.1, f - x.1), (f + 1, x.1 + x.2 - f - 1)].filter (·.2 ≠ 0) else [x]
      own := d.store.own.filter (· / 1024 ≠ f)
      poison := d.store.poison.filter (· / 1024 ≠ f)
      tags := d.store.tags.filter fun t => t.1 / 1024 ≠ f
      frames := d.store.frames.filter (·.frame ≠ f) } }

/-- Copy a whole physical frame onto another, poison and tags with it (R46, R80). -/
def copyFrame (m : Mgt) (src dst region : Nat) (d : Dp) : Dp :=
  (List.range 1024).foldl (fun d i =>
    let r := readLine m d region (src * 65536 + 64 * i)
    if (frameRec m d src).fresh && !r.2 then d else writeLine m region (dst * 65536 + 64 * i) r.1 r.2 d) d

/-! ### The wires -/

/-- Put something on a wire. -/
def emit (o : Out) (d : Dp) : Dp := { d with out := d.out ++ [o] }

/-- The coherence class of a Daras message code (R347, Table 5): 0 REQ, 1 FWD, 2 SNP, 3 RSP, 4 DAT. -/
def classOf (op : Nat) : Nat :=
  if op < 0x40 then 0 else if op ≤ 0x42 then 1 else if op ≤ 0x4A then 2 else if op ≤ 0x59 then 3 else 4

/-- The queue that carries a partition's traffic of a class (R366, R381). -/
def Mgt.queueOf (m : Mgt) (part cls : Nat) : Nat :=
  if m.forerunner then 0 else bits (((m.part part).map (·.queues.getD cls 0)).getD 0) 5 0

/-- The entry of a scheduling point (R374). -/
def Mgt.pointEntry (m : Mgt) (point : Nat) : PointEntry := ((m.image.map (·.points)).getD []).getD point default

/-- The counted length of an item at a point (R373). -/
def countedLen (m : Mgt) (point : Nat) (i : QItem) : Nat := i.bytes + (m.pointEntry point).overhead

/-- The depth of a queue in counted bytes (R379). -/
def Queue.depth (m : Mgt) (point : Nat) (q : Queue) : Nat := (q.items.map (countedLen m point)).sum

/-- Enqueue an item at a scheduling point (R365, R368), and keep the greatest depth (R379). -/
def enqueue (m : Mgt) (point queue : Nat) (i : QItem) (d : Dp) : Dp :=
  let put := fun (q : Queue) =>
    let q := { q with items := q.items ++ [i] }
    { q with depthMax := max q.depthMax (q.depth m point) }
  let add := fun (p : Point) =>
    if p.queues.any (·.number = queue) then { p with queues := modWhere p.queues (·.number = queue) put }
    else { p with queues := put ⟨queue, [], 0, 0, 0, 0, 0, (0, 0, 0, 0)⟩ :: p.queues }
  { d with fab := { d.fab with points := modAt d.fab.points point add } }

/-- A Daras port carries messages in these states (R343, Table 3). -/
def PortState.carries (s : PortState) : Bool := s = .up || s = .self || s = .replay || s = .sparing

/-- The ports that lead towards an identifier and are in service (R342, R354): the loop's lower port for the loop identifier (R345). -/
def openPorts (m : Mgt) (d : Dp) (epoch target : Nat) : List Nat :=
  let live := fun i => ((d.fab.ports[i]?).map fun p => p.state.carries).getD false
  let looped := fun i => ((d.fab.ports[i]?).map (·.loop)).getD false
  if m.pkg.loopEnable && target = m.pkg.loopId then
    (((List.range 8).filter fun i => live i && looped i).take 1)
  else (List.range 8).filter fun i => live i && !looped i && bitAt ((((m.mapUnder epoch).bind fun r => r.routes.find? (·.id = target)).map (·.ports)).getD 0) i

/-- The port that a message leaves by: its target and line choose among the ports in service (R354); the posts of a gather keep one path (R351). -/
def portFor (m : Mgt) (d : Dp) (msg : Msg) : Option Nat :=
  match openPorts m d msg.epoch msg.target with
  | [] => none
  | ps =>
    let line := if msg.opcode = 0x20 then 0 else lineOf msg.addr
    some (ps.getD (Config.pathHash msg.target line % ps.length) 0)

/-- Send a Daras message: it joins the egress queue of its port. With no port in service it is lost, and timers recover it (R342, R364). -/
def send (m : Mgt) (msg : Msg) (d : Dp) : Dp :=
  match portFor m d msg with
  | none => d
  | some port =>
    enqueue m (2 + port) (m.queueOf msg.partition msg.bwClass)
      ⟨msg, none, classOf msg.opcode, msg.payload.length, msg.partition, msg.bwClass, m.clk.ltb, 0⟩ d

/-- A message from this package under its stamping epoch, with three stages to cross (R346, R359). -/
def Mgt.newMsg (m : Mgt) (opcode target part bw addr arg : Nat) (payload : Bytes) : Msg where
  opcode := opcode
  cls := classOf opcode
  bwClass := bw
  hops := 3
  partition := part
  epoch := m.comp.stamp
  source := m.self
  target := ((m.route target).map (·.server)).getD target
  poison := false
  redirected := false
  txn := 0
  combine := 0
  status := 0
  slot := 0
  origin := 0
  addr := addr
  arg := arg
  payload := payload

/-- An answer to a message: back to its sender, under its transaction and epoch (R346, R361). -/
def answerMsg (q : Msg) (me opcode status arg : Nat) (payload : Bytes) : Msg where
  opcode := opcode
  cls := classOf opcode
  bwClass := q.bwClass
  hops := 3
  partition := q.partition
  epoch := q.epoch
  source := me
  target := q.source
  poison := false
  redirected := false
  txn := q.txn
  combine := 0
  status := status
  slot := 0
  origin := 0
  addr := q.addr
  arg := arg
  payload := payload

/-- Answer a Daras request. -/
def reply (m : Mgt) (q : Msg) (opcode status arg : Nat) (payload : Bytes) (d : Dp) : Dp :=
  send m (answerMsg q m.self opcode status arg payload) d

/-- A refused Daras request is answered and logged, at most one entry per source and millisecond (R349). -/
def refuse (m : Mgt) (q : Msg) (opcode status arg : Nat) (d : Dp) : Dp :=
  reply m q opcode status arg (if opcode = 0x60 then zeros 64 else if opcode = 0x61 then zeros 8 else [])
    (logLimited false m 1 9 2 (some q.partition) q.source 0 q.addr [status, q.opcode] d)

/-- Answer a host through its egress point. -/
def hostAnswer (m : Mgt) (port tag status : Nat) (data : Bytes) (part cls : Nat) (d : Dp) : Dp :=
  enqueue m (10 + port) (m.queueOf part cls)
    ⟨{ (default : Msg) with status := status, slot := port }, some (tag, data), 4, data.length, part, cls, m.clk.ltb, 0⟩ d

/-- Bytes a host port carries count towards its forerunner window (R101). -/
def hostBytes (port n : Nat) (d : Dp) : Dp :=
  { d with hosts := { d.hosts with ports := modAt d.hosts.ports port fun p => { p with bytesNow := p.bytesNow + n } } }

/-- Bytes of a partition and class that a host port carries (R101, R443). -/
def hostMoved (port part cls n : Nat) (d : Dp) : Dp :=
  countAt 2 (0x050000 + 8 * (64 * part + 8 * cls + 7)) n (hostBytes port n d)

/-- A host port. -/
def Dp.hostPort (d : Dp) (p : Nat) : HostPort := d.hosts.ports.getD p HostPort.reset

/-- Change a host port. -/
def modPort (p : Nat) (f : HostPort → HostPort) (d : Dp) : Dp :=
  { d with hosts := { d.hosts with ports := modAt d.hosts.ports p f } }

/-- A host port's lease. -/
def Dp.lease (d : Dp) (p : Nat) : HostLease := d.hosts.leases.getD p HostLease.reset

/-- Change a host port's lease. -/
def modLease (p : Nat) (f : HostLease → HostLease) (d : Dp) : Dp :=
  { d with hosts := { d.hosts with leases := modAt d.hosts.leases p f } }

/-- A Daras port. -/
def Dp.darPort (d : Dp) (p : Nat) : DarPort := d.fab.ports.getD p DarPort.reset

/-- Change a Daras port. -/
def modDar (p : Nat) (f : DarPort → DarPort) (d : Dp) : Dp :=
  { d with fab := { d.fab with ports := modAt d.fab.ports p f } }

/-- A message has been taken from the inbox of delivered messages, where it stood there: the credit it held goes back to its port (R130). -/
def takeInbox (q : Msg) (d : Dp) : Dp :=
  match d.fab.inbox.find? (·.2 = q) with
  | none => d
  | some x => modDar x.1 (fun p => { p with returned := modAt p.returned (classOf q.opcode) (· + 1) })
      { d with fab := { d.fab with inbox := d.fab.inbox.erase x } }

/-! ### Tasks -/

/-- A task of an identifier. -/
def Dp.task (d : Dp) (id : Nat) : Option Task := d.tasks.tasks.find? (·.id = id)

/-- Change a task. -/
def modTask (id : Nat) (f : Task → Task) (d : Dp) : Dp :=
  { d with tasks := { d.tasks with tasks := modWhere d.tasks.tasks (·.id = id) f } }

/-- A task's opcode (R157). -/
def Task.opcode (t : Task) : Nat := fieldAt t.record 0 63 56

/-- A task's bandwidth class (R157). -/
def Task.cls (t : Task) : Nat := fieldAt t.record 0 39 37

/-- A task's late policy (R52). -/
def Task.latePolicy (t : Task) : Nat := fieldAt t.record 0 36 35

/-- A task's damage policy (R157). -/
def Task.damage (t : Task) : Nat := fieldAt t.record 0 34 34

/-- A slot. -/
def Dp.slot (d : Dp) (n : Nat) : Option Slot := d.tasks.slots.find? (·.number = n)

/-- Change a slot. -/
def modSlot (n : Nat) (f : Slot → Slot) (d : Dp) : Dp :=
  { d with tasks := { d.tasks with slots := modWhere d.tasks.slots (·.number = n) f } }

/-- A task has a result: it goes on to its end (R166). The first result stands. -/
def finish (id : Nat) (r : Result) (d : Dp) : Dp :=
  modTask id (fun t => if t.result.isSome then t else { t with result := some r, state := .ending }) d

/-- A task fails with a status and detail; a task whose completion is not yet written, and whose result was DONE, fails after all (R117, R167). -/
def failTask (id status detail : Nat) (d : Dp) : Dp :=
  modTask id (fun t => match t.result with
    | some r => if r.status = 0 then { t with result := some ⟨status, detail, 0, 0, 0⟩ } else t
    | none => { t with result := some ⟨status, detail, 0, 0, 0⟩, state := .ending }) d

/-- The half of a cluster (R467): clusters 0 to 3 west, 4 to 7 east. -/
def halfOf (cluster : Nat) : Nat := if cluster < 4 then 0 else 1

end Sys2Proof.Machine
end

