-- ==== Sys2Proof/Machine/Home.lean ====
section
/-! DEFINITION. The home agent: which requests wait, whom it snoops, what a request does to its line, and the guard writes that follow a change (chapters "Coherence across hosts, engines and packages" and "Resilience and composition"). -/

namespace Sys2Proof.Machine

/-! ### Requests and requesters -/

/-- Request kinds of R123, Table 1. -/
inductive ReqKind where
  | shared
  | own
  | noalloc
  | write
  | atomic
  | wb
  deriving DecidableEq, Repr

/-- Who asks. A PCIe or CXL.io access of a host has no cache behind it; `origin` 1 marks a CXL.mem access. -/
def holderOf (d : Dp) (via : Via) (q : Msg) : Option Holder :=
  match via with
  | .task id => some (.cluster (Fin.ofNat 8 ((d.task id).map (·.cluster) |>.getD 0)))
  | .host p => if q.origin = 1 then some (.host p) else none
  | .daras => some (.pkg q.source)

/-- A request of the other coherence mode (R136): codes 0x01 and 0x02 are home-ordered, 0x03 and 0x04 owner-ordered. -/
def otherMode (m : Mgt) (via : Via) (q : Msg) : Bool :=
  via = .daras && (if m.pkg.ownerOrdered then q.opcode = 0x01 || q.opcode = 0x02 else q.opcode = 0x03 || q.opcode = 0x04)

/-- The kind of a request; one of the other mode is served as a READ_NOALLOC (R136). -/
def kindOf (m : Mgt) (via : Via) (q : Msg) : ReqKind :=
  if otherMode m via q then .noalloc
  else match q.opcode with
    | 0x01 => .shared
    | 0x03 => .shared
    | 0x02 => .own
    | 0x04 => .own
    | 0x05 => .noalloc
    | 0x06 => .write
    | 0x07 => .write
    | 0x08 => .wb
    | _ => .atomic

/-- Does a request change the line? A task's store is a READ_OWN that carries its bytes. -/
def changes (k : ReqKind) (q : Msg) : Bool :=
  match k with
  | .write => true
  | .atomic => true
  | .own => !q.payload.isEmpty
  | _ => false

/-- Numbers from here on stand for the lines of a TOKEN_POST in place of a task (R352). -/
def groupBase : Nat := 2 ^ 41

/-- The half whose port or cluster a request comes from (R36): ports 0 to 3 west, 4 to 7 east. -/
def viaHalf (m : Mgt) (d : Dp) (via : Via) (q : Msg) : Nat :=
  match via with
  | .task id => if id ≥ groupBase then (if (openPorts m d q.epoch q.source).headD 0 < 4 then 0 else 1) else halfOf ((d.task id).map (·.cluster) |>.getD 0)
  | .host p => p.val
  | .daras => if (openPorts m d q.epoch q.source).headD 0 < 4 then 0 else 1

/-! ### The directory -/

/-- The entry of a line. -/
def Dp.entry (d : Dp) (line : Nat) : Option DirEntry := d.coh.dir.find? (·.line = line)

/-- Replace an entry, or add one. -/
def setEntry (e : DirEntry) (d : Dp) : Dp :=
  { d with coh := { d.coh with dir := e :: d.coh.dir.filter (·.line ≠ e.line) } }

/-- The place in space 0x04 of the slot that an entry takes (R530). -/
def dirSlot (e : DirEntry) : Nat := 16 * (2 ^ 24 * homeSlice e.line + 8 * dirSet e.line + e.way)

/-- Forget the words once written to a slot through the debug port: the slot is empty, or takes a new entry. -/
def clearSlot (slot : Nat) (d : Dp) : Dp :=
  { d with coh := { d.coh with raw := d.coh.raw.filter fun w => w.1 / 16 ≠ slot / 16 } }

/-- Free a line's entry: the line is uncached. -/
def dropEntry (line : Nat) (d : Dp) : Dp :=
  let d := (d.coh.dir.filter (·.line = line)).foldl (fun d e => clearSlot (dirSlot e) d) d
  { d with coh := { d.coh with dir := d.coh.dir.filter (·.line ≠ line) } }

/-- Every package composed under the map in force, this one left out. -/
def Mgt.others (m : Mgt) : List Nat :=
  match m.map with
  | some r => (r.routes.filter (·.composed)).map (·.id) |>.filter (· ≠ m.self)
  | none => []

/-- The packages an entry names: by pointer, or every composed package of the marked groups (R126). -/
def DirEntry.packages (m : Mgt) (e : DirEntry) : List Nat :=
  if e.coarse then m.others.filter fun k => bitAt e.groups.toNat (k / 256) else e.ptrs

/-- Every holder an entry names. -/
def DirEntry.holders (m : Mgt) (e : DirEntry) : List Holder :=
  ((List.finRange 8).filter fun c => e.clusters.getLsb c).map Holder.cluster
  ++ ((List.finRange 2).filter fun p => e.hosts.getLsb p).map Holder.host
  ++ (e.packages m).map Holder.pkg

/-- An entry with one more holder (R126): the fifth package turns it COARSE. -/
def DirEntry.add (e : DirEntry) : Holder → DirEntry
  | .cluster c => { e with clusters := e.clusters ||| BitVec.ofNat 8 (2 ^ c.val) }
  | .host p => { e with hosts := e.hosts ||| BitVec.ofNat 2 (2 ^ p.val) }
  | .pkg k =>
    if e.coarse then { e with groups := e.groups ||| BitVec.ofNat 64 (2 ^ (k / 256)) }
    else if k ∈ e.ptrs then e
    else if e.ptrs.length < 4 then { e with ptrs := e.ptrs ++ [k] }
    else { e with coarse := true, ptrs := [], groups := (e.ptrs ++ [k]).foldl (fun g x => g ||| BitVec.ofNat 64 (2 ^ (x / 256))) 0 }

/-- An entry without a holder; a COARSE group bit stays (R126). -/
def DirEntry.remove (e : DirEntry) : Holder → DirEntry
  | .cluster c => { e with clusters := e.clusters &&& ~~~ (BitVec.ofNat 8 (2 ^ c.val)) }
  | .host p => { e with hosts := e.hosts &&& ~~~ (BitVec.ofNat 2 (2 ^ p.val)) }
  | .pkg k => { e with ptrs := e.ptrs.filter (· ≠ k) }

/-- An entry that names no holder. -/
def DirEntry.empty (e : DirEntry) : Bool := e.clusters = 0 && e.hosts = 0 && e.ptrs.isEmpty && e.groups = 0

/-- The ways that a line may take: the one that its partition holds, or every way that no partition holds (R467). -/
def waysFor (m : Mgt) (d : Dp) (line : Nat) : List Nat :=
  let parts := (m.image.map (·.parts)).getD [] ++ (m.comp.lostImage.map (·.parts)).getD []
  let mine := match placeOffset m d (line * 64) with
    | .store r _ _ => (m.region r).bind fun x => m.part x.partition
    | _ => none
  match mine with
  | some x => if x.dirReserve then [x.dirWay] else (List.range 8).filter fun w => !parts.any fun y => y.dirReserve && y.dirWay = w
  | none => (List.range 8).filter fun w => !parts.any fun y => y.dirReserve && y.dirWay = w

/-- The entries of a line's set, in the ways that the line may take. -/
def setOf (m : Mgt) (d : Dp) (line : Nat) : List DirEntry :=
  let ways := waysFor m d line
  d.coh.dir.filter fun e => dirSet e.line = dirSet line && homeSlice e.line = homeSlice line && ways.contains e.way

/-- Is every way that a line may take in use? -/
def setFull (m : Mgt) (d : Dp) (line : Nat) : Bool := (setOf m d line).length ≥ (waysFor m d line).length

/-- A new entry of one holder, in the first free way of its set that the line may take, stamped in order of allocation. -/
def newEntry (m : Mgt) (line : Nat) (owned : Bool) (h : Holder) (d : Dp) : Dp :=
  let used := (setOf m d line).map (·.way)
  let way := ((waysFor m d line).find? (· ∉ used)).getD 0
  let e : DirEntry := ⟨line, way, owned, 0, 0, false, [], 0, d.coh.stamp⟩
  setEntry (e.add h) (clearSlot (dirSlot e) { d with coh := { d.coh with stamp := d.coh.stamp + 1 } })

/-- Put a holder's removal into the directory; an entry left empty is freed. -/
def removeHolder (line : Nat) (h : Holder) (d : Dp) : Dp :=
  match d.entry line with
  | none => d
  | some e => if (e.remove h).empty then dropEntry line d else setEntry (e.remove h) d

/-! ### Trackers -/

/-- A line is busy while a tracker holds it; a FWD that owner ordering has handed on does not hold it (R132, R133). -/
def busy (d : Dp) (line : Nat) : Bool := d.coh.trackers.any fun t => t.line = line && t.cause ≠ 1

/-- Change every tracker of a line. -/
def modTracker (line : Nat) (f : Tracker → Tracker) (d : Dp) : Dp :=
  { d with coh := { d.coh with trackers := modWhere d.coh.trackers (fun t => t.line = line) f } }

/-- The identifier under which a holder knows this home: the loop identifier for a holder across the loop (R345). -/
def homeIdFor (m : Mgt) : Holder → Nat
  | .pkg k => if m.pkg.loopEnable && k = m.pkg.loopId then k else m.homeId
  | _ => m.homeId

/-- Send one snoop or FWD to a holder outside the package (R128, R138, Table 6). -/
def sendSnoop (m : Mgt) (line : Nat) (req : Msg) (viaDaras : Bool) (s : Snoop) (d : Dp) : Dp :=
  let addr := homeIdFor m s.holder * 2 ^ 50 + line * 64
  match s.holder with
  | .cluster _ => d
  | .host p => emit (.bisnp p s.kind addr) d
  | .pkg k =>
    let base := m.newMsg 0 k req.partition req.bwClass addr 0 []
    match s.kind with
    | .inv => send m { base with opcode := 0x48, cls := 2 } d
    | .share => send m { base with opcode := 0x49, cls := 2 } d
    | .cur => send m { base with opcode := 0x4A, cls := 2 } d
    | .fwd =>
      let op := match req.opcode with | 0x01 => 0x40 | 0x03 => 0x40 | 0x05 => 0x42 | _ => 0x41
      let mine := homeIdFor m s.holder
      let looped : Bool := m.pkg.loopEnable && req.source = m.pkg.loopId
      send m { base with opcode := op, cls := 1, origin := if viaDaras && !looped then req.source else mine, txn := if viaDaras then req.txn else 0xFFFF } d

/-- BISnp messages outstanding to a host port. -/
def bisnpCount (d : Dp) (p : Fin 2) : Nat :=
  (d.coh.trackers.map fun t => (t.snoops.filter fun s => s.holder = .host p && s.sent).length).sum

/-- A host port whose lease has expired is sent no BISnp; its snoops end at once (R143). -/
def hostGone (d : Dp) (p : Fin 2) : Bool := (d.lease p.val).state = 2

/-- A package on which a verdict has been taken under the present epoch (R387). -/
def lostPkg (m : Mgt) (d : Dp) (k : Nat) : Bool := d.fab.whist.verdicts.any fun v => v.1 = k && v.2 = m.comp.stamp

/-- Snoops that have not been sent, each marked sent as its message goes out; at most 256 BISnp to a host (R139). -/
def sendSnoops (m : Mgt) (t : Tracker) (d : Dp) : Tracker × Dp :=
  t.snoops.foldl (fun (acc : Tracker × Dp) s =>
    if s.sent then ({ acc.1 with snoops := acc.1.snoops ++ [s] }, acc.2)
    else match s.holder with
      | .host p =>
        if bisnpCount acc.2 p + (acc.1.snoops.filter fun x => x.holder = .host p && x.sent).length < 256 then
          ({ acc.1 with snoops := acc.1.snoops ++ [{ s with sent := true }] }, sendSnoop m t.line t.req (t.via = .daras) s acc.2)
        else ({ acc.1 with snoops := acc.1.snoops ++ [s] }, acc.2)
      | _ => ({ acc.1 with snoops := acc.1.snoops ++ [{ s with sent := true }] }, sendSnoop m t.line t.req (t.via = .daras) s acc.2))
    ({ t with snoops := [] }, d)

/-- Take a tracker for a request and send its snoops. -/
def openTracker (m : Mgt) (line : Nat) (via : Via) (q : Msg) (hs : List (Holder × SnoopKind)) (cause : Nat) (d : Dp) : Dp :=
  let t : Tracker := ⟨line, via, q, hs.map fun h => ⟨h.1, h.2, m.clk.ltb, false, false⟩, none, [], none, false, cause⟩
  let r := sendSnoops m t d
  { r.2 with coh := { r.2.coh with trackers := r.2.coh.trackers ++ [r.1] } }

/-! ### What a request does to its line -/

/-- The outcome of a change at the home: the line afterwards, whether it changed, and the answer's status, argument and payload. -/
structure Change where
  data : Bytes
  poison : Bool
  changed : Bool
  status : Nat
  arg : Nat
  payload : Bytes
  deriving DecidableEq, Repr

/-- An 8-byte value of a line replaced. -/
def setWord (line : Bytes) (i v : Nat) : Bytes := line.take (8 * i) ++ natBytes 8 (v % 2 ^ 64) ++ line.drop (8 * i + 8)

/-- The mask of a full line. -/
def fullMask : Nat := 2 ^ 64 - 1

/-- The FP32 sums applied to the marked elements of a line of a table format (R291 steps 3 and 4). -/
def addLine (format : Nat) (old : Bytes) (sums : List (Nat × BitVec 32)) : Bytes :=
  let n := 512 / fmtBits format
  fit 64 (packRow format ((List.range n).map fun i =>
    match assoc sums i with
    | none => elemAt format old i
    | some s => encodeElem format .rne false (fadd (decodeElem format (elemAt format old i)) (f32Val s.toNat))))

/-- The addends of an ADD_FLOAT by element: those its mask marks (R347). -/
def addendsOf (q : Msg) : List (Nat × BitVec 32) :=
  (setBits 32 (bits q.arg 63 32)).map fun i => (i, BitVec.ofNat 32 (leNat (slice q.payload (4 * i) 4)))

/-- The atomic operations of ATOMIC_RET on a 64-bit value (R347). -/
def atomicOp (op old x y : Nat) : Nat :=
  match op with
  | 0x1 => (old + x) % 2 ^ 64
  | 0x2 => x
  | 0x3 => if old = y then x else old
  | 0x4 => max old x
  | _ => old

/-- RT_RESERVE on a bank header (R213, Table 3). -/
def rtReserve (old : Bytes) (round n : Nat) : Change :=
  let fill := fieldAt old 0 31 0
  let cap := fieldAt old 1 63 48
  if fieldAt old 0 63 32 ≠ round then ⟨old, false, false, 0x07, 0, []⟩
  else if bitAt (wordAt old 1) 32 || fill ≥ cap then ⟨old, false, false, 0x06, 0, []⟩
  else
    let g := min n (cap - fill)
    ⟨setWord old 0 (round * 2 ^ 32 + (fill + g)), false, true, 0, fill * 2 ^ 32 + g, []⟩

/-- RT_CLOSE on a bank header (R213, Table 3). -/
def rtClose (old : Bytes) (round : Nat) : Change :=
  if fieldAt old 0 63 32 ≠ round then ⟨old, false, false, 0x07, 0, []⟩
  else
    let w := wordAt old 1
    ⟨setWord old 1 (w / 2 ^ 32 * 2 ^ 32 + (bits w 31 0 + 1) % 2 ^ 32), false, true, 0, 0, []⟩

/-- EX_CLAIM on a bank header (R213, Table 3): status 0xFF stands for a claim that waits. -/
def exClaim (old : Bytes) (round sources : Nat) : Change :=
  let w := wordAt old 1
  if fieldAt old 0 63 32 = round && !bitAt w 32 && bits w 31 0 ≥ sources then
    ⟨setWord old 1 (w + 2 ^ 32), false, true, 0, 0, []⟩
  else ⟨old, false, false, 0xFF, 0, []⟩

/-- What a change does to a line (R123, R142, R213, R291, R347). -/
def changeOf (q : Msg) (old : Bytes) (poisoned : Bool) : Change :=
  let w := q.addr % 64 / 8
  match q.opcode with
  | 0x06 => ⟨fit 64 q.payload, q.poison, true, 0, 0, []⟩
  | 0x07 => ⟨mergeMask old q.payload q.arg, poisoned || q.poison, true, 0, 0, []⟩
  | 0x02 => ⟨mergeMask old q.payload q.arg, poisoned && q.arg ≠ fullMask, true, 0, 0, []⟩
  | 0x04 => ⟨mergeMask old q.payload q.arg, poisoned && q.arg ≠ fullMask, true, 0, 0, []⟩
  | op =>
    if poisoned then ⟨old, true, false, 0x04, 0, if op = 0x11 then zeros 16 else []⟩
    else match op with
      | 0x10 => ⟨addLine (bits q.arg 7 0) old (addendsOf q), false, true, 0, 0, []⟩
      | 0x11 =>
        let o := wordAt old w
        ⟨setWord old w (atomicOp (bits q.arg 7 0) o (wordAt q.payload 0) (wordAt q.payload 1)), false, true, 0, 0, natBytes 8 o ++ zeros 8⟩
      | 0x12 => ⟨setWord old w (wordAt old w + q.arg), false, true, 0, 0, []⟩
      | 0x18 => rtReserve old (bits q.arg 63 32) (bits q.arg 31 0)
      | 0x19 => rtClose old (bits q.arg 63 32)
      | 0x1A => exClaim old (bits q.arg 63 32) (bits q.arg 15 0)
      | _ => ⟨old, false, false, 0, 0, []⟩

/-! ### Guards (R392 to R394) -/

/-- The guard number of a frame; a frame that first takes guarded data is given one, a freed number first (R392). -/
def guardNumber (m : Mgt) (f : Nat) (d : Dp) : Nat × Dp :=
  match (frameRec m d f).guard with
  | some g => (g, d)
  | none =>
    let g := d.fab.whist.freedGuards.headD d.fab.whist.nextGuard
    let d := setFrame { frameRec m d f with guard := some g } d
    (g, { d with fab := { d.fab with whist := { d.fab.whist with
      nextGuard := if d.fab.whist.freedGuards.isEmpty then g + 1 else d.fab.whist.nextGuard
      freedGuards := d.fab.whist.freedGuards.drop 1 } } })

/-- A line multiplied by 2^i over GF(2⁸) (R394). -/
def stripeScale (i : Nat) (b : Bytes) : Bytes := b.map (gfStripe (gfPow2 i))

/-- The guard writes that a change of a line calls for: holder, guard address and payload (R393, R394). -/
def guardWrites (m : Mgt) (d : Dp) (r : Region) (g lineOff : Nat) (old new : Bytes) : List (Nat × Nat × Bytes) :=
  let at_ := fun (holder base : Nat) => holder * 2 ^ 50 + base + 65536 * g + lineOff
  let keep := fun (h : Option Nat) => h.filter fun k => k ∉ d.fab.whist.degraded || m.comp.resyncing || !d.fab.whist.verdicts.any (·.1 = k)
  match r.guard with
  | 1 => match keep m.partner with
    | some p => [(p, at_ p 0xC00000000000, new)]
    | none => []
  | 2 =>
    let delta := xorBytes old new
    (match keep (m.atPosition 8) with | some p => [(p, at_ p 0xD00000000000, delta)] | none => [])
    ++ (match keep (m.atPosition 9) with
        | some p => [(p, at_ p 0xE00000000000, stripeScale (m.position.getD 0) delta)] | none => [])
  | _ => []

/-- The first transaction index of a port from a start that no outstanding request holds; 0xFFFF is never one. -/
def freeIndex (used : List Nat) (port : Nat) : Nat → Nat → Nat
  | 0, i => i % 8192
  | n + 1, i =>
    let t := port * 8192 + i % 8192
    if t ∈ used || t = 0xFFFF then freeIndex used port n (i + 1) else i % 8192

/-- The transaction number of a new request: its port in bits 15:13 and a free index of that port (R346). -/
def freshTxn (m : Mgt) (q : Msg) (d : Dp) : Nat :=
  let port := (portFor m d q).getD 0
  port * 8192 + freeIndex (d.coh.txns.map (·.txn) ++ d.fab.forwards.map (·.txn)) port 8192 d.coh.nextTxn

/-- A port with 8,192 requests outstanding issues no more (R346). -/
def portFull (m : Mgt) (q : Msg) (d : Dp) : Bool :=
  let port := (portFor m d q).getD 0
  (d.coh.txns.filter fun t => t.txn / 8192 = port && !t.dead && !d.coh.heldHome.any (·.txn = t.txn)).length ≥ 8192

/-- A request that makes its sender a holder. -/
def cachedKind (q : Msg) : Bool := 0x01 ≤ q.opcode && q.opcode ≤ 0x04

/-- This package has asked, or waits, to hold the line that a request would hold: it asks once at a time for each line. -/
def lineAsked (d : Dp) (q : Msg) (before : Option Nat) : Bool :=
  let ts := match before with
    | none => d.coh.txns
    | some t => d.coh.txns.takeWhile (·.txn ≠ t)
  cachedKind q && ts.any fun x => cachedKind x.msg && x.msg.addr / 64 = q.addr / 64

/-- Send a request of this package, recording it with its timer (R346, R363). A request to a package named lost, or to a line with an older request of the same agent under another epoch, is held (R355, R387). -/
def issue (m : Mgt) (via : Via) (q : Msg) (d : Dp) : Dp :=
  let t := freshTxn m q d
  let holdIt := lostPkg m d q.target || portFull m q d || lineAsked d q none ||
    d.coh.txns.any fun x => x.via = via && !x.dead && x.msg.addr / 64 = q.addr / 64 && x.msg.epoch ≠ q.epoch
  let q := { q with txn := t }
  let d := { d with coh := { d.coh with nextTxn := d.coh.nextTxn + 1, txns := d.coh.txns ++ [⟨t, via, q, m.clk.ltb, none, none, false, [], false⟩] } }
  let wire := if q.opcode = 0x02 || q.opcode = 0x04 then { q with payload := [], arg := 0 } else q
  if holdIt then { d with coh := { d.coh with heldHome := d.coh.heldHome ++ [wire] } } else send m wire d

/-- Send the guard writes of a change, and record them with the tracker of its line. -/
def sendGuards (m : Mgt) (part bw : Nat) (gs : List (Nat × Nat × Bytes)) (d : Dp) : List (Nat × Nat × Bytes × Nat) × Dp :=
  gs.foldl (fun (acc : List (Nat × Nat × Bytes × Nat) × Dp) g =>
    let q := m.newMsg 0x06 g.1 part bw g.2.1 0 g.2.2
    (acc.1 ++ [(g.1, freshTxn m q acc.2, g.2.2, m.clk.ltb)], issue m .daras q acc.2)) ([], d)

/-- The bytes of a line as its guards hold them: ciphertext for a sealed region (R422). -/
def guardBytes (d : Dp) (at_ : Nat) : Bytes := rawLine d at_

/-- Apply a change to a line of the store and start its guard writes; answers the guard writes to wait for. -/
def applyChange (m : Mgt) (region at_ : Nat) (data : Bytes) (poison : Bool) (part bw : Nat) (d : Dp) :
    List (Nat × Nat × Bytes × Nat) × Dp :=
  let cleared := at_ / 64 ∈ d.store.poison && !poison
  let old := guardBytes d at_
  let d := writeLine m region at_ data poison d
  let d := if cleared then logEvent m 1 8 3 none 0 0 (m.homeId * 2 ^ 50 + at_ / 64 * 64) [] d else d
  match m.region region with
  | none => ([], d)
  | some r =>
    if r.guard = 0 then ([], d)
    else
      let g := guardNumber m (at_ / 65536) d
      sendGuards m part bw (guardWrites m g.2 r g.1 (at_ % 65536 / 64 * 64) old (guardBytes g.2 at_)) g.2

/-! ### Counting -/

/-- Count one line touched for an agent or a host: heat, tier lines and bytes (R36, R443, R444). Reads of a scan add no heat (R300). -/
def countTouch (m : Mgt) (via : Via) (q : Msg) (at_ : Nat) (write : Bool) (d : Dp) : Dp :=
  let l := (frameRec m d (at_ / 65536)).loc
  let half := viaHalf m d via q
  let scan : Bool := match via with | .task id => !write && ((d.task id).map (·.opcode)) = some 0x50 | _ => false
  let d := if scan then d else heat m half at_ d
  let d := countNamed (if l.far then 2 else 1) d
  let d := countAt 2 (0x050000 + 8 * (64 * q.partition + 8 * q.bwClass + ((if l.far then 2 else 0) + if write then 1 else 0))) 64 d
  if half ≠ l.half then countAt 2 (0x050000 + 8 * (64 * q.partition + 8 * q.bwClass + 4)) 64 d else d

/-! ### Answers -/

/-- A line has come for a task. -/
def deliverTask (id : Nat) (a : Arrived) (d : Dp) : Dp :=
  modTask id (fun t => { t with arrived := a :: t.arrived.filter (·.line ≠ a.line), outstanding := t.outstanding - 1 }) d

/-- One outstanding access of a task has been performed; a status other than OK ends the task (R349, Table 6). -/
def taskDone (id status region : Nat) (d : Dp) : Dp :=
  let d := modTask id (fun t => { t with outstanding := t.outstanding - 1 }) d
  match status with
  | 0x00 => d
  | 0x04 => failTask id 0x20 region d
  | 0x05 => failTask id 0x21 region d
  | _ => failTask id 0x24 0x06 d

/-- Lines that a host read spans. -/
def HostRead.lines (h : HostRead) : Nat := if h.bytes = 0 then 0 else ceilDiv (h.addr + h.bytes) 64 - h.addr / 64

/-- The bytes that a host read has gathered. -/
def HostRead.data (h : HostRead) : Bytes :=
  slice ((List.range h.lines).flatMap fun i => ((h.arrived.find? (·.line = h.addr / 64 + i)).map (·.data)).getD []) (h.addr % 64) h.bytes

/-- A host read that has all its lines is answered: with data, or with data marked poisoned (R142); a refused one with Unsupported Request, or over CXL.mem with poisoned data (R319, Table 2). Answer status 0 is success, 1 Unsupported Request, 2 poisoned data. -/
def closeHostReads (m : Mgt) (d : Dp) : Dp :=
  let ready := fun (h : HostRead) => h.failed || h.arrived.length ≥ h.lines
  (d.hosts.hostReads.filter ready).foldl (fun d h =>
    let st := if h.failed then (if h.cxl then 2 else 1) else if h.arrived.any (·.poison.isSome) then 2 else 0
    let b := if h.failed then (if h.cxl then zeros h.bytes else []) else h.data
    hostAnswer m h.port h.tag st b h.part h.cls (hostMoved h.port h.part h.cls b.length d))
    { d with hosts := { d.hosts with hostReads := d.hosts.hostReads.filter fun h => !ready h } }

/-- A line has come for a host read that gathers its lines; one access takes one copy. -/
def deliverHost (m : Mgt) (p line : Nat) (data : Bytes) (poison : Option Nat) (d : Dp) : Dp :=
  let wants := fun (h : HostRead) => h.port = p && h.addr / 64 ≤ line && line < ceilDiv (h.addr + h.bytes) 64 && !h.arrived.any (·.line = line)
  match d.hosts.hostReads.find? wants with
  | none => d
  | some h => closeHostReads m { d with hosts := { d.hosts with hostReads := d.hosts.hostReads.map fun x => if x = h then { h with arrived := ⟨line, data, poison⟩ :: h.arrived } else x } }

/-- Hand a read line to whoever asked (R123, R347, R536). -/
def supply (m : Mgt) (via : Via) (q : Msg) (region : Nat) (data : Bytes) (poison : Bool) (d : Dp) : Dp :=
  match via with
  | .task id => deliverTask id ⟨q.addr / 64, data, if poison then some region else none⟩ d
  | .host p => deliverHost m p.val (q.addr / 64) data (if poison then some region else none) d
  | .daras => send m { answerMsg q m.self 0x60 0 (if poison then region else 0) data with poison := poison } d

/-- The answer that a request names in Table 5 (R347, R349). -/
def answerCode (op : Nat) : Nat :=
  if 0x01 ≤ op && op ≤ 0x05 then 0x60 else if op = 0x08 then 0x56 else if op = 0x11 || op = 0x28 then 0x61 else 0x58

/-- One line of a TOKEN_POST has been applied; the last is answered with the first status that was not OK (R352). -/
def groupDone (m : Mgt) (id status arg : Nat) (d : Dp) : Dp :=
  match d.coh.groups.find? (·.1 = id) with
  | none => d
  | some g =>
    let st := if g.2.2.2 = 0 then status else g.2.2.2
    let rest := d.coh.groups.filter (·.1 ≠ id)
    if g.2.2.1 ≤ 1 then reply m g.2.1 0x58 st (if st = status then arg else 0) [] { d with coh := { d.coh with groups := rest } }
    else { d with coh := { d.coh with groups := (id, g.2.1, g.2.2.1 - 1, st) :: rest } }

/-- Acknowledge a change to whoever asked. -/
def acknowledge (m : Mgt) (via : Via) (q : Msg) (region : Nat) (c : Change) (d : Dp) : Dp :=
  let arg := if c.status = 0x04 || c.status = 0x05 then region else c.arg
  match via with
  | .task id =>
    if id ≥ groupBase then groupDone m id c.status arg d
    else if q.opcode = 0x18 || q.opcode = 0x19 then
      modTask id (fun t => { t with outstanding := t.outstanding - 1, prog := { t.prog with asked := (q.addr, c.status, arg) :: t.prog.asked.filter (·.1 ≠ q.addr) } }) d
    else taskDone id c.status arg d
  | .host p => if q.origin = 1 then hostAnswer m p.val q.txn 0 [] q.partition q.bwClass d else d
  | .daras =>
    match q.opcode with
    | 0x11 => reply m q 0x61 c.status arg c.payload d
    | 0x02 => d
    | 0x04 => d
    | _ => reply m q 0x58 c.status arg [] d

/-! ### Serving a request -/

/-- Holders to snoop before a request is served (R123, R132, R138): owners for reads, every other holder for the rest; a package that writes past its own copy is snooped for it. Clusters of this package answer within the request. -/
def snoopsFor (m : Mgt) (k : ReqKind) (h : Option Holder) (e : DirEntry) : List (Holder × SnoopKind) :=
  let own : Bool := k = .shared || k = .own
  let out := (e.holders m).filter fun x => match x with
    | .cluster _ => false
    | .host _ => some x ≠ h
    | .pkg _ => !(own && some x = h)
  match k with
  | .shared => if e.owned then out.map fun x => (x, match x with | .pkg _ => .fwd | _ => .share) else []
  | .noalloc => if e.owned then out.map fun x => (x, match x with | .pkg _ => .fwd | _ => .cur) else []
  | .own => out.map fun x => (x, match x with | .pkg _ => if e.owned then .fwd else .inv | _ => .inv)
  | .wb => []
  | _ => out.map fun x => (x, .inv)

/-- The directory after a request has been served (R123, Table 1). -/
def entryAfter (m : Mgt) (k : ReqKind) (line : Nat) (h : Option Holder) (d : Dp) : Dp :=
  match k, h with
  | .shared, some h =>
    match d.entry line with
    | none => newEntry m line false h d
    | some e => setEntry (DirEntry.add { e with owned := false } h) d
  | .own, some h =>
    match d.entry line with
    | none => newEntry m line true h d
    | some e => setEntry (DirEntry.add { e with owned := true, clusters := 0, hosts := 0, coarse := false, ptrs := [], groups := 0 } h) d
  | .write, h =>
    match d.entry line, h with
    | some e, some (.host p) => if e.owned && e.hosts.getLsb p then removeHolder line (.host p) d else dropEntry line d
    | _, _ => dropEntry line d
  | .atomic, _ => dropEntry line d
  | _, _ => d

/-- Was the requester a sharer named by pointer? Then ownership alone is granted (R123). -/
def grantsOnly (via : Via) (h : Option Holder) (e : Option DirEntry) : Bool :=
  match via, h, e with
  | .daras, some (.pkg k), some e => !e.owned && !e.coarse && k ∈ e.ptrs
  | _, _, _ => false

/-- Mark a tracker's line as waiting for the requester's COMPLETE (R132); owner ordering waits for none (R133). -/
def keepBusy (m : Mgt) (line : Nat) (via : Via) (q : Msg) (d : Dp) : Dp :=
  let t : Tracker := ⟨line, via, q, [], some m.clk.ltb, [], none, false, 0⟩
  { d with coh := { d.coh with trackers := d.coh.trackers ++ [t] } }

/-- A sealed line whose tag fails is poisoned in memory, logged and counted (R421). -/
def noteTag (m : Mgt) (region at_ : Nat) (poisoned : Bool) (d : Dp) : Dp :=
  if poisoned && !(at_ / 64 ∈ d.store.poison) then
    countNamed 11 (logEvent m 3 0xD 1 ((m.region region).map (·.partition)) 0 0 (m.homeId * 2 ^ 50 + at_ / 64 * 64) [region] (poisonLine at_ d))
  else d

/-- Serve a request whose snoops have been answered: what it reads, what it writes, and the directory afterwards. `fwd` tells that an owner has sent the data itself. -/
def serve (m : Mgt) (via : Via) (q : Msg) (region at_ : Nat) (fwd : Bool) (d : Dp) : Dp :=
  let k := kindOf m via q
  let line := lineOf q.addr
  let h := holderOf d via q
  let before := d.entry line
  let d := countTouch m via q at_ (changes k q) d
  let l := readLine m d region at_
  let d := noteTag m region at_ l.2 d
  let d := entryAfter m k line h d
  let ownerMode := m.pkg.ownerOrdered && via = .daras
  if changes k q then
    let c := changeOf q l.1 l.2
    if c.changed then
      let g := applyChange m region at_ c.data c.poison q.partition q.bwClass d
      if g.1.isEmpty then acknowledge m via q region c g.2
      else
        let t : Tracker := ⟨line, via, { q with status := c.status, arg := c.arg, payload := c.payload }, [], none, g.1, none, false, 4⟩
        { g.2 with coh := { g.2.coh with trackers := g.2.coh.trackers ++ [t] } }
    else acknowledge m via q region c d
  else match k with
    | .own =>
      let d := if fwd then d
        else if grantsOnly via h before then send m (answerMsg q m.self 0x52 0 0 []) d
        else supply m via q region l.1 l.2 d
      if ownerMode then send m (answerMsg q m.self 0x53 0 0 []) d
      else if via = .daras then keepBusy m line via q d else d
    | .shared =>
      let d := if fwd then d else supply m via q region l.1 l.2 d
      if ownerMode then send m (answerMsg q m.self 0x53 0 0 []) d
      else if via = .daras then keepBusy m line via q d else d
    | _ => if fwd then d else supply m via q region l.1 l.2 d

/-! ### Write-backs at the home (R137) -/

/-- FWDs of a line that a holder has not yet answered. -/
def unanswered (d : Dp) (line k : Nat) : Nat :=
  (d.coh.trackers.filter fun t => t.line = line && t.cause = 1 && t.snoops.any (·.holder = .pkg k)).length

/-- Answer a WB_REQ (R137). -/
def serveWb (m : Mgt) (q : Msg) (d : Dp) : Dp :=
  let line := lineOf q.addr
  match d.entry line with
  | some e =>
    if e.owned && q.source ∈ e.ptrs then
      if (d.coh.writebacks.filter fun w => homeSlice w.1 = homeSlice line).length ≥ 2048 then
        { d with coh := { d.coh with waiting := d.coh.waiting ++ [(.daras, q)] } }
      else
      send m (answerMsg q m.self 0x55 0 0 [])
        { d with coh := { d.coh with writebacks := (line, q.source) :: d.coh.writebacks,
                                     trackers := d.coh.trackers ++ [⟨line, .daras, q, [], none, [], some q.source, false, 5⟩] } }
    else send m (answerMsg q m.self 0x56 0 (unanswered d line q.source) []) d
  | none => send m (answerMsg q m.self 0x56 0 (unanswered d line q.source) []) d

/-! ### Arrival at the home -/

/-- A request waits. -/
def waitHome (via : Via) (q : Msg) (d : Dp) : Dp :=
  { d with coh := { d.coh with waiting := d.coh.waiting ++ [(via, q)] } }

/-- Held adds stand for a line in the side buffer or a combining entry (R43, R292). -/
def heldAdds (d : Dp) (line : Nat) : Bool :=
  d.store.side.any (·.line = line) || d.store.combine.any (·.line = line)

/-- An alias hold stands on a frame (R395). -/
def frameHeld (d : Dp) (f : Nat) : Bool := d.fab.whist.holds.any (·.1 = f)

/-- Lines of a draft view whose frame is still shared: the slot's draft must copy the frame first (R80). -/
def needsCopy (d : Dp) (region : Nat) (reach : Reach) (off : Nat) : Option (Nat × Nat) :=
  match reach with
  | .view slot =>
    match (d.snap region).bind (·.view slot) with
    | some v => match v.shown with
      | .draft dr => if (assoc dr.copies off).isSome then none else some (slot, off)
      | .version _ => none
    | none => none
  | _ => none

/-- The frame index of a view or region address within its region. -/
def frameIndex (m : Mgt) (region : Nat) (reach : Reach) (off : Nat) : Nat :=
  match m.region region, reach with
  | some r, .view _ => (off - r.viewBase) % r.viewSize / 65536
  | some r, _ => (off - r.base) / 65536
  | none, _ => 0

/-- Start the copy of a draft frame, once (R80). -/
def startCopy (region slot frame : Nat) (d : Dp) : Dp :=
  { d with snaps := { d.snaps with regions := modWhere d.snaps.regions (·.region = region) fun s =>
      { s with views := modWhere s.views (·.slot = slot) fun v =>
        match v.shown with
        | .draft dr => { v with shown := .draft { dr with copying := if (assoc dr.copying frame).isSome then dr.copying else (frame, 0) :: dr.copying } }
        | .version _ => v } } }

/-- Frames of a draft's reservation that nothing has yet claimed: what is left after the frames set aside for tasks and the copies under way (R80, R81). -/
def draftLeft (dr : Draft) : Nat :=
  let open_ := dr.setAside.filter fun s => (assoc dr.copies s.2).isNone
  let extra := dr.copying.filter fun c => !dr.setAside.any (·.2 = c.1)
  dr.reserved.length - (open_.length + extra.length)

/-- May a write that no task set a frame aside for start a copy of the frame (R81)? -/
def mayCopy (d : Dp) (region slot frame : Nat) : Bool :=
  match (d.snap region).bind (·.view slot) with
  | some v => match v.shown with
    | .draft dr => (assoc dr.copying frame).isSome || dr.setAside.any (·.2 = frame) || draftLeft dr > 0
    | .version _ => false
  | none => false

/-- A draft that has lost a host write (R81). -/
def spoilDraft (region slot : Nat) (d : Dp) : Dp :=
  { d with snaps := { d.snaps with regions := modWhere d.snaps.regions (·.region = region) fun s =>
      { s with views := modWhere s.views (·.slot = slot) fun v =>
        match v.shown with
        | .draft dr => { v with shown := .draft { dr with state := if dr.state = .draft then .spoilt else dr.state } }
        | .version _ => v } } }

/-- A write that needs a copy when no reservation is left: a host's is discarded and logged, and the draft becomes SPOILT; another package's is answered ACCESS (R81). -/
def noCopyLeft (m : Mgt) (via : Via) (q : Msg) (region slot : Nat) (d : Dp) : Dp :=
  match via with
  | .task id => if id ≥ groupBase then groupDone m id 0x01 0 d else taskDone id 0x01 region d
  | .host p =>
    let d := logEvent m 1 7 6 (some q.partition) 0 0 q.addr [region, p.val] (spoilDraft region slot d)
    if q.origin = 1 then hostAnswer m p.val q.txn 0 [] q.partition q.bwClass d else d
  | .daras => refuse m q (answerCode q.opcode) 0x01 region d

/-- A region that is absent, or whose state is lost, is not served (R27, R402, R429). -/
def regionDead (m : Mgt) (d : Dp) (region : Nat) : Bool :=
  region ∈ m.far.absent || region ∈ d.store.lostRegions || (m.sec.sealedLost && (m.region region).any (·.sealed))

/-- A view that may be written: a draft in state DRAFT that no publish has frozen and that is not closing (R537). -/
def viewWritable (d : Dp) (region slot : Nat) : Bool :=
  match (d.snap region).bind (·.view slot) with
  | some v => (match v.shown with | .draft dr => dr.state = .draft && !dr.frozen | .version _ => false) && v.closing.isNone
  | none => false

/-- A closing slot is a free slot to hosts and to Daras (R87). -/
def viewClosing (d : Dp) (region slot : Nat) : Bool :=
  match (d.snap region).bind (·.view slot) with
  | some v => v.closing.isSome
  | none => true

/-- Do two lines compete for the same ways of the same set (R124, R467)? -/
def sameSet (m : Mgt) (d : Dp) (a b : Nat) : Bool := homeSlice a = homeSlice b && dirSet a = dirSet b && waysFor m d a = waysFor m d b

/-- The lines ahead that wait for an entry in the set of a line. -/
def setWaiters (m : Mgt) (line : Nat) (d : Dp) : List Nat :=
  ((d.coh.waiting.filter fun w =>
    (kindOf m w.1 w.2 = .shared || kindOf m w.1 w.2 = .own) && sameSet m d (lineOf w.2.addr) line && (d.entry (lineOf w.2.addr)).isNone).map fun w => lineOf w.2.addr).eraseDups

/-- Is an eviction that a request began still under way: are there more in its set than requests ahead of it (R127)? -/
def evicting (m : Mgt) (line : Nat) (d : Dp) : Bool :=
  (d.coh.trackers.filter fun t => t.cause = 2 && sameSet m d t.line line).length > (setWaiters m line d).length

/-- Evict from a full directory set (R127): answers none where the request waits for an eviction of its own or every way is busy. -/
def evictFor (m : Mgt) (line : Nat) (d : Dp) : Option Dp :=
  if evicting m line d then none else match minBy (·.stamp) ((setOf m d line).filter fun e => !d.coh.trackers.any (·.line = e.line)) with
  | none => none
  | some v =>
    let d := countNamed 7 d
    let hs := snoopsFor m .write none v
    if hs.isEmpty then some (dropEntry v.line d)
    else some (openTracker m v.line .daras { (default : Msg) with opcode := 0x48, addr := m.homeId * 2 ^ 50 + v.line * 64 } hs 2 d)

/-- Hand a request on under owner ordering: the entry names the requester, the former owner is sent a FWD, and the requester ACKS_DONE (R133). -/
def handOn (m : Mgt) (q : Msg) (k : ReqKind) (owner : Nat) (d : Dp) : Dp :=
  let line := lineOf q.addr
  let h := Holder.pkg q.source
  let d := entryAfter m k line (some h) d
  let d := openTracker m line .daras q [(.pkg owner, .fwd)] 1 d
  send m (answerMsg q m.self 0x53 0 0 []) d

/-! ### Held adds (R43, R292) -/

/-- An add that returns no value: ADD_FLOAT, or an unsigned 64-bit add. -/
def isAdd (q : Msg) : Bool := q.opcode = 0x10 || q.opcode = 0x12

/-- The addends of an add by element; an unsigned 64-bit addend is held as its 32-bit halves. -/
def heldSums (q : Msg) : List (Nat × BitVec 32) :=
  if q.opcode = 0x10 then addendsOf q
  else let w := q.addr % 64 / 8; [(2 * w, BitVec.ofNat 32 q.arg), (2 * w + 1, BitVec.ofNat 32 (q.arg / 2 ^ 32))]

/-- Two FP32 addends summed once rounded (R291 step 2). -/
def sumAddends (a b : BitVec 32) : BitVec 32 := BitVec.ofNat 32 (f32Code (fadd (f32Val a.toNat) (f32Val b.toNat)))

/-- Addends of one entry with further ones summed in, element by element; unsigned halves with their carry. -/
def mergeSums (format : Nat) (old new : List (Nat × BitVec 32)) : List (Nat × BitVec 32) :=
  if format = 0 then
    let word := fun (l : List (Nat × BitVec 32)) w => ((assoc l (2 * w)).getD 0).toNat + ((assoc l (2 * w + 1)).getD 0).toNat * 2 ^ 32
    ((old ++ new).map fun x => x.1 / 2).eraseDups.flatMap fun w =>
      let v := (word old w + word new w) % 2 ^ 64
      [(2 * w, BitVec.ofNat 32 v), (2 * w + 1, BitVec.ofNat 32 (v / 2 ^ 32))]
  else new.foldl (fun l x => match assoc l x.1 with
    | some o => setKey l x.1 (sumAddends o x.2)
    | none => l ++ [x]) old

/-- The line that an entry's adds leave (R291 steps 3 and 4). -/
def appliedLine (format : Nat) (old : Bytes) (sums : List (Nat × BitVec 32)) : Bytes :=
  if format = 0 then
    (sums.map fun x => x.1 / 2).eraseDups.foldl (fun l w =>
      setWord l w (wordAt l w + ((assoc sums (2 * w)).getD 0).toNat + ((assoc sums (2 * w + 1)).getD 0).toNat * 2 ^ 32)) old
  else addLine format old sums

/-- Put an add's sums into a list of entries under a key; answers none where a new entry would pass the limit. -/
def putEntry (limit : Nat) (e : AddEntry) (es : List AddEntry) : Option (List AddEntry) :=
  let same := fun (x : AddEntry) => x.line = e.line && x.format = e.format && x.task = e.task && x.group = e.group
  if es.any same then some (modWhere es same fun x => { x with sums := mergeSums e.format x.sums e.sums })
  else if (es.filter fun x => homeSlice (lineOf x.pool) = homeSlice (lineOf e.pool)).length < limit then some (es ++ [e])
  else none

/-- Hold an add: in the side buffer while its frame is copied, by address and format; otherwise an ADD_FLOAT in a combining entry of its burst. Answers none where no entry is free (R43, R292). -/
def holdAdd (via : Via) (q : Msg) (at_ : Nat) (d : Dp) : Option Dp :=
  let format := if q.opcode = 0x10 then bits q.arg 7 0 else 0
  let pool := q.addr / 64 * 64
  if d.store.moves.any fun v => v.covers (at_ / 65536) then
    (putEntry 4096 ⟨at_ / 64, pool, format, 0, 0, heldSums q⟩ d.store.side).map fun es => { d with store := { d.store with side := es } }
  else
    let task := match via with | .task id => id | _ => 2 ^ 40 + q.source
    (putEntry 1024 ⟨at_ / 64, pool, format, task, q.txn, heldSums q⟩ d.store.combine).map fun es => { d with store := { d.store with combine := es } }

/-- An add that returns no value reaches the home: it is refused where its line is poisoned, waits, or is held; it is performed when an entry accepts it (R43, R292, R297). -/
def arriveAdd (m : Mgt) (via : Via) (q : Msg) (region : Nat) (reach : Reach) (at_ : Nat) (d : Dp) : Dp :=
  let f := at_ / 65536
  if (readLine m d region at_).2 then acknowledge m via q region ⟨[], true, false, 0x04, 0, []⟩ d
  else if d.coh.waiting.any (fun w => lineOf w.2.addr = lineOf q.addr) || frameHeld d f
    || d.store.moves.any (fun v => v.covers f && v.flipping) then waitHome via q d
  else match needsCopy d region reach (frameIndex m region reach (q.addr % 2 ^ 50)) with
    | some (slot, fr) => if mayCopy d region slot fr then waitHome via q (startCopy region slot fr d) else noCopyLeft m via q region slot d
    | none => match holdAdd via q at_ d with
      | some d => acknowledge m via q region ⟨[], false, true, 0, 0, []⟩ d
      | none => waitHome via q d

/-- A draft frame is copied before another package or a host comes to own a line of it; a host that finds no reservation left is served without a copy, and loses its write later (R80, R81). -/
def copyFirst (d : Dp) (via : Via) (region : Nat) (reach : Reach) (f : Nat) : Bool :=
  match via, reach with
  | .host _, .view slot => mayCopy d region slot f
  | .host _, _ => false
  | _, _ => true

/-- Is an add to be held: every ADD_FLOAT, and an unsigned add while its frame is copied? -/
def heldKind (d : Dp) (q : Msg) (at_ : Nat) : Bool :=
  q.opcode = 0x10 || (q.opcode = 0x12 && d.store.moves.any fun v => v.covers (at_ / 65536) && !v.flipping)

/-- A host port whose lease has expired gives up a line at once, as the directory walk would have it do: an owned line is poisoned and logged under R141, with snoop kind 4 for none, and a sharer's bit goes (R143). -/
def walkLine (m : Mgt) (line : Nat) (p : Fin 2) (d : Dp) : Dp :=
  match d.entry line with
  | none => d
  | some e =>
    if !e.hosts.getLsb p then d
    else
      let d := removeHolder line (.host p) d
      if !e.owned then d
      else match placeOffset m d (line * 64) with
        | .store r _ a =>
          let d := logEvent m 3 8 1 none 0 0 (m.homeId * 2 ^ 50 + line * 64) [1, 4] d
          (applyChange m r a (readLine m d r a).1 true (((m.region r).map (·.partition)).getD 0) 0 d).2
        | _ => d

/-- Host ports without a lease are gone from a line before anything is done to it (R143). -/
def purgeGone (m : Mgt) (line : Nat) (d : Dp) : Dp :=
  (List.finRange 2).foldl (fun d p => if hostGone d p then walkLine m line p d else d) d

/-- A request reaches the home of a line of the store: it waits, is snooped for, or is served (R41 to R46, R80, R127, R131, R132, R292, R395). -/
def arrive (m : Mgt) (via : Via) (q : Msg) (region : Nat) (reach : Reach) (at_ : Nat) (d : Dp) : Dp :=
  let k := kindOf m via q
  let line := lineOf q.addr
  let f := at_ / 65536
  let d := purgeGone m line d
  let e := d.entry line
  let h := holderOf d via q
  if heldKind d q at_ then arriveAdd m via q region reach at_ d
  else if busy d line || d.coh.waiting.any (fun w => lineOf w.2.addr = line) || heldAdds d (at_ / 64)
    || d.store.moves.any (fun v => v.covers f && v.flipping)
    || (changes k q && frameHeld d f)
    || (d.coh.trackers.filter fun t => homeSlice t.line = homeSlice line).length ≥ 8192 then waitHome via q d
  else if k = .wb then serveWb m q d
  else match (if changes k q || (k = .own && copyFirst d via region reach (frameIndex m region reach (q.addr % 2 ^ 50)))
      then needsCopy d region reach (frameIndex m region reach (q.addr % 2 ^ 50)) else none) with
    | some (slot, fr) => if mayCopy d region slot fr then waitHome via q (startCopy region slot fr d) else noCopyLeft m via q region slot d
    | none =>
      if (k = .shared || k = .own) && e.isNone && setFull m d line then
        match evictFor m line d with
        | none => waitHome via q d
        | some d => if setFull m d line then waitHome via q d else serve m via q region at_ false d
      else match e with
        | none => serve m via q region at_ false d
        | some e =>
          let hs := snoopsFor m k h e
          match hs with
          | [] => serve m via q region at_ false d
          | (.pkg o, .fwd) :: _ =>
            if m.pkg.ownerOrdered && via = .daras && (k = .shared || k = .own) then handOn m q k o d
            else openTracker m line via q hs 0 d
          | _ => openTracker m line via q hs 0 d

/-- Where the store keeps the line a request names, if it names one. -/
def storePlace (m : Mgt) (d : Dp) (addr : Nat) : Option (Nat × Reach × Nat) :=
  match placeOffset m d (addr % 2 ^ 50) with
  | .store r reach a => some (r, reach, a)
  | _ => none

/-! ### Guard space (R392, R393, R395, R396) -/

/-- The frame of this package that carries a guard number. -/
def frameOfGuard (d : Dp) (g : Nat) : Option Nat := (d.store.frames.find? (·.guard = some g)).map (·.frame)

/-- The packages that a part of guard space is served to, with the spares that serve in their places (R392, Table 5). -/
def guardServed (m : Mgt) (kind : Nat) : List Nat :=
  let role := fun (r : Nat) => ((m.map.map (·.lease)).getD []).filter (·.1 = r) |>.map (·.2.2)
  let ids := if kind = 0xC then role 1 else if kind = 0xD || kind = 0xE then role 2 else role 1 ++ role 2
  ids ++ ids.filterMap fun k => (m.route k).map (·.server)

/-- An alias read: the memory value of a guarded line; it holds the frame for its source (R395). -/
def aliasRead (m : Mgt) (q : Msg) (f at_ : Nat) (d : Dp) : Dp :=
  let l := at_ / 64
  let held := d.coh.trackers.any fun t => t.cause ≠ 1 && (match storePlace m d (t.line * 64) with | some (_, _, a) => decide (a / 64 = l) | none => false)
  if held || d.fab.whist.holds.any (fun h => h.1 = f && h.2.1 ≠ q.source) then waitHome .daras q d
  else if frameFailed m d f then refuse m q 0x60 0x05 (((frameRegion m f).map (·.id)).getD 0xFFFFFFFF) d
  else
    let bad : Bool := l ∈ d.store.poison
    let w := d.fab.whist
    let d := if w.holds.any (·.1 = f) then d else { d with fab := { d.fab with whist := { w with holds := w.holds ++ [(f, q.source, m.clk.ltb)] } } }
    send m { answerMsg q m.self 0x60 0 (if bad then ((frameRegion m f).map (·.id)).getD 0xFFFFFFFF else 0) (rawLine d at_) with poison := bad } d

/-- Guard data as stored: a mirror, image or metadata copy is replaced, a parity is folded into. -/
def guardStore (kind off : Nat) (data : Bytes) (mask : Nat) (poison : Bool) (d : Dp) : Dp :=
  let old := rawLine d off
  let bad : Bool := off / 64 ∈ d.store.poison
  let fold : Bool := kind = 0xD || kind = 0xE
  let new := if fold then xorBytes old (fit 64 data) else mergeMask old data mask
  let p : Bool := poison || (bad && (fold || mask ≠ fullMask))
  let d := setRaw off new d
  { d with store := { d.store with
      poison := if p then addNew d.store.poison (off / 64) else d.store.poison.filter (· ≠ off / 64) } }

/-- A Daras request to guard space (R392, R395, R396). -/
def arriveGuard (m : Mgt) (q : Msg) (d : Dp) : Dp :=
  let off := q.addr % 2 ^ 50
  let kind := off / 2 ^ 44
  let no := fun (status : Nat) => refuse m q (answerCode q.opcode) status (if status = 0x05 then 0xFFFFFFFF else 0) d
  if q.source ∉ guardServed m kind then no 0x01
  else if kind = 8 then
    match q.opcode, frameOfGuard d (off % 2 ^ 44 / 65536) with
    | 0x05, some f => aliasRead m q f (f * 65536 + off % 65536) d
    | 0x05, none => reply m q 0x60 0 0 (zeros 64) d
    | 0x07, f =>
      if q.arg = 0 then
        let w := d.fab.whist
        reply m q 0x58 0 0 [] { d with fab := { d.fab with whist := { w with holds := w.holds.filter fun h => !(some h.1 = f && h.2.1 = q.source) } } }
      else no 0x01
    | _, _ => no 0x01
  else if kind < 0xC then no 0x01
  else match q.opcode with
    | 0x05 =>
      let bad : Bool := off / 64 ∈ d.store.poison
      send m { answerMsg q m.self 0x60 0 (if bad then 0xFFFFFFFF else 0) (rawLine d off) with poison := bad } d
    | 0x06 =>
      if d.fab.whist.verdicts.any (·.1 = q.source) then no 0x05
      else reply m q 0x58 0 0 [] (guardStore kind off q.payload fullMask q.poison d)
    | 0x07 =>
      if kind = 0xD || kind = 0xE then no 0x01
      else if d.fab.whist.verdicts.any (·.1 = q.source) then no 0x05
      else reply m q 0x58 0 0 [] (guardStore kind off q.payload q.arg q.poison d)
    | _ => no 0x01

/-! ### Requests that find no place -/

/-- A request whose place has gone, such as a view that closed while it waited: reads answer poison, writes are refused (R76, R349). -/
def unplaced (m : Mgt) (via : Via) (q : Msg) (d : Dp) : Dp :=
  match via with
  | .task id => if id ≥ groupBase then groupDone m id 0x01 0 d else taskDone id 0x01 0 d
  | .host p =>
    match kindOf m via q with
    | .write => if q.origin = 1 then hostAnswer m p.val q.txn 0 [] q.partition q.bwClass d else d
    | _ => deliverHost m p.val (q.addr / 64) (zeros 64) (some 0xFFFFFFFF) d
  | .daras =>
    match kindOf m via q with
    | .wb => serveWb m q d
    | .write => refuse m q 0x58 0x01 0 d
    | .atomic => refuse m q (answerCode q.opcode) 0x01 0 d
    | _ => send m { answerMsg q m.self 0x60 0 0xFFFFFFFF (zeros 64) with poison := true } d

/-- A write that waited while its view became read-only is discarded, or answered ACCESS (R537). -/
def readOnlyNow (m : Mgt) (via : Via) (q : Msg) (region : Nat) (d : Dp) : Dp :=
  match via with
  | .task id => if id ≥ groupBase then groupDone m id 0x01 region d else taskDone id 0x00 region d
  | .host p =>
    let d := logEvent m 1 7 6 (some q.partition) 0 0 q.addr [region, p.val] d
    if q.origin = 1 then hostAnswer m p.val q.txn 0 [] q.partition q.bwClass d else d
  | .daras => refuse m q (answerCode q.opcode) 0x01 0 d

/-- A request that has passed its checks reaches the home, for the first time or after it waited. -/
def arriveAt (m : Mgt) (via : Via) (q : Msg) (d : Dp) : Dp :=
  match placeOffset m d (q.addr % 2 ^ 50) with
  | .store r (.view s) a =>
    let local_ : Bool := match via with | .task id => id < groupBase | _ => false
    if changes (kindOf m via q) q && !viewWritable d r s && !(local_ && viewClosing d r s) then readOnlyNow m via q r d
    else arrive m via q r (.view s) a d
  | .store r reach a => arrive m via q r reach a d
  | .guard => if via = .daras then arriveGuard m q d else unplaced m via q d
  | _ => unplaced m via q d

/-! ### Answers to snoops -/

/-- A tracker whose snoops and guard writes are all answered is finished: its request is served, its eviction frees the entry, or its change is acknowledged. -/
def finishTracker (m : Mgt) (t : Tracker) (d : Dp) : Dp :=
  let d := { d with coh := { d.coh with trackers := d.coh.trackers.erase t } }
  match t.cause with
  | 0 => match storePlace m d t.req.addr with
    | some (r, _, a) => serve m t.via t.req r a t.supplied d
    | none => d
  | 1 => if t.supplied then d else match storePlace m d t.req.addr with
    | some (r, _, a) => supply m t.via t.req r (readLine m d r a).1 (readLine m d r a).2 d
    | none => d
  | 2 => dropEntry t.line d
  | 3 => dropEntry t.line d
  | 4 => match storePlace m d t.req.addr with
    | some (r, _, _) =>
      acknowledge m t.via { t.req with status := 0 } r ⟨[], false, true, t.req.status, t.req.arg, t.req.payload⟩ d
    | none => acknowledge m t.via { t.req with status := 0 } 0xFFFFFFFF ⟨[], false, true, t.req.status, t.req.arg, t.req.payload⟩ d
  | _ => d

/-- Is nothing left for a tracker to wait for? A COMPLETE or write-back still to come keeps it. -/
def Tracker.settled (t : Tracker) : Bool := t.snoops.isEmpty && t.guards.isEmpty && t.complete.isNone && t.cause ≠ 5

/-- Finish every tracker of a line that has nothing left to wait for. -/
def finishLine (m : Mgt) (line : Nat) (d : Dp) : Dp :=
  (d.coh.trackers.filter fun t => t.line = line && t.settled).foldl (fun d t => finishTracker m t d) d

/-- A holder has answered its snoop: it is struck from the tracker, and from the entry where its copy is gone. -/
def snoopAnswered (m : Mgt) (line : Nat) (h : Holder) (gone supplied : Bool) (d : Dp) : Dp :=
  let hit := fun (t : Tracker) => t.line = line && t.snoops.any (·.holder = h)
  match d.coh.trackers.find? hit with
  | none => d
  | some t =>
    let t' := { t with snoops := t.snoops.filter (·.holder ≠ h), supplied := t.supplied || supplied }
    let d := { d with coh := { d.coh with trackers := d.coh.trackers.map fun x => if x = t then t' else x } }
    let d := if gone && t.cause ≠ 1 then removeHolder line h d else d
    finishLine m line d

/-- An owner's data reaches its home: memory takes it, and the guards after it (R137, R393). -/
def takeData (m : Mgt) (line : Nat) (data : Bytes) (poison : Bool) (d : Dp) : Dp :=
  match storePlace m d (line * 64) with
  | none => d
  | some (r, reach, a) =>
    match needsCopy d r reach (frameIndex m r reach (line * 64)) with
    | some (slot, _) => logEvent m 1 7 6 none 0 0 (m.homeId * 2 ^ 50 + line * 64) [r, 255] (spoilDraft r slot d)
    | none =>
    let g := applyChange m r a data poison (((m.region r).map (·.partition)).getD 0) 0 d
    if g.1.isEmpty then g.2
    else
      let hit := fun (t : Tracker) => t.line = line && t.cause ≠ 1
      match g.2.coh.trackers.find? hit with
      | some t => { g.2 with coh := { g.2.coh with trackers := g.2.coh.trackers.map fun x => if x = t then { t with guards := t.guards ++ g.1 } else x } }
      | none => { g.2 with coh := { g.2.coh with trackers := g.2.coh.trackers ++ [⟨line, .daras, { (default : Msg) with addr := line * 64 }, [], none, g.1, none, false, 6⟩] } }

/-- A snoop or FWD ends without its answer (R141): an owned line is poisoned, the holder leaves the entry, and the event is logged and counted. -/
def snoopEnds (m : Mgt) (line : Nat) (h : Holder) (d : Dp) : Dp :=
  match d.coh.trackers.find? fun t => t.line = line && t.snoops.any (·.holder = h) with
  | none => d
  | some t =>
    let kind := ((t.snoops.find? (·.holder = h)).map (·.kind)).getD .inv
    let owned := t.cause = 1 || ((d.entry line).map fun e => e.owned && h ∈ e.holders m).getD false
    let d := countNamed 8 d
    let kk := match h with | .cluster _ => 0 | .host _ => 1 | .pkg _ => 2
    let sk := match kind with | .inv => 0 | .share => 1 | .cur => 2 | .fwd => 3
    let d := logEvent m 3 8 1 none (match h with | .pkg k => k | _ => 0) 0 (m.homeId * 2 ^ 50 + line * 64) [kk, sk] d
    let d := match owned, storePlace m d (line * 64) with
      | true, some (r, _, a) =>
        let l := readLine m d r a
        (applyChange m r a l.1 true (((m.region r).map (·.partition)).getD 0) 0 d).2
      | _, _ => d
    snoopAnswered m line h true false d

/-- Every request that waits at the home tries again, in order of arrival. -/
def retryHome (m : Mgt) (d : Dp) : Dp :=
  let ws := d.coh.waiting
  ws.foldl (fun d w => arriveAt m w.1 w.2 d) { d with coh := { d.coh with waiting := [] } }

/-- Snoops that waited for a BISnp credit go out when one is free (R139). -/
def retrySnoops (m : Mgt) (d : Dp) : Dp :=
  let ts := d.coh.trackers
  ts.foldl (fun d t =>
    if t.snoops.all (·.sent) then d
    else
      let r := sendSnoops m t { d with coh := { d.coh with trackers := d.coh.trackers.filter (· ≠ t) } }
      { r.2 with coh := { r.2.coh with trackers := r.2.coh.trackers ++ [r.1] } }) d

/-- Change this package's own copy of a line of another package (R122). -/
def ownCopy (line : Nat) (data : Bytes) (mask : Nat) (d : Dp) : Dp :=
  { d with coh := { d.coh with remote := modWhere d.coh.remote (fun x => x.line = line && !x.writeback) fun x =>
      { x with data := mergeMask x.data data mask, state := 3, poison := if mask = fullMask then none else x.poison } } }

/-- A request to hold a line that this package has come to hold meanwhile is served from its own copy. -/
def serveOwn (t : Txn) (d : Dp) : Option Dp :=
  let line := t.msg.addr / 64
  match d.coh.remote.find? fun x => x.line = line && !x.writeback with
  | none => none
  | some x =>
    let gone := { d with coh := { d.coh with txns := d.coh.txns.erase t } }
    match t.via, t.msg.payload.isEmpty with
    | .task id, true => if cachedKind t.msg then some (deliverTask id ⟨line, x.data, x.poison⟩ gone) else none
    | .task id, false => if cachedKind t.msg && x.state ≥ 2 then some (taskDone id 0 0 (ownCopy line t.msg.payload t.msg.arg gone)) else none
    | _, _ => none

/-- Epochs this package holds (R359). -/
def Mgt.epochs (m : Mgt) : List Nat :=
  (m.comp.stamp :: (if m.comp.switched then [(m.comp.stamp + 255) % 256] else []) ++ m.comp.maps.map (·.epoch)).eraseDups

/-- The package that serves an identifier under an epoch. -/
def Mgt.serverUnder (m : Mgt) (epoch id : Nat) : Nat :=
  (((m.comp.maps.find? (·.epoch = epoch)).bind fun r => r.routes.find? (·.id = id)).map (·.server)).getD id

/-- Requests held back for an older request, an epoch or a lost package go out when nothing holds them (R355, R361, R387). -/
def releaseHeld (m : Mgt) (d : Dp) : Dp :=
  d.coh.heldHome.foldl (fun d q =>
    let rest := { d with coh := { d.coh with heldHome := d.coh.heldHome.erase q } }
    match d.coh.txns.find? fun t => t.txn = q.txn && !t.dead with
    | none => rest
    | some t =>
      let older := d.coh.txns.any fun x => x.via = t.via && !x.dead && x.txn ≠ t.txn && x.msg.addr / 64 = q.addr / 64 && x.msg.epoch ≠ q.epoch && x.since ≤ t.since
      let epoch := if q.redirected then q.epoch else m.comp.stamp
      let target := m.serverUnder epoch (q.addr / 2 ^ 50)
      if lostPkg m d target || older || portFull m q d || lineAsked d q (some q.txn) || epoch ∉ m.epochs then d
      else match serveOwn t rest with
        | some d => d
        | none => send m { q with target := target, epoch := epoch } rest) d

/-- Since when each task's own request waits at a home of this package. -/
def stampWaits (m : Mgt) (d : Dp) : Dp :=
  let tasksOf := fun (v : Via) (q : Msg) => match v with | .task id => [(id, q.addr / 64)] | _ => []
  let now := ((d.coh.waiting.flatMap fun w => tasksOf w.1 w.2) ++ (d.coh.trackers.filter (·.cause ≠ 4)).flatMap fun t => tasksOf t.via t.req).eraseDups
  let old := fun (k : Nat × Nat) => (d.coh.stamps.find? fun s => s.1 = k.1 && s.2.1 = k.2).map (·.2.2)
  { d with coh := { d.coh with stamps := now.map fun k => (k.1, k.2, (old k).getD m.clk.ltb) } }

/-- What follows every step at the home: waiting snoops, requests and held messages move on. -/
def settle (m : Mgt) (d : Dp) : Dp := stampWaits m (releaseHeld m (retryHome m (retrySnoops m d)))

end Sys2Proof.Machine
end

