-- ==== Sys2Proof/Machine/Access.lean ====
section
/-! DEFINITION. How a running task reads and writes the pool: its own package's lines through their home, other packages' lines over Daras, and host memory through outbound windows (chapters "Memory model", "Translation and pointers", "Coherence across hosts, engines and packages"). A task that must wait stops with `stall`; its operation is run again when what it waits for has come. -/

namespace Sys2Proof.Machine

/-- Why an operation stops before its end: something has not come yet, or the task has its result. -/
inductive Stop where
  | stall
  | hold
  | done (r : Result)
  deriving DecidableEq, Repr

/-- A task's operation: it changes the data plane and may stop. -/
abbrev Acc := ExceptT Stop (StateM Dp)

/-- Change the data plane. -/
def act (f : Dp → Dp) : Acc Unit := modify f

/-- End the task with a status and detail. -/
def failWith {α : Type} (status detail : Nat) : Acc α := throw (.done ⟨status, detail, 0, 0, 0⟩)

/-- Wait on the engine, its context still running (R173, stall reasons of the engine's own units). -/
def hold {α : Type} : Acc α := throw .hold

/-- Wait. -/
def stall {α : Type} : Acc α := throw .stall

/-! ### Host-mapped space (R61 to R70) -/

/-- The outbound window that holds an address of this package. -/
def outWindow (m : Mgt) (addr : Nat) : Option Window :=
  m.windows.find? fun w => w.outbound && w.poolBase ≤ addr && addr < w.poolBase + w.lengthGib * 2 ^ 30

/-- The page size of a window (R57, HOP.WIN_PAGE). -/
def Window.pageBytes (w : Window) : Nat := if w.page = 1 then 2 ^ 25 else 2 ^ 30

/-- An address lies in this package's host-mapped space (R61). -/
def hostMapped (m : Mgt) (addr : Nat) : Bool := addr / 2 ^ 50 = m.self && bitAt addr 49

/-- The whole of an operand in host-mapped space must lie in one outbound window of the task's partition (R61, R62, R64). -/
def checkWindow (m : Mgt) (part addr n : Nat) : Acc Unit :=
  if hostMapped m addr && n > 0 then
    match outWindow m addr with
    | none => failWith 0x24 0x01
    | some w =>
      if w.partition ≠ part then failWith 0x24 0x06
      else if addr + n > w.poolBase + w.lengthGib * 2 ^ 30 then failWith 0x24 0x05
      else pure ()
  else pure ()

/-- An invalidation in progress covers a page (R69, R70). -/
def invalidating (d : Dp) (port page size : Nat) : Bool :=
  d.hosts.invals.any fun v => v.port = port && v.base < page + size && page < v.base + v.bytes

/-- Ask the translation agent for a page; misses to one page are merged, and at most 64 requests are outstanding per port (R66, R70). -/
def askPage (tick port page size cluster task : Nat) (d : Dp) : Dp :=
  let same := fun (r : XltReq) => r.port = port && r.page = page && r.bytes = size
  if d.hosts.reqs.any same then
    { d with hosts := { d.hosts with reqs := modWhere d.hosts.reqs same fun r => { r with clusters := addNew r.clusters cluster, tasks := addNew r.tasks task } } }
  else
    let free := (d.hosts.reqs.filter fun r => r.port = port && r.sent).length < 64
    let go := free && !invalidating d port page size && (d.lease port).state ≠ 2
    let d := { d with hosts := { d.hosts with reqs := d.hosts.reqs ++ [⟨port, page, size, [cluster], [task], go, tick⟩] } }
    if go then emit (.atsRequest port page size) d else d

/-- The host translated address of an address in host-mapped space, from the cluster's translation cache (R65, R66, R68, R70). -/
def translate (m : Mgt) (id addr : Nat) (write : Bool) : Acc (Nat × Nat × Nat) := do
  let d ← get
  match d.task id, outWindow m addr with
  | some t, some w =>
    let size := w.pageBytes
    let u := addr - w.poolBase + w.hostBase
    let page := u / size * size
    if !(d.hostPort w.port).ats then failWith 0x24 0x07
    else if invalidating d w.port page size then
      act (askPage m.clk.ltb w.port page size t.cluster id); stall
    else match d.hosts.caches.find? fun x => x.cluster = t.cluster && x.port = w.port && x.page = page && x.bytes = size with
      | some x =>
        if (if write then x.write else x.read) then
          act fun d => { d with hosts := { d.hosts with uses := d.hosts.uses + 1, caches := modWhere d.hosts.caches (· = x) fun y => { y with used := d.hosts.uses } } }
          pure (w.port, x.base + u % size, page)
        else failWith 0x24 0x02
      | none => act (askPage m.clk.ltb w.port page size t.cluster id); stall
  | _, _ => failWith 0x24 0x01

/-- Send one outbound read of a line of host memory under a tag of its own; at most 1,024 are outstanding per port (R320). -/
def hostReadLine (m : Mgt) (id port host page line : Nat) (flush : Bool) (d : Dp) : Dp :=
  if d.hosts.reads.any fun r => r.task = id && r.line = line && r.flush = flush && (!r.drained || r.lost) then d
  else if (d.hosts.reads.filter fun r => r.port = port && !r.lost).length ≥ 1024 then d
  else
    let tag := (d.hostPort port).nextTag
    let d := modPort port (fun p => { p with nextTag := (p.nextTag + 1) % 16384 }) d
    let t := (d.task id).getD default
    let d := hostMoved port t.part t.cls 64 d
    emit (.hostRead port tag host 64) { d with hosts := { d.hosts with reads := d.hosts.reads ++ [⟨port, tag, id, line, page, flush, false, false, m.clk.ltb⟩] } }

/-! ### Reading -/

/-- The Daras code of a cluster store's load or of a stream's read, under the package's coherence mode (R123, R136). -/
def readCode (m : Mgt) (cached : Bool) : Nat := if cached then (if m.pkg.ownerOrdered then 0x03 else 0x01) else 0x05

/-- One outstanding access more. -/
def oneMore (id : Nat) (d : Dp) : Dp := modTask id (fun t => { t with outstanding := t.outstanding + 1 }) d

/-- A frame that a failed device held and no guard replaces is lost to every access (R47). -/
def deadFrame (m : Mgt) (d : Dp) (region at_ : Nat) : Bool :=
  frameFailed m d (at_ / 65536) && ((m.region region).map (·.guard)).getD 0 = 0

/-- A request on a task's behalf to another package, or to the loop; a loop that is not up fails it at once (R345). -/
def askRemote (m : Mgt) (id : Nat) (q : Msg) : Acc Unit := do
  let d ← get
  if m.pkg.loopEnable && q.target = m.pkg.loopId && (openPorts m d q.epoch q.target).isEmpty then failWith 0x25 q.target
  else act fun d => issue m (.task id) q (oneMore id d)

/-- The bytes of one line for a task, or none where they have been asked for and have not come (R36, R123, R132, R142). -/
def loadLine (m : Mgt) (id : Nat) (cached : Bool) (addr : Nat) (tag : Nat := 0) : Acc (Option Arrived) := do
  let d ← get
  let line := addr / 64
  match d.task id with
  | none => stall
  | some t =>
    match t.arrived.find? (·.line = line) with
    | some a => pure (some a)
    | none =>
      if m.serves (addr / 2 ^ 50) && addr / 2 ^ 50 ≠ m.pkg.loopId || addr / 2 ^ 50 = m.self then
        match placeOffset m d (addr % 2 ^ 50) with
        | .store r reach a =>
          if regionDead m d r || deadFrame m d r a then failWith 0x21 r
          else
            let q := m.newMsg (readCode m cached) m.self t.part t.cls (line * 64) 0 []
            act fun d => arrive m (.task id) q r reach a (oneMore id d)
            let d ← get
            pure ((d.task id).bind fun t => t.arrived.find? (·.line = line))
        | .hostMapped =>
          checkWindow m t.part (line * 64) 64
          let x ← translate m id (line * 64) false
          act (hostReadLine m id x.1 x.2.1 x.2.2 line false)
          pure none
        | .freeView r => failWith 0x20 r
        | .beyondView r => failWith 0x20 r
        | .post => failWith 0x20 0xFFFFFFFF
        | _ => failWith 0x24 0x06
      else
        match d.coh.remote.find? fun x => x.line = line && !x.writeback with
        | some x => pure (some ⟨line, x.data, x.poison⟩)
        | none =>
          let tgt := addr / 2 ^ 50
          if d.coh.txns.any fun x => x.via = .task id && x.msg.addr / 64 = line && !x.dead && x.msg.opcode ≤ 0x05 && x.msg.payload.isEmpty then pure none
          else
            askRemote m id { m.newMsg (readCode m cached) tgt t.part t.cls (line * 64) 0 [] with combine := tag }
            pure none

/-- The lines that hold `n` bytes from an address. -/
def linesOf (addr n : Nat) : List Nat := if n = 0 then [] else (List.range ((addr + n - 1) / 64 - addr / 64 + 1)).map fun i => (addr / 64 + i) * 64

/-- Lines read for a task: all are asked for before any is waited for, and a poisoned one ends the task (R142). -/
def loadLines (m : Mgt) (id : Nat) (cached : Bool) (lines : List Nat) (tag : Nat := 0) : Acc (List Bytes) := do
  let got ← lines.mapM fun a => loadLine m id cached a tag
  if got.any (·.isNone) then stall
  else
    match (lines.zip got).find? fun x => (x.2.bind (·.poison)).isSome with
    | some x =>
      let r := (x.2.bind (·.poison)).getD 0xFFFFFFFF
      act (logEvent m 3 8 1 none 0 0 x.1 [3, 0])
      failWith 0x20 r
    | none => pure (got.map fun g => (g.map (·.data)).getD [])

/-- A stretch that a stream under policy FAIL finds on a failed frame ends its task at once (R52). -/
def streamCheck (m : Mgt) (id addr n : Nat) : Acc Unit := do
  let d ← get
  let t := (d.task id).getD default
  let frames := (linesOf addr n).filterMap fun a => match place m d a with | .store _ _ x => some (x / 65536) | _ => none
  if t.latePolicy = 2 && frames.eraseDups.any (frameFailed m d) then failWith 0x23 (regionOf m d addr) else pure ()

/-- `n` bytes of the pool read for a task. -/
def load (m : Mgt) (id : Nat) (cached : Bool) (addr n : Nat) : Acc Bytes := do
  let ls ← loadLines m id cached (linesOf addr n)
  pure (((ls.flatten).drop (addr % 64)).take n)

/-! ### Writing -/

/-- The pieces of a write, one for each line: address, 64 bytes and byte mask (R108). -/
def pieces (addr : Nat) (data : Bytes) : List (Nat × Bytes × Nat) :=
  (linesOf addr data.length).map fun l =>
    let lo := max addr l
    let hi := min (addr + data.length) (l + 64)
    (l, zeros (lo - l) ++ slice data (lo - addr) (hi - lo) ++ zeros (l + 64 - hi), 2 ^ (hi - l) - 2 ^ (lo - l))

/-- One piece of a task's write leaves its agent. `cached` tells an engine's store from a stream's. -/
def storePiece (m : Mgt) (id : Nat) (cached : Bool) (p : Nat × Bytes × Nat) : Acc Unit := do
  let d ← get
  let tgt := p.1 / 2 ^ 50
  match d.task id with
  | none => stall
  | some t =>
    let code := if cached then (if m.pkg.ownerOrdered then 0x04 else 0x02) else if p.2.2 = fullMask then 0x06 else 0x07
    act fun d => modTask id (fun t => { t with written := addNew t.written (p.1 / 64) }) d
    if m.serves tgt && tgt ≠ m.pkg.loopId || tgt = m.self then
      match placeOffset m d (p.1 % 2 ^ 50) with
      | .store r reach a =>
        if regionDead m d r || deadFrame m d r a then failWith 0x21 r
        else
          let ok : Bool := match reach with | .plain => true | .head => false | .view s => viewWritable d r s || ((d.snap r).bind (·.view s)).any (·.closing.isSome)
          if ok then act fun d => arrive m (.task id) (m.newMsg code m.self t.part t.cls p.1 p.2.2 p.2.1) r reach a (oneMore id d)
          else pure ()
      | .hostMapped =>
        checkWindow m t.part p.1 64
        let x ← translate m id p.1 true
        let set := (List.range 64).filter (bitAt p.2.2)
        act fun d =>
          let d := hostMoved x.1 t.part t.cls set.length d
          emit (.hostWrite x.1 (x.2.1 + set.head?.getD 0) (set.map fun i => p.2.1.getD i 0))
            { d with hosts := { d.hosts with flushDue := addNew d.hosts.flushDue (id, x.1) } }
      | _ => failWith 0x24 0x06
    else if cached && d.coh.remote.any fun x => x.line = p.1 / 64 && x.state ≥ 2 && !x.writeback then
      act (ownCopy (p.1 / 64) p.2.1 p.2.2)
    else askRemote m id (m.newMsg code tgt t.part t.cls p.1 p.2.2 p.2.1)

/-- Token vectors posted to an inbox: to another package as TOKEN_POSTs of at most 128 B (R221, R352). -/
def postTokens (m : Mgt) (id addr : Nat) (data : Bytes) : Acc Unit := do
  let tgt := addr / 2 ^ 50
  if m.serves tgt && tgt ≠ m.pkg.loopId || tgt = m.self then (pieces addr data).forM (storePiece m id false)
  else (List.range (ceilDiv data.length 128)).forM fun i => do
    let d ← get
    let t := (d.task id).getD default
    askRemote m id (m.newMsg 0x21 tgt t.part t.cls (addr + 128 * i) 0 (slice data (128 * i) 128))

/-- Bytes written to the pool for a task; its writes are posted and counted until they are performed (R117). -/
def store (m : Mgt) (id : Nat) (cached : Bool) (addr : Nat) (data : Bytes) : Acc Unit := do
  (pieces addr data).forM (storePiece m id cached)

/-- Output addresses in host-mapped space are translated before the first write of an operation, so that a wait never falls between its writes (R70). -/
def readyOutput (m : Mgt) (id addr n : Nat) : Acc Unit := do
  let d ← get
  let part := (d.task id).map (·.part) |>.getD 0
  checkWindow m part addr n
  if hostMapped m addr && n > 0 then
    match outWindow m addr with
    | some w =>
      let first := (addr - w.poolBase + w.hostBase) / w.pageBytes
      let last := (addr + n - 1 - w.poolBase + w.hostBase) / w.pageBytes
      (List.range (last - first + 1)).forM fun i => do
        let _ ← translate m id (if i = 0 then addr else (first + i) * w.pageBytes - w.hostBase + w.poolBase) true
        pure ()
    | none => pure ()
  else pure ()

/-- A request to a home atomic unit on a task's behalf (R123, R347); `group` marks the burst of an add within the package (R292). -/
def postAtomic (m : Mgt) (id opcode addr arg : Nat) (payload : Bytes) (combine : Nat) (group : Nat := 0) : Acc Unit := do
  let d ← get
  let tgt := addr / 2 ^ 50
  match d.task id with
  | none => stall
  | some t =>
    let q := { m.newMsg opcode tgt t.part t.cls addr arg payload with combine := combine }
    if m.serves tgt && tgt ≠ m.pkg.loopId || tgt = m.self then
      match placeOffset m d (addr % 2 ^ 50) with
      | .store r reach a =>
        if regionDead m d r || deadFrame m d r a then failWith 0x21 r
        else
          let ok : Bool := match reach with | .plain => true | .head => false | .view s => viewWritable d r s || ((d.snap r).bind (·.view s)).any (·.closing.isSome)
          if ok then act fun d => arrive m (.task id) { q with txn := group } r reach a (oneMore id d) else pure ()
      | _ => failWith 0x24 0x06
    else askRemote m id q

/-! ### Running an operation -/

/-- The context of a task. -/
def Dp.ctxOf (d : Dp) (id : Nat) : Option Ctx := d.tasks.ctxs.find? (·.task = id)

/-- Change the context of a task. -/
def modCtx (id : Nat) (f : Ctx → Ctx) (d : Dp) : Dp :=
  { d with tasks := { d.tasks with ctxs := modWhere d.tasks.ctxs (·.task = id) f } }

/-- The oldest READY context of an engine runs where none does (R177, R178): `since` is the tick it became READY. -/
def selectCtx (m : Mgt) (engine : Nat) (d : Dp) : Dp :=
  if d.tasks.ctxs.any fun c => c.engine = engine && c.state = .running then d
  else match minBy (·.since) (d.tasks.ctxs.filter fun c => c.engine = engine && c.state = .ready) with
    | none => d
    | some c =>
      let d := modCtx c.task (fun c => { c with state := .running, since := m.clk.ltb }) d
      modTask c.task (fun t => if t.state = .waitContext then { t with state := .running } else t) d

/-- A task that stalls leaves its engine to the next context (R178). -/
def stallTask (m : Mgt) (id : Nat) (d : Dp) : Dp :=
  let d := modTask id (fun t => if t.result.isSome then t else { t with state := .waitRemote }) d
  match d.ctxOf id with
  | none => d
  | some c => selectCtx m c.engine (modCtx id (fun c => { c with state := .waiting, since := m.clk.ltb }) d)

/-- A task's result is reached: lines it gathered are let go. -/
def concludeTask (id : Nat) (r : Result) (d : Dp) : Dp := modTask id (fun t => { t with arrived := [] }) (finish id r d)

/-- Run a task's operation: it ends with a result, or it waits. -/
def runTask (m : Mgt) (id : Nat) (a : Acc Result) (d : Dp) : Dp :=
  match a.run.run d with
  | (.ok r, d) => concludeTask id r d
  | (.error (.done r), d) => concludeTask id r d
  | (.error .stall, d) => stallTask m id d
  | (.error .hold, d) => d

/-- Run a part of an operation that has more parts to come. -/
def runPart (m : Mgt) (id : Nat) (a : Acc Unit) (d : Dp) : Dp :=
  match a.run.run d with
  | (.ok _, d) => d
  | (.error (.done r), d) => concludeTask id r d
  | (.error .stall, d) => stallTask m id d
  | (.error .hold, d) => d

/-- A task of an opcode that is running and has no result. -/
def runningTask (d : Dp) (id : Nat) (ops : List Nat) : Option Task :=
  (d.task id).filter fun t => t.state = .running && t.result.isNone && t.opcode ∈ ops

end Sys2Proof.Machine
end

