-- ==== Sys2Proof/Machine/Codec.lean ====
section
/-! DEFINITION. The Cocoon codec: blocks, descriptors, checks, what a block expands to, coarse codes, and the encoder (chapter "The Cocoon codec"). -/

namespace Sys2Proof.Machine

/-! ### Blocks and descriptors -/

/-- A block header (R240, Table 1). -/
structure BlockHead where
  stages : Nat
  outliers : Nat
  expanded : Nat
  length : Nat
  seq : Nat
  crcField : Nat
  tag : Nat
  reserved : Bool
  deriving DecidableEq, Repr, Inhabited

/-- Read a block header from its 16 bytes. -/
def blockHead (b : Bytes) : BlockHead where
  stages := fieldAt b 0 63 61
  outliers := fieldAt b 0 59 48
  expanded := fieldAt b 0 47 36
  length := fieldAt b 0 31 16
  seq := fieldAt b 0 15 0
  crcField := fieldAt b 1 63 48
  tag := fieldAt b 1 47 16
  reserved := bitAt (wordAt b 0) 60 || fieldAt b 0 35 32 ≠ 0 || fieldAt b 1 15 0 ≠ 0

/-- The 16 bytes of a header whose CRC is given (R240). -/
def headBytes (stages outliers expanded length seq tag crcv : Nat) : Bytes :=
  wordsBytes [stages * 2 ^ 61 + outliers * 2 ^ 48 + expanded * 2 ^ 36 + length * 2 ^ 16 + seq, crcv * 2 ^ 48 + tag * 2 ^ 16]

/-- A block's CRC: header bytes 0 to 13 and every body byte (R240). -/
def blockCrc (b : Bytes) : Nat := crc 0x04 (b.take 14 ++ b.drop 16)

/-- A coded-tensor descriptor (R241, Table 2). -/
structure Dsc where
  addr : Nat
  tag : Nat
  table : Nat
  books : Nat
  values : Nat
  format : Nat
  booksN : Nat
  big : Nat
  dim8 : Bool
  deriving DecidableEq, Repr, Inhabited

/-- The fields of a descriptor's 64 bytes. -/
def dscFields (addr : Nat) (b : Bytes) : Dsc where
  addr := addr
  tag := (blockHead b).tag
  table := wordAt b 2
  books := wordAt b 3
  values := wordAt b 4
  format := fieldAt b 5 63 56
  booksN := fieldAt b 5 55 52
  big := fieldAt b 5 51 48
  dim8 := bitAt (wordAt b 5) 47

/-- Values in a vector. -/
def Dsc.dim (x : Dsc) : Nat := if x.dim8 then 8 else 4

/-- Entries of the codebook of stage s, from 1 (R241, COC.DSC_BIG). -/
def Dsc.entries (x : Dsc) (s : Nat) : Nat := if bitAt x.big (s - 1) then 4096 else 256

/-- Bytes of the codebook of stage s in the set: each begins on a 64-byte boundary (R243). -/
def Dsc.bookBytes (x : Dsc) (s : Nat) : Nat := roundUp (2 * x.dim * x.entries s) 64

/-- Where the codebook of stage s begins in the set. -/
def Dsc.bookAt (x : Dsc) (s : Nat) : Nat := ((List.range (s - 1)).map fun i => x.bookBytes (i + 1)).sum

/-- Blocks of the tensor (R242). -/
def Dsc.blocks (x : Dsc) : Nat := ceilDiv x.values 2048

/-- Values of block i (R244). -/
def Dsc.valuesOf (x : Dsc) (i : Nat) : Nat := min 2048 (x.values - 2048 * i)

/-- Bytes of a stage area for V vectors (R245). -/
def stageArea (big : Bool) (v : Nat) : Nat := roundUp (if big then 3 * ceilDiv v 2 else v) 16

/-- Bytes of a raw body of E values (R247). -/
def rawBody (f e : Nat) : Nat := roundUp (elemBytes f e) 16 + (if fmtMx f then roundUp (ceilDiv e 32) 16 else 0)

/-- The length that R245 or R247 gives for a header's fields. -/
def Dsc.lengthFor (x : Dsc) (h : BlockHead) : Nat :=
  if h.stages = 0 then 16 + rawBody x.format h.expanded
  else
    let v := ceilDiv h.expanded x.dim
    16 + ((List.range h.stages).map fun i => stageArea (bitAt x.big i) v).sum + roundUp (4 * h.outliers) 16

/-- Where the outlier list of a block begins. -/
def Dsc.outliersAt (x : Dsc) (h : BlockHead) : Nat :=
  16 + ((List.range h.stages).map fun i => stageArea (bitAt x.big i) (ceilDiv h.expanded x.dim)).sum

/-- The outlier entries of a block: index and BF16 value, and whether a reserved bit is set (R246). -/
def Dsc.outlierList (x : Dsc) (h : BlockHead) (b : Bytes) : List (Nat × Nat × Bool) :=
  (List.range h.outliers).map fun i =>
    let e := leNat (slice b (x.outliersAt h + 4 * i) 4)
    (bits e 10 0, bits e 31 16, bits e 15 11 ≠ 0)

/-- Indices strictly increase. -/
def rising : List Nat → Bool
  | [] => true
  | [_] => true
  | a :: b :: rest => a < b && rising (b :: rest)

/-- The first check of R250, Table 3, that block i fails; `inPlace` says that the whole block lies in the descriptor's region. -/
def Dsc.check (x : Dsc) (i : Nat) (inPlace : Bool) (b : Bytes) : Option Nat :=
  let h := blockHead b
  let o := x.outlierList h b
  if !inPlace then some 0x08
  else if h.crcField ≠ blockCrc b then some 0x01
  else if h.stages ≥ 5 || h.stages > x.booksN then some 0x02
  else if h.seq ≠ i % 65536 then some 0x03
  else if h.tag ≠ x.tag then some 0x04
  else if h.expanded ≠ x.valuesOf i then some 0x05
  else if h.outliers > h.expanded || (h.stages = 0 && h.outliers ≠ 0) || o.any (fun e => e.1 ≥ h.expanded || e.2.2)
    || !rising (o.map (·.1)) then some 0x06
  else if h.length ≠ x.lengthFor h then some 0x07
  else if h.reserved then some 0x08
  else none

/-! ### Expansion -/

/-- The index of vector v in a stage area (R245). -/
def stageIndex (big : Bool) (area : Bytes) (v : Nat) : Nat :=
  if big then bits (leNat (slice area (3 * (v / 2)) 3)) (12 * (v % 2) + 11) (12 * (v % 2)) else (area.getD v 0).toNat

/-- Entry i of a codebook as FP32 values (R243). -/
def bookEntry (x : Dsc) (books : Bytes) (s i : Nat) : List FVal :=
  (List.range x.dim).map fun j => decodeFloat bf16 (leNat (slice books (x.bookAt s + 2 * x.dim * i + 2 * j) 2))

/-- The summed values of the first `n` stages of a block (R248, step 1). -/
def stageSums (x : Dsc) (books : Bytes) (n : Nat) (h : BlockHead) (b : Bytes) : List FVal :=
  let v := ceilDiv h.expanded x.dim
  let areaAt := fun s => 16 + ((List.range s).map fun i => stageArea (bitAt x.big i) v).sum
  let vec := fun j => (List.range n).foldl (fun (acc : List FVal) s =>
      let idx := stageIndex (bitAt x.big s) (b.drop (areaAt s)) j
      List.zipWith fadd acc (bookEntry x books (s + 1) idx)) (List.replicate x.dim fzero)
  ((List.range v).flatMap vec).take h.expanded

/-- Values converted to an element format under RNE with SAT, as the values they then stand for; an MX format converts block by block (R194, R248). -/
def convertAll (f : Nat) (sat : Bool) (vs : List FVal) : List FVal :=
  if fmtMx f then
    let vs := vs.map (mxSat sat)
    (List.range vs.length).map fun i =>
      let s := mxScale f ((vs.drop (i / 32 * 32)).take 32)
      mxValue f s (mxElem f .rne s (vs.getD i fzero))
  else vs.map fun v => decodeElem f (encodeElem f .rne sat v)

/-- The values of a raw block (R247). -/
def rawValues (f e : Nat) (body : Bytes) : List FVal :=
  let scales := body.drop (roundUp (elemBytes f e) 16)
  (List.range e).map fun i =>
    if fmtMx f then mxValue f ((scales.getD (i / 32) 0).toNat) (elemAt f body i) else decodeElem f (elemAt f body i)

/-- What a sound block expands to (R248, R249). -/
def Dsc.expand (x : Dsc) (books b : Bytes) : List FVal :=
  let h := blockHead b
  if h.stages = 0 then rawValues x.format h.expanded (b.drop 16)
  else
    let o := x.outlierList h b
    let sums := stageSums x books h.stages h b
    let vals := (List.range sums.length).map fun i =>
      match o.find? (·.1 = i) with
      | some e => decodeFloat bf16 e.2.1
      | none => sums.getD i fzero
    convertAll x.format true vals

/-- What a block's coarse code expands to: its stage-1 codes alone (R49, R54). -/
def Dsc.expandCoarse (x : Dsc) (books b : Bytes) : List FVal := convertAll x.format true (stageSums x books 1 (blockHead b) b)

/-- The values a damaged block is filled with: +0 of the format (R251). -/
def fillValues (n : Nat) : List FVal := List.replicate n fzero

/-- The coarse code of a block: its header and stage-1 codes, with a CRC-16 of their own (R49, R254). -/
def Dsc.coarseOf (x : Dsc) (b : Bytes) : Bytes :=
  let h := blockHead b
  let c := b.take (16 + stageArea (bitAt x.big 0) (ceilDiv h.expanded x.dim))
  c ++ natBytes 2 (crc 0x04 c)

/-- A coarse code whose CRC holds. -/
def coarseSound (c : Bytes) : Bool := leNat (c.drop (c.length - 2)) = crc 0x04 (c.take (c.length - 2))

/-! ### Reading a coded tensor for a task -/

/-- The region that holds an address of this package, with its bounds in offsets as the address reaches it. -/
def homeRegion (m : Mgt) (d : Dp) (addr : Nat) : Option (Nat × Nat × Nat) :=
  match place m d addr with
  | .store r reach _ =>
    (m.region r).map fun g => match reach with
      | .view s => (r, g.viewBase + s * g.viewSize, g.viewBase + s * g.viewSize + g.length)
      | _ => (r, g.base, g.base + g.length)
  | _ => none

/-- Do `n` bytes from an address lie in the one region that holds the descriptor (R239)? -/
def inRegion (m : Mgt) (d : Dp) (dsc addr n : Nat) : Bool :=
  match homeRegion m d dsc with
  | some (_, lo, hi) => addr / 2 ^ 50 = dsc / 2 ^ 50 && lo ≤ addr % 2 ^ 50 && addr % 2 ^ 50 + n ≤ hi
  | none => addr / 2 ^ 50 = dsc / 2 ^ 50

/-- A damaged block is logged and counted (R250, R251). -/
def noteDamage (m : Mgt) (code addr : Nat) (d : Dp) : Dp := countNamed 10 (logEvent m 3 3 1 none 0 0 addr [code] d)

/-- An operand format of Table 4 other than FP32 (R241). -/
def matrixOperand (f : Nat) : Bool := fmtBits f ≠ 0 && f ≠ 0x05

/-- Does a descriptor's own block pass its checks (R250, code 0x10)? `stored` is the value count its operand gives. -/
def dscSound (m : Mgt) (d : Dp) (x : Dsc) (stored format : Nat) (b : Bytes) : Bool :=
  let h := blockHead b
  let set := x.bookAt (x.booksN + 1)
  h.crcField = blockCrc b && h.stages = 7 && h.length = 64 && h.outliers = 0 && h.expanded = 0 && h.seq = 0 && !h.reserved
  && x.format = format && x.booksN ≠ 0 && x.booksN ≤ 4 && x.values = stored && x.values ≠ 0
  && inRegion m d x.addr x.addr 64 && inRegion m d x.addr x.table (4 * x.blocks) && inRegion m d x.addr x.books set
  && matrixOperand x.format
  && fieldAt b 5 46 0 = 0 && wordAt b 6 = 0 && wordAt b 7 = 0

/-- Bytes of a cluster's codebook store that sets take (R256). -/
def booksUsed (d : Dp) (cluster : Nat) : Nat := ((d.tasks.books.filter (·.1 = cluster)).map (·.2.2.2.1)).sum

/-- Hold a codebook set for a task: a set that a running task of its partition holds is shared, another takes space of the 2 MiB store; answers false where there is none (R256). -/
def holdSet (id cluster part set bytes : Nat) (d : Dp) : Bool × Dp :=
  let same := fun (b : Nat × Nat × Nat × Nat × List Nat) => b.1 = cluster && b.2.1 = part && b.2.2.1 = set
  if d.tasks.books.any same then
    (true, { d with tasks := { d.tasks with books := modWhere d.tasks.books same fun b => (b.1, b.2.1, b.2.2.1, b.2.2.2.1, addNew b.2.2.2.2 id) } })
  else if booksUsed d cluster + bytes ≤ 2 ^ 21 then
    (true, { d with tasks := { d.tasks with books := d.tasks.books ++ [(cluster, part, set, bytes, [id])] } })
  else (false, d)

/-- The sets a task holds are let go at its end (R256). -/
def releaseSets (id : Nat) (d : Dp) : Dp :=
  { d with tasks := { d.tasks with
      books := (d.tasks.books.map fun b => (b.1, b.2.1, b.2.2.1, b.2.2.2.1, b.2.2.2.2.filter (· ≠ id))).filter fun b => !b.2.2.2.2.isEmpty
      bookWaits := d.tasks.bookWaits.filter (·.1 ≠ id) } }

/-- A task's set is held, or the task waits for space on its engine with stall reason EXPANDER (R256). -/
def needSet (id set bytes : Nat) : Acc Unit := do
  let d ← get
  let t := (d.task id).getD default
  if d.tasks.bookWaits.any fun w => w.1 = id && w.2.2.2.1 = set then hold
  else
    let r := holdSet id t.cluster t.part set bytes d
    if r.1 then act fun _ => r.2
    else
      act fun d => { d with tasks := { d.tasks with bookWaits := d.tasks.bookWaits ++ [(id, t.cluster, t.part, set, bytes)] } }
      hold

/-- The descriptor of a coded operand; one that fails ends the task with FAIL_DAMAGED under either policy (R252). -/
def readDsc (m : Mgt) (id addr stored format : Nat) : Acc (Dsc × Bytes) := do
  let b ← load m id false addr 64
  let d ← get
  let x := dscFields addr b
  if dscSound m d x stored format b then
    needSet id x.books (x.bookAt (x.booksN + 1))
    let books ← load m id false x.books (x.bookAt (x.booksN + 1))
    pure (x, books)
  else
    act (noteDamage m 0x10 addr)
    failWith 0x22 (regionOf m d addr)

/-- Add completion flags to a task (R169). -/
def setFlags (id flags : Nat) : Acc Unit := act (modTask id fun t => { t with flags := t.flags ||| flags })

/-- The flag APPROX, as a bit of CLU.CPL_FLAGS. -/
def flagApprox : Nat := 1
/-- The flag SHORT. -/
def flagShort : Nat := 2
/-- The flag DROPPED. -/
def flagDropped : Nat := 4
/-- The flag DAMAGED_FILLED. -/
def flagFilled : Nat := 8

/-- The frame that stores an address of this package. -/
def frameAt (m : Mgt) (d : Dp) (addr : Nat) : Option Nat :=
  match place m d addr with
  | .store _ _ a => some (a / 65536)
  | _ => none

/-- The usable coarse code of the block at an address: its frame's copy is neither stale nor absent (R49, R50, R254). -/
def coarseAt (m : Mgt) (d : Dp) (addr : Nat) : Option Bytes :=
  match place m d addr with
  | .store _ _ a =>
    let r := frameRec m d (a / 65536)
    if r.coarseStale || r.coarseAbsent then none else assoc d.store.coarse a
  | _ => none

/-- The values of one block for a task: exact, coarse where it is late under COARSE, or filled where it is damaged (R52, R54, R250, R251, R254). -/
def readBlock (m : Mgt) (id : Nat) (x : Dsc) (books : Bytes) (i : Nat) : Acc (List FVal) := do
  let tb ← load m id false (x.table + 4 * i) 4
  let addr := x.addr + 16 * leNat tb
  let d ← get
  let t := (d.task id).getD default
  let region := regionOf m d x.addr
  let fillOr : Nat → Acc (List FVal) := fun code => do
    act (noteDamage m code addr)
    if t.damage = 1 then failWith 0x22 region
    else
      setFlags id flagFilled
      pure (fillValues (x.valuesOf i))
  let failed := ((frameAt m d addr).map (frameFailed m d)).getD false
  if (addr ∈ t.late || failed) && t.latePolicy = 1 then
    match coarseAt m d addr with
    | some c =>
      if coarseSound c then
        act (countNamed 5)
        setFlags id flagApprox
        pure (x.expandCoarse books c)
      else fillOr 0x01
    | none => failWith 0x23 region
  else if failed && t.latePolicy = 2 then failWith 0x23 region
  else if !inRegion m d x.addr addr 16 then fillOr 0x08
  else
    let hb ← load m id false addr 16
    let len := max 16 (blockHead hb).length
    if !inRegion m d x.addr addr len then fillOr 0x08
    else
      let b ← load m id false addr len
      match x.check i true b with
      | some code => fillOr code
      | none => pure (x.expand books b)

/-- Every value of a coded operand (R244). -/
def readCoded (m : Mgt) (id addr stored format : Nat) : Acc (List FVal) := do
  let x ← readDsc m id addr stored format
  let bs ← (List.range x.1.blocks).mapM (readBlock m id x.1 x.2)
  pure bs.flatten

/-! ### The encoder (R259) -/

/-- The sum of squares in order, one rounding per operation. -/
def sumSquares (vs : List FVal) : FVal := vs.foldl (fun a v => fadd a (fmul v v)) fzero

/-- The squared distance of two vectors, in dimension order. -/
def distance (a b : List FVal) : FVal := (List.zipWith fsub a b).foldl (fun s v => fadd s (fmul v v)) fzero

/-- The index of the nearest of the entries, the lower index among equals. -/
def nearest (v : List FVal) (entries : List (List FVal)) : Nat :=
  ((entries.foldl (fun (acc : Nat × Nat × FVal) e =>
    let dd := distance v e
    if acc.1 = 0 || dd.lt acc.2.2 then (acc.1 + 1, acc.1, dd) else (acc.1 + 1, acc.2)) (0, 0, fzero)).2).1

/-- A list cut into runs of n, the last padded with zeros. -/
def vectors (n : Nat) (vs : List FVal) : List (List FVal) :=
  (List.range (ceilDiv vs.length n)).map fun i => let r := slice' vs (n * i) n; r ++ List.replicate (n - r.length) fzero
where
  /-- A run of a list. -/
  slice' (vs : List FVal) (off n : Nat) : List FVal := (vs.drop off).take n

/-- One stage of the encoder: the index chosen for each vector, and the residual after it. -/
def encodeStage (x : Dsc) (entries : List (List FVal)) (n : Nat) (res : List FVal) : List Nat × List FVal :=
  let vs := vectors x.dim res
  let idx := vs.map fun v => nearest v entries
  (idx, ((List.zipWith (fun v i => List.zipWith fsub v (entries.getD i [])) vs idx).flatten).take n)

/-- Is the relative error target met? -/
def targetMet (t n0 : FVal) (res : List FVal) : Bool := !((fmul (fmul t t) n0).lt (sumSquares res)) && !(sumSquares res).isNan

/-- The stages of a block, until the target is met or the codebooks end. -/
def encodeStages (x : Dsc) (books : List (List (List FVal))) (t n0 : FVal) (n : Nat) :
    List (List (List FVal)) → List (List Nat) → List FVal → List (List Nat) × List FVal × Bool
  | [], acc, res => let _ := books; (acc, res, false)
  | b :: rest, acc, res =>
    let r := encodeStage x b n res
    if targetMet t n0 r.2 then (acc ++ [r.1], r.2, true) else encodeStages x books t n0 n rest (acc ++ [r.1]) r.2

/-- The position of largest residual magnitude that is no outlier yet, the lower index among equals. -/
def worst (res : List FVal) (out : List (Nat × Nat)) : Option Nat :=
  ((List.range res.length).foldl (fun (acc : Option (Nat × FVal)) i =>
    if out.any (·.1 = i) then acc
    else
      let v := (res.getD i fzero).abs
      match acc with
      | none => some (i, v)
      | some (_, w) => if w.lt v then some (i, v) else acc) none).map (·.1)

/-- Outliers taken while the limit allows and the target is not met. -/
def encodeOutliers (input : List FVal) (t n0 : FVal) : Nat → List (Nat × Nat) → List FVal → List (Nat × Nat) × List FVal × Bool
  | 0, out, res => (out, res, targetMet t n0 res)
  | k + 1, out, res =>
    if targetMet t n0 res then (out, res, true)
    else match worst res out with
      | none => (out, res, false)
      | some i =>
        let v := input.getD i fzero
        let c := encodeFloat bf16 .rne false v
        encodeOutliers input t n0 k ((i, c) :: out) (res.set i (fsub v (decodeFloat bf16 c)))

/-- The bytes of a stage area. -/
def stageBytes (big : Bool) (idx : List Nat) : Bytes :=
  let b := if big then pairs idx else idx.map (BitVec.ofNat 8)
  b ++ zeros (stageArea big idx.length - b.length)
where
  /-- Two 12-bit indices to 3 bytes, the lower vector in bits 11:0. -/
  pairs : List Nat → Bytes
    | [] => []
    | [a] => natBytes 3 a
    | a :: b :: rest => natBytes 3 (a + 4096 * b) ++ pairs rest

/-- A whole block with its CRC. -/
def sealBlock (stages outliers expanded seq tag : Nat) (body : Bytes) : Bytes :=
  let h := headBytes stages outliers expanded (16 + body.length) seq tag 0
  headBytes stages outliers expanded (16 + body.length) seq tag (blockCrc (h ++ body)) ++ body

/-- A raw body: values converted to the format under RNE with SAT 0 (R259). -/
def rawBytes (f : Nat) (vs : List FVal) : Bytes :=
  if fmtMx f then
    let scales := (List.range (ceilDiv vs.length 32)).map fun j => mxScale f ((vs.drop (32 * j)).take 32)
    let e := packRow f ((List.range vs.length).map fun i => mxElem f .rne (scales.getD (i / 32) 0) (vs.getD i fzero))
    let s : Bytes := scales.map (BitVec.ofNat 8)
    e ++ zeros (roundUp (elemBytes f vs.length) 16 - e.length) ++ s ++ zeros (roundUp s.length 16 - s.length)
  else
    let e := packRow f (vs.map (encodeElem f .rne false))
    e ++ zeros (roundUp e.length 16 - e.length)

/-- A finite value. -/
def FVal.finite : FVal → Bool
  | .fin _ _ _ => true
  | _ => false

/-- Encode block `i` of a tensor (R259): its bytes, whether it is raw, and whether it decodes at the half rate. -/
def encodeBlock (x : Dsc) (books : List (List (List FVal))) (t : FVal) (outMax i : Nat) (vs : List FVal) : Bytes × Bool × Bool :=
  let raw := (sealBlock 0 0 vs.length (i % 65536) x.tag (rawBytes x.format vs), true, false)
  if vs.any fun v => !v.finite then raw
  else
    let n0 := sumSquares vs
    let s := encodeStages x books t n0 vs.length books [] vs
    let o := if s.2.2 then ([], s.2.1, true) else encodeOutliers vs t n0 (min outMax vs.length) [] s.2.1
    if !o.2.2 then raw
    else
      let os := sortBy (fun a b => a.1 < b.1) o.1
      let area := (List.range s.1.length).flatMap fun k => stageBytes (bitAt x.big k) (s.1.getD k [])
      let ol := os.flatMap fun e => natBytes 4 (e.2 * 65536 + e.1)
      let body := area ++ ol ++ zeros (roundUp ol.length 16 - ol.length)
      if 16 + body.length ≥ 16 + rawBody x.format vs.length then raw
      else (sealBlock s.1.length os.length vs.length (i % 65536) x.tag body, false, s.1.length ≥ 3 || os.length > 16)

/-- Where the next block goes: at the 64 KiB boundary when it would cross one and blocks must not (R260). -/
def placeBlock (align : Bool) (at_ len : Nat) : Nat :=
  if align && at_ / 65536 ≠ (at_ + len - 1) / 65536 then roundUp at_ 65536 else at_

/-- The places of blocks laid one after another. -/
def placeBlocks (align : Bool) : Nat → List Bytes → List (Nat × Bytes)
  | _, [] => []
  | at_, b :: rest => let a := placeBlock align at_ b.length; (a, b) :: placeBlocks align (a + b.length) rest

/-- The 64 bytes of a descriptor (R241). -/
def dscBytes (x : Dsc) : Bytes :=
  sealBlock 7 0 0 0 x.tag (wordsBytes [x.table, x.books, x.values,
    x.format * 2 ^ 56 + x.booksN * 2 ^ 52 + x.big * 2 ^ 48 + (if x.dim8 then 2 ^ 47 else 0), 0, 0])

end Sys2Proof.Machine
end

