-- ==== Sys2Proof/Machine/Operands.lean ====
section
/-! DEFINITION. Operand forms that several opcodes share: extents checked at acceptance, formats a position accepts, tensors read and written row by row, and open sums (R153, R181, R183, R189, R191, R192, R205). -/

namespace Sys2Proof.Machine

/-- A stretch of the pool that a record names: first address, bytes, whether the task writes it, and whether post space is admitted (R351). -/
structure Extent where
  addr : Nat
  bytes : Nat
  write : Bool
  post : Bool
  deriving DecidableEq, Repr, Inhabited

/-- An input. -/
def inExt (addr bytes : Nat) : Extent := ⟨addr, bytes, false, false⟩
/-- An output. -/
def outExt (addr bytes : Nat) : Extent := ⟨addr, bytes, true, false⟩

/-- Do two stretches share a byte? -/
def overlaps (a b : Extent) : Bool := a.addr < b.addr + b.bytes && b.addr < a.addr + a.bytes && a.bytes > 0 && b.bytes > 0

/-- An output overlaps an input, or another output (R205). -/
def anyOverlap : List Extent → Bool
  | [] => false
  | e :: es => es.any (fun x => (e.write || x.write) && overlaps e x) || anyOverlap es

/-- A format a matrix operand may have (R181, Table 4). -/
def matrixFormat (f : Nat) : Bool := f ∈ [0x01, 0x02, 0x03, 0x04, 0x06, 0x07, 0x08, 0x11, 0x12, 0x13, 0x14, 0x15, 0x16]

/-- A format a vector input may have. -/
def vectorFormat (f : Nat) : Bool := f = 0x05 || matrixFormat f

/-- A format a result may have. -/
def resultFormat (f : Nat) : Bool := f ∈ [0x01, 0x02, 0x03, 0x04, 0x05, 0x06, 0x08, 0x11, 0x12, 0x13, 0x14, 0x15, 0x16]

/-- Where the zero mask of a tensor lies, from its address (R195). -/
def maskAt (f rows n : Nat) : Nat := roundUp (tensorBytes f rows n) 64

/-- Bytes of a row of a zero mask over n positions (R195). -/
def maskRow (n : Nat) : Nat := roundUp (ceilDiv (ceilDiv n 32) 8) 8

/-- The scales of an MX tensor lie after its element bytes, rounded up to 64 B (R183). -/
def scalesAt (f rows n : Nat) : Nat := roundUp (rows * rowBytes f n) 64

/-- The values of a row from its packed elements and its scale bytes. -/
def rowValues (f n : Nat) (elems scales : Bytes) : List FVal :=
  (List.range n).map fun i =>
    if fmtMx f then mxValue f ((scales.getD (i / 32) 0).toNat) (elemAt f elems i) else decodeElem f (elemAt f elems i)

/-- One row of a tensor read for a task. -/
def loadRow (m : Mgt) (id addr f rows n r : Nat) : Acc (List FVal) := do
  let e ← load m id true (addr + r * rowBytes f n) (elemBytes f n)
  let s ← if fmtMx f then load m id true (addr + scalesAt f rows n + r * scaleRow n) (ceilDiv n 32) else pure []
  pure (rowValues f n e s)

/-- A tensor read for a task: every line is asked for before any is waited for. -/
def loadTensor (m : Mgt) (id addr f rows n : Nat) : Acc (List (List FVal)) := do
  let _ ← loadLines m id true (linesOf addr (tensorBytes f rows n))
  (List.range rows).mapM (loadRow m id addr f rows n)

/-- The rounding of a field value: 0 RNE, 1 RTZ, 2 SR. -/
def roundOf (code r : Nat) : Round :=
  match code with
  | 1 => .rtz
  | 2 => .sr r
  | _ => .rne

/-- The generator of a task's context (R192). -/
def generator (d : Dp) (id : Nat) : Nat × Nat × BitVec 32 :=
  match d.ctxOf id with
  | some c => (d.tasks.generators.find? fun g => g.1 = c.engine && g.2.1 = c.number).getD (c.engine, c.number, 0)
  | none => (0, 0, 0)

/-- Set the generator of a task's context. -/
def setGenerator (id : Nat) (v : BitVec 32) (d : Dp) : Dp :=
  match d.ctxOf id with
  | some c => { d with tasks := { d.tasks with generators := (c.engine, c.number, v) :: d.tasks.generators.filter fun g => !(g.1 = c.engine && g.2.1 = c.number) } }
  | none => d

/-- A seed that is not zero loads the generator at a task's start (R192). -/
def seedWith (id seed : Nat) : Acc Unit := if seed = 0 then pure () else act (setGenerator id (BitVec.ofNat 32 seed))

/-- n draws of 16 bits in output order (R191, R192). -/
def drawMany (id n : Nat) : Acc (List Nat) := do
  let d ← get
  let r := (List.range n).foldl (fun (acc : BitVec 32 × List Nat) _ =>
    let g := Config.xorshift acc.1
    (g, (Config.drawBits g).toNat :: acc.2)) ((generator d id).2.2, [])
  act (setGenerator id r.1)
  pure r.2.reverse

/-- The element codes and scale bytes of a row of results (R191, R193, R194). -/
def encodeRow (f mode : Nat) (sat : Bool) (draws : List Nat) (vs : List FVal) : List Nat × List Nat :=
  if fmtMx f then
    let vs := vs.map (mxSat sat)
    let scales := (List.range (ceilDiv vs.length 32)).map fun j => mxScale f ((vs.drop (32 * j)).take 32)
    ((List.range vs.length).map fun i => mxElem f (roundOf mode (draws.getD i 0)) (scales.getD (i / 32) 0) (vs.getD i fzero), scales)
  else ((List.range vs.length).map fun i => encodeElem f (roundOf mode (draws.getD i 0)) sat (vs.getD i fzero), [])

/-- Is a result code a zero of either sign? An MX block of scale 0xFF holds NaN, not zeros (R198). -/
def zeroCode (f scale code : Nat) : Bool := code % 2 ^ (fmtBits f - (if f = 0x06 || f = 0x16 then 0 else 1)) = 0 && !(fmtMx f && scale = 0xFF)

/-- The bytes of a row of a zero mask over result codes (R195, R198). -/
def maskBytes (f : Nat) (codes scales : List Nat) : Bytes :=
  let blocks := ceilDiv codes.length 32
  let w := (List.range blocks).foldl (fun a j =>
    if ((codes.drop (32 * j)).take 32).all (zeroCode f (scales.getD j 0)) then a + 2 ^ j else a) 0
  natBytes (maskRow codes.length) w

/-- The written bytes of a tensor of results, by offset from its address: elements, scales, and the zero mask where one is asked for. -/
def tensorWrites (f : Nat) (mask : Bool) (rows : List (List Nat × List Nat)) (n : Nat) : List (Nat × Bytes) :=
  let k := rows.length
  ((List.range k).map fun r => (r * rowBytes f n, packRow f (rows.getD r ([], [])).1))
  ++ (if fmtMx f then (List.range k).map fun r => (scalesAt f k n + r * scaleRow n, ((rows.getD r ([], [])).2).map (BitVec.ofNat 8)) else [])
  ++ (if mask then (List.range k).map fun r => (maskAt f k n + r * maskRow n, maskBytes f (rows.getD r ([], [])).1 (rows.getD r ([], [])).2) else [])

/-- Write pieces at offsets from an address; where an output overlaps an input each byte is undefined (R205). -/
def writeAll (m : Mgt) (id : Nat) (cached undefined : Bool) (addr : Nat) (ws : List (Nat × Bytes)) : Acc Unit :=
  ws.forM fun w => store m id cached (addr + w.1)
    (if undefined then (List.range w.2.length).map fun i => Config.overlapByte id (w.1 + i) else w.2)

/-- A row that a task writes as its result, kept for its watch record (R449). -/
def noteRow (id f n : Nat) (elems scales : Bytes) : Acc Unit :=
  act (modTask id fun t => if t.entry.isSome then { t with watchOut := t.watchOut ++ [(f, n, elems, scales)] } else t)

/-- Write a tensor of results, its rows watched. -/
def writeTensor (m : Mgt) (id : Nat) (undefined : Bool) (addr f : Nat) (mask : Bool) (rows : List (List Nat × List Nat)) (n : Nat) : Acc Unit := do
  let ws := (tensorWrites f mask rows n).map fun (w : Nat × Bytes) =>
    (w.1, if undefined then (List.range w.2.length).map fun i => Config.overlapByte id (w.1 + i) else w.2)
  (List.range rows.length).forM fun i =>
    noteRow id f n (ws.getD i (0, [])).2 (if fmtMx f then (ws.getD (rows.length + i) (0, [])).2 else [])
  writeAll m id true false addr ws

/-- Addends in the order an engine happens to take them for the k-th sum (R189). -/
def openOrder (k : Nat) (vs : List FVal) : List FVal :=
  match vs with
  | [] => []
  | [v] => [v]
  | vs => ((sortBy (fun a b => a.1 < b.1) ((List.range vs.length).map fun i => (Config.sumOrder k i, vs.getD i fzero)))).map (·.2)

/-- A running sum of addends from a start, in the order taken, one rounding each; the sign of an exact zero is open (R189, R193). -/
def openSum (k : Nat) (start : FVal) (vs : List FVal) : FVal :=
  let s := (openOrder k vs).foldl fadd start
  match s with
  | .fin _ 0 _ => .fin (Config.zeroSign k) 0 0
  | s => s

/-- The larger of two values; where one is a NaN the result is open. -/
def openMax (k : Nat) (a b : FVal) : FVal :=
  if a.isNan != b.isNan then (if Config.nanLoses k then a.max b else .nan) else a.max b

/-- The smaller of two values; where one is a NaN the result is open. -/
def openMin (k : Nat) (a b : FVal) : FVal :=
  if a.isNan != b.isNan then (if Config.nanLoses k then a.min b else .nan) else a.min b

/-- A key for the open choices of output `i` of a task. -/
def openKey (id i : Nat) : Nat := id * 2 ^ 64 + i

end Sys2Proof.Machine
end

