-- ==== Sys2Proof/Machine/Tensor.lean ====
section
/-! DEFINITION. The Hawkmoth tensor operators: MATMUL, MATMUL_ACC and the vector operators (chapter "Hawkmoth arithmetic"). -/

namespace Sys2Proof.Machine

/-! ### Operand map of MATMUL and MATMUL_ACC (R203, Table 7) -/

/-- The operands of a matrix operator. -/
structure MatOps where
  a : Nat
  b : Nat
  c : Nat
  bias : Nat
  rows : Nat
  k : Nat
  n : Nat
  af : Nat
  bf : Nat
  cf : Nat
  coded : Bool
  round : Nat
  sat : Bool
  bMask : Bool
  cMask : Bool
  metaAt : Nat
  alpha : Nat
  seed : Nat
  act : Nat
  sparse : Nat
  deriving DecidableEq, Repr

/-- Read the operand map. -/
def matOps (r : Bytes) : MatOps where
  a := wordAt r 6
  b := wordAt r 7
  c := wordAt r 8
  bias := wordAt r 9
  rows := fieldAt r 10 63 32
  k := fieldAt r 10 31 0
  n := fieldAt r 11 63 32
  af := fieldAt r 11 31 24
  bf := fieldAt r 11 23 16
  cf := fieldAt r 11 15 8
  coded := bitAt (wordAt r 11) 7
  round := fieldAt r 11 6 5
  sat := bitAt (wordAt r 11) 4
  bMask := bitAt (wordAt r 11) 3
  cMask := bitAt (wordAt r 11) 2
  metaAt := wordAt r 12
  alpha := fieldAt r 13 63 32
  seed := fieldAt r 13 31 0
  act := fieldAt r 14 63 56
  sparse := fieldAt r 14 55 54

/-- The format checks of step 5 for a matrix operator (R158, R184, R202, R203). -/
def matFormatOk (acc : Bool) (r : Bytes) (late damage : Nat) : Bool :=
  let o := matOps r
  matrixFormat o.af && matrixFormat o.bf && (if acc then o.cf = 0x05 else resultFormat o.cf)
  && o.rows ≠ 0 && o.k ≠ 0 && o.n ≠ 0
  && !((fmtMx o.af || fmtMx o.bf) && o.k % 32 ≠ 0)
  && !(o.sparse = 1 && o.k % 4 ≠ 0)
  && !(o.sparse = 2 && (o.k % 16 ≠ 0 || o.rows % 16 ≠ 0 || fmtMx o.af))
  && o.sparse ≠ 3 && o.round ≠ 3 && o.act ≤ 4
  && ((o.metaAt ≠ 0) = (o.sparse ≠ 0))
  && fieldAt r 11 1 0 = 0 && fieldAt r 14 53 0 = 0
  && (o.coded || (late = 0 && damage = 0)) && late ≠ 3

/-- Elements stored in a row of A. -/
def MatOps.stored (o : MatOps) : Nat := if o.sparse = 1 then o.k / 2 else o.k

/-- Bytes of a metadata row of 2:4 sparsity, or of a band's bitmap (R199, R200). -/
def MatOps.metaRow (o : MatOps) : Nat := if o.sparse = 1 then roundUp (ceilDiv (o.k / 4) 2) 64 else roundUp (ceilDiv (o.k / 16) 8) 8

/-- Bytes of A's metadata. -/
def MatOps.metaBytes (o : MatOps) : Nat := if o.sparse = 1 then o.rows * o.metaRow else if o.sparse = 2 then o.rows / 16 * o.metaRow else 0

/-- The stretches a matrix operator names. The extent of uncoded block-sparse A follows its metadata and is taken from its first line. -/
def matExtents (r : Bytes) : List Extent :=
  let o := matOps r
  let aLen := if o.coded then 64 else if o.sparse = 2 then 64 else tensorBytes o.af o.rows o.stored
  [inExt o.a aLen,
   inExt o.b (if o.bMask then maskAt o.bf o.n o.k + o.n * maskRow o.k else tensorBytes o.bf o.n o.k),
   outExt o.c (if o.cMask then maskAt o.cf o.n o.rows + o.n * maskRow o.rows else tensorBytes o.cf o.n o.rows)]
  ++ (if o.bias ≠ 0 then [inExt o.bias (2 * o.rows)] else [])
  ++ (if o.sparse ≠ 0 then [inExt o.metaAt o.metaBytes] else [])

/-! ### Groups, products and running sums (R185 to R188) -/

/-- Both operands are of 8 bits or fewer. -/
def MatOps.grouped (o : MatOps) : Bool := fmtBits o.af ≤ 8 && fmtBits o.bf ≤ 8

/-- Tokens in a tile (R172). -/
def tileCols (n : Nat) : Nat := if n ≤ 16 then 16 else if n ≤ 32 then 32 else if n ≤ 64 then 64 else 128

/-- One output's sum over the products of a row of A, given as positions and values, with a row of B whose masked groups contribute nothing (R186, R187, R197). -/
def dotSum (grouped : Bool) (key : Nat) (start : FVal) (a : List (Nat × FVal)) (b : List FVal) (masked : Nat → Bool) : FVal :=
  let live := a.filter fun e => !masked (e.1 / 32)
  if grouped then
    let gs := (live.map fun e => e.1 / 32).eraseDups
    openSum key start (gs.map fun g =>
      f32 ((live.filter fun e => e.1 / 32 = g).foldl (fun s e => s.add (e.2.mul (b.getD e.1 fzero))) fzero))
  else
    openSum key start (live.map fun e =>
      let p := e.2.mul (b.getD e.1 fzero)
      match f32 p with
      | .inf x => .inf x
      | _ => p)

/-- The activation functions of Table 6 on an FP32 value. -/
def activation (code : Nat) (v : FVal) : FVal :=
  match code with
  | 0x01 => if v.isNan then .nan else if v.lt fzero then fzero else v
  | 0x02 => geluTanh v
  | 0x03 => fgelu v
  | 0x04 => fsilu v
  | _ => v
where
  /-- GELU in its tanh form: x σ(2 √(2/π) (x + 0.044715 x³)). -/
  geluTanh (v : FVal) : FVal :=
    match v with
    | .nan => .nan
    | .inf n => if n then .fin true 0 0 else .inf false
    | .fin _ m _ =>
      if m = 0 then v
      else
        let cubic := v.add ((v.mul (v.mul v)).mul ((fnat 44715).div (fnat 1000000)))
        let k := (sqrtVal ((fnat 2).div (ofFx fxPi 0))).scale 1
        nudge 8 (f32Code v) (f32 (v.mul (sigmoidVal (trim (k.mul cubic)))))
  /-- A value cut to 200 leading bits, so that the fixed-point step stays small. -/
  trim (v : FVal) : FVal :=
    match v with
    | .fin n m e => let k := Nat.log2 m - 200; .fin n (m / 2 ^ k) (e + k)
    | v => v

/-- One output of a matrix operator before conversion (R190). -/
def epilogue (o : MatOps) (bias v : FVal) : FVal :=
  let v := fmul v (f32Val o.alpha)
  let v := if o.bias ≠ 0 then fadd v bias else v
  activation o.act v

/-! ### Reading the operands -/

/-- Rows of A as positions and values, from the stored values in stored order (R183, R199, R200). -/
def arrangeA (o : MatOps) (metaData : Bytes) (vs : List FVal) : List (List (Nat × FVal)) :=
  match o.sparse with
  | 1 =>
    (List.range o.rows).map fun r =>
      (List.range (o.k / 2)).map fun i =>
        let nib := bits ((metaData.getD (r * o.metaRow + i / 4) 0).toNat) (4 * (i / 2 % 2) + 3) (4 * (i / 2 % 2))
        (4 * (i / 2) + (if i % 2 = 0 then nib % 4 else nib / 4), vs.getD (r * (o.k / 2) + i) fzero)
  | 2 =>
    let bands := (List.range (o.rows / 16)).map fun b =>
      let bm := leNat (slice metaData (b * o.metaRow) o.metaRow)
      setBits (o.k / 16) bm
    let starts := (List.range (o.rows / 16)).map fun b => ((bands.take b).map (·.length)).sum * 256
    (List.range o.rows).map fun r =>
      let present := bands.getD (r / 16) []
      (List.range (present.length * 16)).map fun i =>
        (16 * present.getD (i / 16) 0 + i % 16, vs.getD (starts.getD (r / 16) 0 + i / 16 * 256 + r % 16 * 16 + i % 16) fzero)
  | _ => (List.range o.rows).map fun r => (List.range o.k).map fun i => (i, vs.getD (r * o.k + i) fzero)

/-- Stored values that the operand map and its metadata give (R250, code 0x10). -/
def MatOps.storedValues (o : MatOps) (metaData : Bytes) : Nat :=
  match o.sparse with
  | 1 => o.rows * (o.k / 2)
  | 2 => ((List.range (o.rows / 16)).map fun b => popBits (o.k / 16) (leNat (slice metaData (b * o.metaRow) o.metaRow))).sum * 256
  | _ => o.rows * o.k

/-- The masked groups of each token, from B's zero mask (R195, R196). -/
def maskTable (o : MatOps) (mask : Bytes) : List Nat := (List.range o.n).map fun r => leNat (slice mask (r * maskRow o.k) (maskRow o.k))

/-- A group is skipped for a tile when its bit is 1 for every token of the tile (R196). -/
def skipped (tbl : List Nat) (tile cols g : Nat) : Bool := ((tbl.drop (tile * cols)).take cols).all fun w => bitAt w g

/-- A group is read when some tile does not skip it. -/
def groupRead (o : MatOps) (tbl : List Nat) (g : Nat) : Bool :=
  !o.bMask || (List.range (ceilDiv o.n (tileCols o.n))).any fun t => !skipped tbl t (tileCols o.n) g

/-- A row of packed elements of which only the groups that are read are loaded; the rest stands as zero (R196). -/
def loadGroups (m : Mgt) (id addr f n : Nat) (wanted : Nat → Bool) : Acc Bytes := do
  let groups := List.range (ceilDiv n 32)
  if groups.all wanted then load m id true addr (elemBytes f n)
  else
    let parts ← groups.mapM fun g =>
      let lo := 32 * g * fmtBits f / 8
      let len := min (elemBytes f n) (32 * (g + 1) * fmtBits f / 8) - lo
      if wanted g then load m id true (addr + lo) len else pure (zeros len)
    pure parts.flatten

/-- One row of uncoded A of K or K/2 elements. -/
def loadARow (m : Mgt) (id : Nat) (o : MatOps) (tbl : List Nat) (r : Nat) : Acc (List FVal) := do
  let per := if o.sparse = 1 then 2 else 1
  let e ← loadGroups m id (o.a + r * rowBytes o.af o.stored) o.af o.stored fun g =>
    (List.range per).any fun j => groupRead o tbl (per * g + j)
  let s ← if fmtMx o.af then load m id true (o.a + scalesAt o.af o.rows o.stored + r * scaleRow o.stored) (ceilDiv o.stored 32) else pure []
  pure (rowValues o.af o.stored e s)

/-- Uncoded A's stored values in order. -/
def loadAValues (m : Mgt) (id : Nat) (o : MatOps) (metaData : Bytes) (tbl : List Nat) : Acc (List FVal) := do
  if o.sparse = 2 then
    let counts := (List.range (o.rows / 16)).map fun b => popBits (o.k / 16) (leNat (slice metaData (b * o.metaRow) o.metaRow))
    let sizes := counts.map fun c => roundUp (elemBytes o.af (256 * c)) 64
    let vs ← (List.range counts.length).mapM fun b => do
      let e ← load m id true (o.a + (sizes.take b).sum) (elemBytes o.af (256 * counts.getD b 0))
      pure (rowValues o.af (256 * counts.getD b 0) e [])
    pure vs.flatten
  else
    let vs ← (List.range o.rows).mapM (loadARow m id o tbl)
    pure vs.flatten

/-- One row of B, of which skipped groups are not read. -/
def loadBRow (m : Mgt) (id : Nat) (o : MatOps) (tbl : List Nat) (r : Nat) : Acc (List FVal) := do
  let tile := r / tileCols o.n
  let e ← loadGroups m id (o.b + r * rowBytes o.bf o.k) o.bf o.k fun g => !o.bMask || !skipped tbl tile (tileCols o.n) g
  let s ← if fmtMx o.bf then load m id true (o.b + scalesAt o.bf o.n o.k + r * scaleRow o.k) (ceilDiv o.k 32) else pure []
  pure (rowValues o.bf o.k e s)

/-- Multiply-accumulates performed: positions of groups that no tile skips, and stored values of a sparse A (R443). -/
def macCount (o : MatOps) (tbl : List Nat) (a : List (List (Nat × FVal))) : Nat :=
  let cols := tileCols o.n
  ((List.range (ceilDiv o.n cols)).map fun t =>
    let tokens := min cols (o.n - t * cols)
    tokens * ((a.map fun row => (row.filter fun e => !(o.bMask && skipped tbl t cols (e.1 / 32))).length).sum)).sum

/-- Multiply-accumulates that the array performed for a partition, by the formats of its operands (R443). -/
def countMacs (part f g n : Nat) : Dp → Dp := countAt 1 (0x030000 + 8 * (256 * part + 16 * fmtIndex f + fmtIndex g)) n

/-- The whole of a matrix operator (R185 to R201, R203, R205). -/
def matmulBody (m : Mgt) (id : Nat) (accumulate : Bool) : Acc Result := do
  let d ← get
  let t := (d.task id).getD default
  let o := matOps t.record
  (matExtents t.record).forM fun e => checkWindow m t.part e.addr e.bytes
  readyOutput m id o.c (tensorBytes o.cf o.n o.rows)
  let metaData ← if o.sparse ≠ 0 then load m id true o.metaAt o.metaBytes else pure []
  let mask ← if o.bMask then load m id true (o.b + maskAt o.bf o.n o.k) (o.n * maskRow o.k) else pure []
  let tbl := maskTable o mask
  let av ← if o.coded then readCoded m id o.a (o.storedValues metaData) o.af else loadAValues m id o metaData tbl
  let a := arrangeA o metaData av
  let b ← (List.range o.n).mapM (loadBRow m id o tbl)
  let biasRow ← if o.bias ≠ 0 then load m id true o.bias (2 * o.rows) else pure []
  let prior ← if accumulate then loadTensor m id o.c 0x05 o.n o.rows else pure []
  seedWith id o.seed
  let outs := (List.range o.n).map fun n =>
    (List.range o.rows).map fun r =>
      let start := if accumulate then (prior.getD n []).getD r fzero else fzero
      let s := dotSum o.grouped (openKey id (n * o.rows + r)) start (a.getD r []) (b.getD n []) fun g => o.bMask && bitAt (tbl.getD n 0) g
      epilogue o (decodeFloat bf16 (leNat (slice biasRow (2 * r) 2))) s
  let rows ← outs.mapM fun vs => do
    let draws ← if o.round = 2 && o.cf ≠ 0x05 then drawMany id vs.length else pure []
    pure (encodeRow o.cf o.round o.sat draws vs)
  act (countMacs t.part o.af o.bf (macCount o tbl a))
  let clash := (matExtents t.record).any fun e => !e.write && e.addr ≠ o.c && overlaps e (outExt o.c (tensorBytes o.cf o.n o.rows))
  writeTensor m id (clash || o.a = o.c || o.b = o.c) o.c o.cf o.cMask rows o.rows
  let d ← get
  let fl := ((d.task id).map (·.flags)).getD 0
  pure ⟨0, 0, fl, 0, 0⟩

/-- MATMUL (R203). -/
def execMatmul (id : Nat) (s : State) : Host.Outcome State Fault Refusal :=
  liftDp (fun m d => match runningTask d id [0x10] with
    | some _ => settle m (runTask m id (matmulBody m id false) d)
    | none => d) s

/-- MATMUL_ACC (R203): the running sums start at the FP32 values in the output (R185). -/
def execMatmulAcc (id : Nat) (s : State) : Host.Outcome State Fault Refusal :=
  liftDp (fun m d => match runningTask d id [0x11] with
    | some _ => settle m (runTask m id (matmulBody m id true) d)
    | none => d) s

/-! ### Vector operators (R204, Table 8) -/

/-- The operands of a vector operator. -/
structure VecOps where
  x : Nat
  y : Nat
  z : Nat
  beta : Nat
  n : Nat
  k : Nat
  xf : Nat
  yf : Nat
  zf : Nat
  round : Nat
  sat : Bool
  fn : Nat
  s : Nat
  seed : Nat
  deriving DecidableEq, Repr

/-- Read the operand map. -/
def vecOps (r : Bytes) : VecOps where
  x := wordAt r 6
  y := wordAt r 7
  z := wordAt r 8
  beta := wordAt r 9
  n := fieldAt r 10 63 32
  k := fieldAt r 10 31 0
  xf := fieldAt r 11 31 24
  yf := fieldAt r 11 23 16
  zf := fieldAt r 11 15 8
  round := fieldAt r 11 6 5
  sat := bitAt (wordAt r 11) 4
  fn := fieldAt r 12 63 56
  s := fieldAt r 13 63 32
  seed := fieldAt r 13 31 0

/-- Function codes of a vector operator (R202, Table 6). -/
def vecCodes (op : Nat) : List Nat :=
  match op with
  | 0x18 => [1, 2, 3, 4, 5]
  | 0x19 => [1, 2, 3, 4, 5, 6]
  | 0x1A => [1, 2]
  | 0x1B => [0, 1]
  | 0x1C => [0, 1]
  | 0x1D => [1, 2, 3]
  | _ => []

/-- Does a vector operator use Y? -/
def usesY (op : Nat) : Bool := op = 0x18 || op = 0x1A

/-- The format checks of step 5 for a vector operator (R158, R184, R202, R204). -/
def vecFormatOk (op : Nat) (r : Bytes) (late damage : Nat) : Bool :=
  let o := vecOps r
  vectorFormat o.xf && (if usesY op then vectorFormat o.yf else o.y = 0) && resultFormat o.zf
  && (o.beta = 0 || (op = 0x1A && o.fn = 2))
  && o.n ≠ 0 && o.k ≠ 0
  && !(fmtMx o.xf && o.k % 32 ≠ 0) && !(usesY op && fmtMx o.yf && o.k % 32 ≠ 0)
  && o.round ≠ 3 && o.fn ∈ vecCodes op
  && fieldAt r 11 63 32 = 0 && !bitAt (wordAt r 11) 7 && fieldAt r 11 3 0 = 0
  && fieldAt r 12 55 0 = 0 && wordAt r 14 = 0 && late = 0 && damage = 0

/-- The stretches a vector operator names. -/
def vecExtents (op : Nat) (r : Bytes) : List Extent :=
  let o := vecOps r
  [inExt o.x (tensorBytes o.xf o.n o.k)]
  ++ (if op = 0x18 then [inExt o.y (tensorBytes o.yf o.n o.k)] else if op = 0x1A then [inExt o.y (tensorBytes o.yf 1 o.k)] else [])
  ++ (if op = 0x1A && o.fn = 2 then [inExt o.beta (tensorBytes o.yf 1 o.k)] else [])
  ++ [outExt o.z (if op = 0x1D then tensorBytes o.zf 1 o.n else tensorBytes o.zf o.n o.k)]

/-- ELEMWISE on one pair. -/
def elemFn (code key : Nat) (x y : FVal) : FVal :=
  match code with
  | 1 => fadd x y
  | 2 => fsub x y
  | 3 => fmul x y
  | 4 => openMax key x y
  | _ => openMin key x y

/-- ACTIVATE on one value. -/
def actFn (code : Nat) (x : FVal) : FVal :=
  match code with
  | 5 => fexp x
  | 6 => ftanh x
  | c => activation c x

/-- NORM on one row: gain, bias, ε (R202). -/
def normRow (code key : Nat) (gain bias : List FVal) (eps : FVal) (x : List FVal) : List FVal :=
  let n := fnat x.length
  if code = 1 then
    let ms := fdiv (openSum key fzero (x.map fun v => fmul v v)) n
    let r := frsqrt (fadd ms eps)
    List.zipWith (fun v g => fmul (fmul v r) g) x gain
  else
    let mean := fdiv (openSum key fzero x) n
    let c := x.map fun v => fsub v mean
    let var := fdiv (openSum (key + 1) fzero (c.map fun v => fmul v v)) n
    let r := frsqrt (fadd var eps)
    List.zipWith fadd (List.zipWith (fun v g => fmul (fmul v r) g) c gain) bias

/-- SOFTMAX of one row; the row maximum is subtracted first. -/
def softmaxRow (key : Nat) (x : List FVal) : List FVal :=
  let top := x.foldl (fun a v => openMax key a v) (x.headD fzero)
  let e := x.map fun v => fexp (fsub v top)
  let s := openSum key fzero e
  e.map fun v => fdiv v s

/-- REDUCE of one row. -/
def reduceRow (code key : Nat) (x : List FVal) : FVal :=
  match code with
  | 1 => openSum key fzero x
  | 2 => x.foldl (fun a v => openMax key a v) (x.headD fzero)
  | _ => openSum key fzero (x.map fun v => fmul v v)

/-- The rows of results of a vector operator. -/
def vecRows (op id : Nat) (o : VecOps) (x y : List (List FVal)) (bias : List FVal) : List (List FVal) :=
  let s := f32Val o.s
  let x := x.map fun r => r.map f32
  let rows := (List.range x.length).map fun i =>
    let r := x.getD i []
    let key := openKey id (2 * i)
    match op with
    | 0x18 => (List.range r.length).map fun j => elemFn o.fn (openKey id (i * o.k + j)) (r.getD j fzero) ((y.getD i []).getD j fzero)
    | 0x19 => r.map (actFn o.fn)
    | 0x1A => normRow o.fn key (y.getD 0 []) bias s r
    | 0x1B => softmaxRow key (if o.fn = 1 then r.map fun v => fmul v s else r)
    | 0x1C => if o.fn = 1 then r.map fun v => fmul s v else r
    | _ => [reduceRow o.fn key r]
  if op = 0x1D then [rows.flatten] else rows

/-- The whole of a vector operator (R204, R205). -/
def vectorBody (m : Mgt) (id op : Nat) : Acc Result := do
  let d ← get
  let t := (d.task id).getD default
  let o := vecOps t.record
  let zn := if op = 0x1D then o.n else o.k
  let zrows := if op = 0x1D then 1 else o.n
  (vecExtents op t.record).forM fun e => checkWindow m t.part e.addr e.bytes
  readyOutput m id o.z (tensorBytes o.zf zrows zn)
  let x ← loadTensor m id o.x o.xf o.n o.k
  let y ← if op = 0x18 then loadTensor m id o.y o.yf o.n o.k else if op = 0x1A then loadTensor m id o.y o.yf 1 o.k else pure []
  let bias ← if op = 0x1A && o.fn = 2 then loadTensor m id o.beta o.yf 1 o.k else pure []
  seedWith id o.seed
  let rows ← (vecRows op id o x y (bias.getD 0 [])).mapM fun vs => do
    let draws ← if o.round = 2 && o.zf ≠ 0x05 then drawMany id vs.length else pure []
    pure (encodeRow o.zf o.round o.sat draws vs)
  writeTensor m id (anyOverlap (vecExtents op t.record)) o.z o.zf false rows zn
  pure ⟨0, 0, 0, 0, 0⟩

/-- ELEMWISE (R202, R204). -/
def execElemwise (id : Nat) (s : State) : Host.Outcome State Fault Refusal :=
  liftDp (fun m d => match runningTask d id [0x18] with
    | some _ => settle m (runTask m id (vectorBody m id 0x18) d)
    | none => d) s

/-- ACTIVATE (R202, R204). -/
def execActivate (id : Nat) (s : State) : Host.Outcome State Fault Refusal :=
  liftDp (fun m d => match runningTask d id [0x19] with
    | some _ => settle m (runTask m id (vectorBody m id 0x19) d)
    | none => d) s

/-- NORM (R202, R204). -/
def execNorm (id : Nat) (s : State) : Host.Outcome State Fault Refusal :=
  liftDp (fun m d => match runningTask d id [0x1A] with
    | some _ => settle m (runTask m id (vectorBody m id 0x1A) d)
    | none => d) s

/-- SOFTMAX (R202, R204). -/
def execSoftmax (id : Nat) (s : State) : Host.Outcome State Fault Refusal :=
  liftDp (fun m d => match runningTask d id [0x1B] with
    | some _ => settle m (runTask m id (vectorBody m id 0x1B) d)
    | none => d) s

/-- CONVERT (R202, R204). -/
def execConvert (id : Nat) (s : State) : Host.Outcome State Fault Refusal :=
  liftDp (fun m d => match runningTask d id [0x1C] with
    | some _ => settle m (runTask m id (vectorBody m id 0x1C) d)
    | none => d) s

/-- REDUCE (R202, R204). -/
def execReduce (id : Nat) (s : State) : Host.Outcome State Fault Refusal :=
  liftDp (fun m d => match runningTask d id [0x1D] with
    | some _ => settle m (runTask m id (vectorBody m id 0x1D) d)
    | none => d) s

end Sys2Proof.Machine
end

