-- ==== Sys2Proof/Machine/Wait.lean ====
section
/-! DEFINITION. Waiting: tallies and their watches, contexts given and freed, and what a task waits for next (R164, R165, R177 to R179, R222). -/

namespace Sys2Proof.Machine

/-- The value of an 8-byte tally of this package, as memory holds it. -/
def tallyValue (m : Mgt) (d : Dp) (addr : Nat) : Option Nat :=
  match storePlace m d addr with
  | some (r, _, a) => some (leNat (slice (readLine m d r a).1 (a % 64) 8))
  | none => none

/-- Watches registered at the home atomic unit of a line (R165). -/
def watchCount (d : Dp) (line : Nat) : Nat := (d.tasks.watches.filter fun w => homeSlice (lineOf w.addr) = homeSlice line).length

/-- Does an earlier accepted task of the same slot still run (CLU.TASK_SERIAL, R157)? -/
def serialBlocked (d : Dp) (t : Task) : Bool :=
  bitAt (wordAt t.record 0) 33 && d.tasks.tasks.any fun x => x.slot = t.slot && x.id < t.id

/-- Where a task goes when nothing holds its start any longer: an EXPERT to its claim, every other to a context or unit (R179, R224). -/
def readyState (d : Dp) (t : Task) : TaskState :=
  if serialBlocked d t then .waitSerial else if t.opcode = 0x31 then .waitClaim else .waitContext

/-- A wait is over. -/
def wakeTask (id seen : Nat) (d : Dp) : Dp :=
  modTask id (fun t =>
    if t.result.isSome then t
    else match t.state with
      | .waitTally => { t with state := readyState d t, seen := seen, polling := false }
      | .waitReturn => { t with state := .waitContext, seen := seen, polling := false, prog := { t.prog with stage := 6 } }
      | _ => t) { d with tasks := { d.tasks with watches := d.tasks.watches.filter fun w => !(w.task = some id && !w.claim) } }

/-- Begin to wait for a tally: a watch at its home, or polling where no watch is free (R164, R165). -/
def beginWait (m : Mgt) (id addr value : Nat) (st : TaskState) (d : Dp) : Dp :=
  let d := modTask id (fun t => { t with state := st, waitAddr := addr, waitValue := value }) d
  let tgt := addr / 2 ^ 50
  if m.serves tgt && tgt ≠ m.pkg.loopId || tgt = m.self then
    match tallyValue m d addr with
    | some v =>
      if v ≥ value then wakeTask id v d
      else if watchCount d (lineOf addr) ≥ 16384 then modTask id (fun t => { t with polling := true, seen := m.clk.ltb }) d
      else { d with tasks := { d.tasks with watches := d.tasks.watches ++ [⟨addr, value, some id, none, false⟩] } }
    | none => failTask id 0x24 0x06 d
  else
    let part := ((d.task id).map (·.part)).getD 0
    let bw := ((d.task id).map (·.cls)).getD 0
    issue m (.task id) (m.newMsg 0x1B tgt part bw addr value []) d

/-- The tick since which no task holds a context or a cluster unit (R432). -/
def noteIdle (m : Mgt) (d : Dp) : Dp :=
  if d.tasks.ctxs.isEmpty && !d.tasks.tasks.any (·.unitHeld) then { d with tasks := { d.tasks with idleSince := m.clk.ltb } } else d

/-- Free a task's context; the engine goes on with its oldest READY context (R177). -/
def freeCtx (m : Mgt) (id : Nat) (d : Dp) : Dp :=
  match d.ctxOf id with
  | none => d
  | some c =>
    let d := { d with tasks := { d.tasks with ctxs := d.tasks.ctxs.filter (·.task ≠ id) } }
    noteIdle m (selectCtx m c.engine (modTask id (fun t => { t with context := none }) d))

/-- A task of a control opcode, which holds no context or unit, whose start nothing holds any longer. -/
def controlTask (d : Dp) (id : Nat) (ops : List Nat) : Option Task :=
  (d.task id).filter fun t => (t.state = .waitContext || t.state = .running) && t.result.isNone && t.opcode ∈ ops

/-- Reads of a task that have not been answered. -/
def pendingReads (d : Dp) (id : Nat) : Bool :=
  let isRead := fun (q : Msg) => q.opcode ≤ 0x05 && q.payload.isEmpty
  d.coh.txns.any (fun x => x.via = .task id && !x.dead && isRead x.msg && x.data.isNone)
  || d.coh.waiting.any (fun w => w.1 = .task id && isRead w.2)
  || d.coh.trackers.any (fun t => t.via = .task id && isRead t.req && t.cause = 0)
  || d.hosts.reqs.any (fun r => id ∈ r.tasks)
  || d.hosts.reads.any (fun r => r.task = id && !r.flush && (!r.drained || r.lost))

/-- The writes of a task are performed at SYSTEM scope: nothing is outstanding, and each host port it wrote to has been read since (R113, R117). -/
def systemFence (d : Dp) (id : Nat) : Bool :=
  ((d.task id).map (·.outstanding)).getD 0 = 0
  && !(d.hosts.flushDue.any (·.1 = id)) && !(d.hosts.reads.any fun r => r.task = id && r.flush && (!r.drained || r.lost))

/-- Issue the flushing reads a SYSTEM fence needs, one on each host port that the task has written through (R113). -/
def flushHosts (m : Mgt) (id : Nat) (d : Dp) : Dp :=
  if ((d.task id).map (·.outstanding)).getD 0 = 0 then
    let due := d.hosts.flushDue.filter (·.1 = id)
    due.foldl (fun d f =>
      let w := m.windows.find? fun w => w.outbound && w.port = f.2
      hostReadLine m id f.2 ((w.map (·.hostBase)).getD 0) ((w.map (·.hostBase)).getD 0) 0 true d)
      { d with hosts := { d.hosts with flushDue := d.hosts.flushDue.filter (·.1 ≠ id) } }
  else d

end Sys2Proof.Machine
end

