-- ==== Sys2Proof/Machine/Route.lean ====
section
/-! DEFINITION. ROUTE and EXPERT: choosing experts, reserving slots, dispatch, the expert's passes, and the combination of what returns (chapter "Conditional computation and long attention"). -/

namespace Sys2Proof.Machine

/-! ### Operand map of ROUTE (R216, Table 5) -/

/-- The operands of ROUTE. -/
structure RouteOps where
  logits : Nat
  x : Nat
  map : Nat
  work : Nat
  out : Nat
  n : Nat
  e : Nat
  dim : Nat
  round : Nat
  k : Nat
  lf : Nat
  xf : Nat
  yf : Nat
  outF : Nat
  gating : Nat
  renorm : Bool
  skip : Bool
  acc : Bool
  mode : Nat
  sat : Bool
  limitUs : Nat
  scale : Nat
  bias : Nat
  deriving DecidableEq, Repr

/-- Read the operand map. -/
def routeOps (r : Bytes) : RouteOps where
  logits := wordAt r 6
  x := wordAt r 7
  map := wordAt r 8
  work := wordAt r 9
  out := wordAt r 10
  n := fieldAt r 11 63 48
  e := fieldAt r 11 47 32
  dim := fieldAt r 11 31 0
  round := fieldAt r 12 63 32
  k := fieldAt r 12 31 24
  lf := fieldAt r 12 23 16
  xf := fieldAt r 12 15 8
  yf := fieldAt r 12 7 0
  outF := fieldAt r 13 63 56
  gating := fieldAt r 13 55 54
  renorm := bitAt (wordAt r 13) 53
  skip := bitAt (wordAt r 13) 52
  acc := bitAt (wordAt r 13) 51
  mode := fieldAt r 13 50 50
  sat := bitAt (wordAt r 13) 49
  limitUs := fieldAt r 13 47 32
  scale := fieldAt r 13 31 0
  bias := wordAt r 14

/-- A return format (R216). -/
def returnFormat (f : Nat) : Bool := f = 0x03 || f = 0x04 || f = 0x05

/-- The format checks of step 5 for ROUTE (R209, R215, R216). -/
def routeFormatOk (r : Bytes) (late damage phase : Nat) : Bool :=
  let o := routeOps r
  1 ≤ o.n && o.n ≤ 4096 && 1 ≤ o.e && o.e ≤ 1024 && 32 ≤ o.dim && o.dim ≤ 16384 && o.dim % 32 = 0
  && 1 ≤ o.k && o.k ≤ 16 && o.k ≤ o.e && (o.lf = 0x03 || o.lf = 0x05) && matrixFormat o.xf && returnFormat o.yf
  && resultFormat o.outF && o.gating ≠ 3 && !bitAt (wordAt r 13) 48 && o.work % 64 = 0
  && late = 0 && damage = 0 && (phase = 0 || phase = 2)

/-- Bytes of the pair table (R228). -/
def RouteOps.tableBytes (o : RouteOps) : Nat := roundUp (8 * (o.n * o.k)) 64

/-- Bytes of a return slot: a vector and its trailer (R228). -/
def RouteOps.slotBytes (o : RouteOps) : Nat := rowBytes o.yf o.dim + 64

/-- Where the return slot of pair i lies. -/
def RouteOps.slotAt (o : RouteOps) (i : Nat) : Nat := o.work + 64 + o.tableBytes + i * o.slotBytes

/-- Bytes of the workspace. -/
def RouteOps.workBytes (o : RouteOps) : Nat := 64 + o.tableBytes + o.n * o.k * o.slotBytes

/-- The stretches ROUTE names. -/
def routeExtents (r : Bytes) : List Extent :=
  let o := routeOps r
  [inExt o.logits (tensorBytes o.lf o.n o.e), inExt o.x (tensorBytes o.xf o.n o.dim), inExt o.map (64 * o.e),
   outExt o.work o.workBytes, outExt o.out (tensorBytes o.outF o.n o.dim)]
  ++ (if o.bias ≠ 0 then [inExt o.bias (4 * o.e)] else [])

/-- Bytes of an inbox slot: a tag and one token's row with its scales (R210). -/
def inboxSlot (xf dim : Nat) : Nat := 64 + rowBytes xf dim + (if fmtMx xf then scaleRow dim else 0)

/-- The address of the header of a round's bank (R210). -/
def bankHeader (inbox round : Nat) : Nat := inbox + 64 * (round % 2)

/-- The address of slot i of a round's bank: bank 1's slots follow bank 0's (R210). -/
def bankSlot (inbox round cap0 slotLen i : Nat) : Nat := inbox + 128 + (if round % 2 = 0 then 0 else cap0 * slotLen) + i * slotLen

/-! ### Choosing experts (R217, R218) -/

/-- Replicas and inboxes of an expert map entry (R217). -/
def mapEntry (b : Bytes) (e : Nat) : Nat × List Nat :=
  let x := slice b (64 * e) 64
  (fieldAt x 0 63 56, (List.range 4).map fun i => wordAt x (1 + i))

/-- Experts that are present. -/
def presentExperts (o : RouteOps) (mapB : Bytes) : List Nat := (List.range o.e).filter fun e => (mapEntry mapB e).1 ≠ 0

/-- Softmax of logits over a set of experts. -/
def softmaxOver (key : Nat) (es : List Nat) (z : Nat → FVal) : List (Nat × FVal) :=
  let top := es.foldl (fun a e => openMax key a (z e)) (z (es.headD 0))
  let ex := es.map fun e => (e, fexp (fsub (z e) top))
  let s := openSum key fzero (ex.map (·.2))
  ex.map fun p => (p.1, fdiv p.2 s)

/-- Keys of the present experts (R218, Table 6). -/
def expertKeys (o : RouteOps) (key : Nat) (es : List Nat) (z beta : Nat → FVal) : List (Nat × FVal) :=
  match o.gating with
  | 0 => (softmaxOver key es z).map fun p => (p.1, fadd p.2 (beta p.1))
  | 1 => es.map fun e => (e, fadd (z e) (beta e))
  | _ => es.map fun e => (e, fadd (fsigmoid (z e)) (beta e))

/-- Experts by rank: greater keys first, the lower number first among equals, NaN last (R218). -/
def rankExperts (ks : List (Nat × FVal)) : List Nat :=
  (sortBy (fun a b => if a.2.isNan then false else if b.2.isNan then true else b.2.lt a.2) ks).map (·.1)

/-- The gates of a token's final set (R218). -/
def finalGates (o : RouteOps) (key : Nat) (present final : List Nat) (z : Nat → FVal) : List FVal :=
  let base := match o.gating with
    | 0 => let s := softmaxOver key present z; final.map fun e => ((s.find? (·.1 = e)).map (·.2)).getD fzero
    | 1 => (softmaxOver key final z).map (·.2)
    | _ => final.map fun e => fsigmoid (z e)
  let base := if o.renorm && o.gating ≠ 1 then
      let s := openSum (key + 1) fzero base
      if s.isZero then base.map fun _ => fzero else base.map fun g => fdiv g s
    else base
  base.map fun g => fmul g (f32Val o.scale)

/-! ### Pairs: token, rank, expert, and what has come of it (R220, R229): 0 waits, 4 waits after a reroute, 1 dispatched, 2 rerouted and dispatched, 3 skipped; the replica is held above bit 4. -/

/-- A pair of ROUTE. -/
abbrev Pair := Nat × Nat × Nat × Nat

/-- A pair that waits for a slot. -/
def Pair.waits (p : Pair) : Bool := p.2.2.2 = 0 || p.2.2.2 = 4

/-- A pair that has a slot. -/
def Pair.sent (p : Pair) : Bool := p.2.2.2 % 16 = 1 || p.2.2.2 % 16 = 2

/-- The pair table entry of a pair (R229, Table 9). -/
def pairEntry (p : Pair) (gate : Nat) : Nat :=
  p.2.2.1 % 1024 * 2 ^ 54 + p.2.2.2 / 16 % 4 * 2 ^ 52 + (if Pair.waits p then 0 else p.2.2.2 % 16) * 2 ^ 48 + gate

/-- Read a task's progress. -/
def progOf (id : Nat) : Acc Progress := do
  let d ← get
  pure (((d.task id).map (·.prog)).getD default)

/-- Change a task's progress. -/
def setProg (id : Nat) (f : Progress → Progress) : Acc Unit := act (modTask id fun t => { t with prog := f t.prog })

/-- The router logits of every token and the selection biases. -/
def loadLogits (m : Mgt) (id : Nat) (o : RouteOps) : Acc (List (List FVal) × List FVal) := do
  let z ← loadTensor m id o.logits o.lf o.n o.e
  let b ← if o.bias ≠ 0 then load m id true o.bias (4 * o.e) else pure []
  pure (z, (List.range o.e).map fun e => if o.bias ≠ 0 then f32Val (leNat (slice b (4 * e) 4)) else fzero)

/-- Experts of a token by rank. -/
def tokenRank (o : RouteOps) (id token : Nat) (present : List Nat) (z : List (List FVal)) (beta : List FVal) : List Nat :=
  rankExperts (expertKeys o (openKey id (2 * token)) present (fun e => (z.getD token []).getD e fzero) fun e => beta.getD e fzero)

/-- The replica tried at a turn: the first is (package identifier + r) mod replicas, the others follow in cyclic order (R219). -/
def replicaAt (m : Mgt) (o : RouteOps) (replicas turn : Nat) : Nat := (m.self + o.round + turn) % replicas

/-- Send one reservation for an expert's waiting tokens (R219). -/
def reserve (m : Mgt) (id : Nat) (o : RouteOps) (mapB : Bytes) (expert turn n : Nat) : Acc Unit := do
  let e := mapEntry mapB expert
  let addr := bankHeader (e.2.getD (replicaAt m o e.1 turn) 0) o.round
  setProg id fun p => { p with pend := p.pend ++ [(expert, turn, addr, n)] }
  postAtomic m id 0x18 addr (o.round * 2 ^ 32 + n) [] 0

/-- Pairs of an expert that wait for a slot, lowest token first. -/
def waitingPairs (ps : List Pair) (expert : Nat) : List Pair :=
  sortBy (fun a b => a.1 < b.1) (ps.filter fun p => p.2.2.1 = expert && Pair.waits p)

/-- Write a token's tag and vector into its slot (R212). -/
def dispatchPair (m : Mgt) (id : Nat) (o : RouteOps) (slot : Nat) (p : Pair) (row : Bytes) : Acc Unit :=
  postTokens m id slot (wordsBytes [o.slotAt (p.1 * o.k + p.2.1), o.work, o.round * 2 ^ 32 + p.1, 0, 0, 0, 0, 0] ++ row)

/-- The stored bytes of a token's row, with its scales. -/
def tokenRow (m : Mgt) (id : Nat) (o : RouteOps) (token : Nat) : Acc Bytes := do
  let e ← load m id true (o.x + token * rowBytes o.xf o.dim) (rowBytes o.xf o.dim)
  let s ← if fmtMx o.xf then load m id true (o.x + scalesAt o.xf o.n o.dim + token * scaleRow o.dim) (scaleRow o.dim) else pure []
  pure (e ++ s)

/-- One overflowing pair: rerouted to the token's best-ranked present expert outside its set, or skipped (R220). -/
def overflowPair (rank : Nat → List Nat) (acc : Progress × List Nat) (x : Pair) : Progress × List Nat :=
  let set := (acc.1.pairs.filter (·.1 = x.1)).map (·.2.2.1)
  let used := (acc.1.seen.filter fun v => v / 1024 = x.1).map (· % 1024)
  match (rank x.1).find? fun e => e ∉ set && e ∉ used with
  | some e => ({ acc.1 with
      pairs := acc.1.pairs.map fun y => if y = x then (x.1, x.2.1, e, 4) else y
      seen := (x.1 * 1024 + x.2.2.1) :: acc.1.seen }, addNew acc.2 e)
  | none => ({ acc.1 with
      pairs := acc.1.pairs.map fun y => if y = x then (x.1, x.2.1, x.2.2.1, 3) else y
      skipped := acc.1.skipped + 1 }, acc.2)

/-- Pairs of an expert that no replica could take (R220). -/
def overflowPairs (m : Mgt) (id : Nat) (o : RouteOps) (mapB : Bytes) (expert : Nat) : Acc Unit := do
  let p ← progOf id
  let spilt := waitingPairs p.pairs expert
  if o.skip then
    setProg id fun p => { p with
      pairs := p.pairs.map fun x => if x ∈ spilt then (x.1, x.2.1, x.2.2.1, 3) else x
      skipped := p.skipped + spilt.length }
  else
    let lb ← loadLogits m id o
    let r := spilt.foldl (overflowPair fun token => tokenRank o id token (presentExperts o mapB) lb.1 lb.2) (p, [])
    setProg id fun _ => r.1
    (sortBy (fun a b => decide (a < b)) r.2).forM fun e => do
      let q ← progOf id
      let n := (waitingPairs q.pairs e).length
      if n > 0 && !(q.pend.any (·.1 = e)) then reserve m id o mapB e 0 n else pure ()

/-- A reservation's grant of `g` slots from `fill` on (R219, R221). -/
def takeGrant (m : Mgt) (id : Nat) (o : RouteOps) (inbox rep expert fill g : Nat) : Acc Unit := do
  let p ← progOf id
  let took := (waitingPairs p.pairs expert).take g
  let cap ← if g > 0 && o.round % 2 = 1 then do
      let h ← load m id false inbox 16
      pure (fieldAt h 1 63 48)
    else pure 0
  (List.range took.length).forM fun i => do
    let pr := took.getD i (0, 0, 0, 0)
    let row ← tokenRow m id o pr.1
    dispatchPair m id o (bankSlot inbox o.round cap (inboxSlot o.xf o.dim) (fill + i)) pr row
  setProg id fun p => { p with
    pairs := p.pairs.map fun y => if y ∈ took then (y.1, y.2.1, y.2.2.1, (if y.2.2.2 = 4 then 2 else 1) + 16 * rep) else y
    rerouted := p.rerouted + (took.filter fun y => y.2.2.2 = 4).length }

/-- A refusal of a bank operation ends ROUTE as a refused access does (R222, R349). -/
def bankRefused (status arg : Nat) : Acc Unit :=
  match status with
  | 0x04 => failWith 0x20 arg
  | 0x05 => failWith 0x21 arg
  | _ => failWith 0x24 0x06

/-- A reservation's answer: grants go to the lowest tokens still waiting, a rest to the next replica (R219, R220). -/
def takeAnswer (m : Mgt) (id : Nat) (o : RouteOps) (mapB : Bytes) (x : Nat × Nat × Nat × Nat) (status arg : Nat) : Acc Unit := do
  let e := mapEntry mapB x.1
  let rep := replicaAt m o e.1 x.2.1
  if status = 0x07 then
    setProg id fun p => { p with asked := p.asked.filter (·.1 ≠ x.2.2.1), retry := p.retry ++ [(x.2.2.1, m.clk.ltb)] }
  else if status = 0 || status = 0x06 then
    let g := if status = 0 then arg % 2 ^ 32 else 0
    takeGrant m id o (e.2.getD rep 0) rep x.1 (arg / 2 ^ 32) g
    setProg id fun p => { p with pend := p.pend.erase x, asked := p.asked.filter (·.1 ≠ x.2.2.1) }
    let q ← progOf id
    let rest := (waitingPairs q.pairs x.1).length
    if rest = 0 then pure ()
    else if g = x.2.2.2 then reserve m id o mapB x.1 0 rest
    else if x.2.1 + 1 < e.1 then reserve m id o mapB x.1 (x.2.1 + 1) rest
    else overflowPairs m id o mapB x.1
  else bankRefused status arg

/-- Take every answer that has come, those that new reservations bring at once included. -/
def drainAnswers (m : Mgt) (id : Nat) (o : RouteOps) (mapB : Bytes) : Nat → Acc Unit
  | 0 => pure ()
  | k + 1 => do
    let p ← progOf id
    match p.pend.findSome? fun x => (p.asked.find? (·.1 = x.2.2.1)).map fun a => (x, a) with
    | none => pure ()
    | some (x, a) =>
      takeAnswer m id o mapB x a.2.1 a.2.2
      drainAnswers m id o mapB k

/-! ### The phases of ROUTE (R215) -/

/-- Phase 0: every token's choices, written to the pair table (R217, R218). -/
def routeSelect (m : Mgt) (id : Nat) (o : RouteOps) (mapB : Bytes) : Acc Unit := do
  let lb ← loadLogits m id o
  let present := presentExperts o mapB
  let pairs : List Pair := (List.range o.n).flatMap fun t =>
    let r := (tokenRank o id t present lb.1 lb.2).take o.k
    (List.range r.length).map fun j => (t, j, r.getD j 0, 0)
  let entries := (List.range (o.n * o.k)).map fun i =>
    match pairs.find? fun p => p.1 * o.k + p.2.1 = i with
    | some p => pairEntry p 0
    | none => 0
  store m id true (o.work + 64) (wordsBytes entries)
  setProg id fun p => { p with stage := 1, started := m.clk.ltb, pairs := pairs }

/-- Phase 1 begins: the return tally is zeroed, then one reservation for each chosen expert in increasing number (R219). -/
def routeDispatch (m : Mgt) (id : Nat) (o : RouteOps) (mapB : Bytes) : Acc Unit := do
  store m id true o.work (zeros 8)
  let p ← progOf id
  (presentExperts o mapB).forM fun e => do
    let n := (waitingPairs p.pairs e).length
    if n > 0 then reserve m id o mapB e 0 n else pure ()
  setProg id fun p => { p with stage := 2 }

/-- Gates of a token's final set, by rank. -/
def gatesOf (o : RouteOps) (id token : Nat) (present : List Nat) (pairs : List Pair) (z : List (List FVal)) : List (Nat × FVal) :=
  let mine := pairs.filter fun p => p.1 = token && Pair.sent p
  (mine.map (·.2.1)).zip (finalGates o (openKey id (2 * token)) present (mine.map (·.2.2.1)) fun e => (z.getD token []).getD e fzero)

/-- The last answer has come: the pair table is final, and the header names the pairs dispatched and the round (R221, R228, R229). -/
def routeFinal (m : Mgt) (id : Nat) (o : RouteOps) (mapB : Bytes) : Acc Unit := do
  let lb ← loadLogits m id o
  let p ← progOf id
  let present := presentExperts o mapB
  let gates := (List.range o.n).map fun t => gatesOf o id t present p.pairs lb.1
  let entries := (List.range (o.n * o.k)).map fun i =>
    match p.pairs.find? fun (x : Pair) => x.1 * o.k + x.2.1 = i with
    | some x => pairEntry x (f32Code (((gates.getD x.1 []).find? (·.1 = x.2.1)).map (·.2) |>.getD fzero))
    | none => 0
  store m id true (o.work + 64) (wordsBytes entries)
  store m id true (o.work + 8) (natBytes 8 ((p.pairs.filter Pair.sent).length * 2 ^ 32 + o.round))
  setProg id fun p => { p with stage := 3, count := (p.pairs.filter Pair.sent).length }

/-- After the fence, RT_CLOSE goes to the bank of every replica of every present expert (R221). -/
def routeClose (m : Mgt) (id : Nat) (o : RouteOps) (mapB : Bytes) : Acc Unit := do
  let banks := (presentExperts o mapB).flatMap fun e =>
    let x := mapEntry mapB e
    (List.range x.1).map fun i => (e, i, bankHeader (x.2.getD i 0) o.round, 0)
  setProg id fun p => { p with stage := 5, pend := banks }
  banks.forM fun b => postAtomic m id 0x19 b.2.2.1 (o.round * 2 ^ 32) [] 0

/-- Take the answers of the closes: a MISMATCH is retried (R221). -/
def drainCloses (m : Mgt) (id : Nat) : Nat → Acc Unit
  | 0 => pure ()
  | k + 1 => do
    let p ← progOf id
    match p.pend.findSome? fun x => (p.asked.find? (·.1 = x.2.2.1)).map fun a => (x, a) with
    | none => pure ()
    | some (x, a) =>
      if a.2.1 = 0x07 then setProg id fun p => { p with asked := p.asked.filter (·.1 ≠ x.2.2.1), retry := p.retry ++ [(x.2.2.1, m.clk.ltb)] }
      else if a.2.1 = 0 then setProg id fun p => { p with pend := p.pend.erase x, asked := p.asked.filter (·.1 ≠ x.2.2.1) }
      else bankRefused a.2.1 a.2.2
      drainCloses m id k

/-- What ROUTE does at its next step: it goes as far as the answers it has allow. Stages: 0 SELECT, 1 and 2 DISPATCH, 3 the fence, 4 and 5 the closes, 6 COMBINE. -/
def routeStep (m : Mgt) (id : Nat) (o : RouteOps) : Acc Unit := do
  let mapB ← load m id true o.map (64 * o.e)
  let fuel := 16 * o.e * (o.k + 4)
  let p ← progOf id
  if p.stage = 0 then routeSelect m id o mapB
  let p ← progOf id
  if p.stage = 1 then routeDispatch m id o mapB
  let p ← progOf id
  if p.stage = 2 then
    drainAnswers m id o mapB fuel
    let p ← progOf id
    if p.pend.isEmpty then routeFinal m id o mapB else pure ()
  let p ← progOf id
  if p.stage = 4 then routeClose m id o mapB
  let p ← progOf id
  if p.stage = 5 then drainCloses m id fuel

/-- After a step ROUTE waits: for answers and the fence with its context waiting, for a MISMATCH and for its return tally with none (R178, R222). -/
def routeRest (m : Mgt) (id : Nat) (o : RouteOps) (d : Dp) : Dp :=
  match d.task id with
  | none => d
  | some t =>
    if t.result.isSome then d
    else if t.prog.stage = 5 && t.prog.pend.isEmpty then
      beginWait m id o.work t.prog.count .waitReturn (freeCtx m id (modTask id (fun t => { t with phase := 2 }) d))
    else if !t.prog.retry.isEmpty && t.prog.pend.all (fun x => t.prog.retry.any (·.1 = x.2.2.1)) then
      freeCtx m id (modTask id (fun t => { t with state := .waitBank }) d)
    else stallTask m id d

/-- ROUTE (R215 to R222): the next step of phases 0 and 1; a ROUTE begun at phase 2 waits for its return tally. -/
def execRoute (id : Nat) (s : State) : Host.Outcome State Fault Refusal :=
  liftDp (fun m d => match runningTask d id [0x30] with
    | some t =>
      let o := routeOps t.record
      if t.prog.stage = 6 then d
      else if t.phase = 2 && t.prog.stage = 0 then
        let r := (load m id true o.work 16).run.run d
        match r with
        | (.ok h, d) =>
          settle m (beginWait m id o.work (fieldAt h 1 63 32) .waitReturn
            (freeCtx m id (modTask id (fun t => { t with prog := { t.prog with stage := 5, count := fieldAt h 1 63 32, started := m.clk.ltb } }) d)))
        | (.error (.done r), d) => settle m (concludeTask id r d)
        | (.error .stall, d) => settle m (stallTask m id d)
        | (.error .hold, d) => settle m d
      else settle m (routeRest m id o (runPart m id (routeStep m id o) d))
    | none => d) s

/-- MISMATCH_RETRY (R219, R221): bank operations that met another round are sent again once 200 LTB ticks have passed. -/
def execMismatchRetry (id : Nat) (s : State) : Host.Outcome State Fault Refusal :=
  liftDp (fun m d => match d.task id with
    | some t =>
      let due := t.prog.retry.filter fun r => m.clk.ltb ≥ r.2 + 200
      if t.opcode ≠ 0x30 || t.result.isSome || due.isEmpty then d
      else
        let o := routeOps t.record
        let d := modTask id (fun t => { t with state := if t.state = .waitBank then .waitRemote else t.state, prog := { t.prog with retry := t.prog.retry.filter fun r => r ∉ due } }) d
        let again : Acc Unit := (t.prog.pend.filter fun x => due.any (·.1 = x.2.2.1)).forM fun x =>
          if t.prog.stage = 5 then postAtomic m id 0x19 x.2.2.1 (o.round * 2 ^ 32) [] 0
          else postAtomic m id 0x18 x.2.2.1 (o.round * 2 ^ 32 + x.2.2.2) [] 0
        settle m (runPart m id again d)
    | none => d) s

/-- The package of the first pair still outstanding, in order of token, then rank (R222): of a pair that waits for a slot, else of the first dispatched. -/
def outstandingPackage (o : RouteOps) (mapB : Bytes) (m : Mgt) (ps : List Pair) : Nat :=
  let ordered := sortBy (fun a b => a.1 * o.k + a.2.1 < b.1 * o.k + b.2.1) ps
  let pick := fun (p : Pair) (rep : Nat) => (mapEntry mapB p.2.2.1).2.getD rep 0 / 2 ^ 50
  match ordered.find? Pair.waits with
  | some p => pick p (replicaAt m o (mapEntry mapB p.2.2.1).1 0)
  | none => match ordered.find? Pair.sent with
    | some p => pick p (p.2.2.2 / 16)
    | none => m.self

/-- ROUTE_LIMIT_EXPIRY (R222): a ROUTE whose limit has passed since the start of phase 1 ends with FAIL_TIMEOUT. -/
def execRouteLimitExpiry (id : Nat) (s : State) : Host.Outcome State Fault Refusal :=
  liftDp (fun m d => match d.task id with
    | some t =>
      let o := routeOps t.record
      if t.opcode = 0x30 && t.result.isNone && o.limitUs ≠ 0 && t.prog.stage ≥ 1 && m.clk.ltb ≥ t.prog.started + 100 * o.limitUs then
        let mapB := match (load m id true o.map (64 * o.e)).run.run d with | (.ok b, _) => b | _ => []
        settle m (freeCtx m id (failTask id 0x25 (outstandingPackage o mapB m t.prog.pairs) d))
      else d
    | none => d) s

/-! ### Phase 2: COMBINE (R230, R231) -/

/-- One token's combined output before conversion: products and sums rounded in FP32, in an open order. -/
def combineToken (key : Nat) (start : FVal) (parts : List (FVal × List FVal)) (dim : Nat) : List FVal :=
  (List.range dim).map fun j => openSum (key + j) start (parts.map fun p => fmul p.1 (p.2.getD j fzero))

/-- COMBINE: trailers are read, then every token's output is formed (R230). -/
def combineBody (m : Mgt) (id : Nat) : Acc Result := do
  let d ← get
  let t := (d.task id).getD default
  let o := routeOps t.record
  readyOutput m id o.out (tensorBytes o.outF o.n o.dim)
  let table ← load m id true (o.work + 64) (8 * (o.n * o.k))
  let sent := (List.range (o.n * o.k)).filter fun i => let s := fieldAt table i 51 48; s = 1 || s = 2
  let trailers ← sent.mapM fun i => load m id true (o.slotAt i + rowBytes o.yf o.dim) 64
  match trailers.find? fun b => fieldAt b 0 63 56 ≠ 0 with
  | some b => failWith (fieldAt b 0 63 56) (fieldAt b 0 31 0)
  | none =>
    let flags := trailers.foldl (fun f b => f ||| (fieldAt b 0 32 32 + 8 * fieldAt b 0 35 35)) 0
    let ys ← sent.mapM fun i => load m id true (o.slotAt i) (elemBytes o.yf o.dim)
    let prior ← if o.acc then loadTensor m id o.out o.outF o.n o.dim else pure []
    let rows := (List.range o.n).map fun tok =>
      let mine := (List.range sent.length).filter fun q => sent.getD q 0 / o.k = tok
      let parts := mine.map fun q => (f32Val (fieldAt table (sent.getD q 0) 31 0), rowValues o.yf o.dim (ys.getD q []) [])
      (List.range o.dim).map fun j =>
        let start := if o.acc then f32 ((prior.getD tok []).getD j fzero) else fzero
        if parts.isEmpty then start
        else openSum (openKey id (2 ^ 40 + tok * o.dim + j)) start (parts.map fun p => fmul p.1 (p.2.getD j fzero))
    writeTensor m id false o.out o.outF false (rows.map (encodeRow o.outF o.mode o.sat [])) o.dim
    let all := (List.range (o.n * o.k)).map fun i => fieldAt table i 51 48
    let rer := (all.filter (· = 2)).length
    let skp := (all.filter (· = 3)).length
    pure ⟨0, o.round, flags, sent.length, (min rer 65535) * 65536 + min skp 65535⟩

/-- ROUTE_COMBINE (R230, R231): phase 2 once the return tally is satisfied and a context is held. -/
def execRouteCombine (id : Nat) (s : State) : Host.Outcome State Fault Refusal :=
  liftDp (fun m d => match runningTask d id [0x30] with
    | some t => if t.prog.stage = 6 then settle m (runTask m id (combineBody m id) d) else d
    | none => d) s

/-! ### EXPERT (R223 to R227) -/

/-- The operands of EXPERT. -/
structure ExpertOps where
  inbox : Nat
  w1 : Nat
  w3 : Nat
  w2 : Nat
  dim : Nat
  hid : Nat
  round : Nat
  sources : Nat
  xf : Nat
  wf : Nat
  yf : Nat
  mid : Nat
  act : Nat
  coded : Bool
  mode : Nat
  sat : Bool
  sparse : Nat
  metaAt : Nat
  seed : Nat
  deriving DecidableEq, Repr

/-- Read the operand map (R223, Table 7). -/
def expertOps (r : Bytes) : ExpertOps where
  inbox := wordAt r 6
  w1 := wordAt r 7
  w3 := wordAt r 8
  w2 := wordAt r 9
  dim := fieldAt r 10 63 32
  hid := fieldAt r 10 31 0
  round := fieldAt r 11 63 32
  sources := fieldAt r 11 31 16
  xf := fieldAt r 12 63 56
  wf := fieldAt r 12 55 48
  yf := fieldAt r 12 47 40
  mid := fieldAt r 12 39 32
  act := fieldAt r 12 31 24
  coded := bitAt (wordAt r 12) 23
  mode := fieldAt r 12 22 21
  sat := bitAt (wordAt r 12) 20
  sparse := fieldAt r 12 19 18
  metaAt := wordAt r 13
  seed := fieldAt r 14 63 32

/-- The format checks of step 5 for EXPERT (R184, R209, R223). -/
def expertFormatOk (r : Bytes) (late damage : Nat) : Bool :=
  let o := expertOps r
  32 ≤ o.dim && o.dim ≤ 16384 && o.dim % 32 = 0 && 32 ≤ o.hid && o.hid ≤ 16384 && o.hid % 32 = 0
  && o.sources ≠ 0 && matrixFormat o.xf && matrixFormat o.wf && returnFormat o.yf && matrixFormat o.mid
  && o.act ≤ 4 && o.mode ≠ 3 && o.sparse ≠ 3 && !(o.sparse = 2 && fmtMx o.wf)
  && ((o.metaAt ≠ 0) = (o.sparse ≠ 0)) && fieldAt r 11 15 0 = 0 && fieldAt r 12 17 0 = 0 && fieldAt r 14 31 0 = 0
  && o.inbox % 64 = 0 && (o.coded || (late = 0 && damage = 0)) && late ≠ 3

/-- One of EXPERT's matrices as A of a matrix operator: `rows` rows of `k` elements at an address, with its own metadata (R223). -/
def expertMat (o : ExpertOps) (addr rows k metaAt n : Nat) : MatOps where
  a := addr
  b := 0
  c := 0
  bias := 0
  rows := rows
  k := k
  n := n
  af := o.wf
  bf := o.xf
  cf := 0x05
  coded := o.coded
  round := 0
  sat := false
  bMask := false
  cMask := false
  metaAt := metaAt
  alpha := 0x3F800000
  seed := 0
  act := 0
  sparse := o.sparse

/-- Where the metadata of W1, W3 and W2 begin, each from a 64-byte boundary (R223). -/
def ExpertOps.metas (o : ExpertOps) : Nat × Nat × Nat :=
  let s1 := roundUp (expertMat o 0 o.hid o.dim 0 1).metaBytes 64
  let s3 := if o.w3 = 0 then 0 else s1
  (o.metaAt, o.metaAt + s1, o.metaAt + s1 + s3)

/-- The stretches EXPERT names. The inbox is checked over its two headers; its slots follow its capacity. -/
def expertExtents (r : Bytes) : List Extent :=
  let o := expertOps r
  let mat := fun addr rows k => inExt addr (if o.coded then 64 else if o.sparse = 2 then 64 else
    tensorBytes o.wf rows (if o.sparse = 1 then k / 2 else k))
  [outExt o.inbox 128, mat o.w1 o.hid o.dim, mat o.w2 o.dim o.hid]
  ++ (if o.w3 ≠ 0 then [mat o.w3 o.hid o.dim] else [])
  ++ (if o.sparse ≠ 0 then [inExt o.metaAt (o.metas.2.2 - o.metaAt + (expertMat o 0 o.dim o.hid 0 1).metaBytes)] else [])

/-- Rows of one matrix of EXPERT. -/
def expertMatrix (m : Mgt) (id : Nat) (o : ExpertOps) (addr rows k metaAt n : Nat) : Acc (List (List (Nat × FVal))) := do
  let x := expertMat o addr rows k metaAt n
  let metaData ← if o.sparse ≠ 0 then load m id true metaAt x.metaBytes else pure []
  let v ← if o.coded then readCoded m id addr (x.storedValues metaData) o.wf else loadAValues m id x metaData []
  pure (arrangeA x metaData v)

/-- A matrix applied to a vector of `bf` elements, in FP32 running sums. -/
def applyMatrix (id key wf bf : Nat) (a : List (List (Nat × FVal))) (v : List FVal) : List FVal :=
  (List.range a.length).map fun r => dotSum (fmtBits wf ≤ 8 && fmtBits bf ≤ 8) (openKey id (key + r)) fzero (a.getD r []) v fun _ => false

/-- A vector converted to the hidden format under EXPERT's rounding, as the values it then stands for. -/
def toMid (o : ExpertOps) (draws : List Nat) (v : List FVal) : List FVal :=
  let e := encodeRow o.mid o.mode o.sat draws v
  (List.range v.length).map fun i =>
    if fmtMx o.mid then mxValue o.mid (e.2.getD (i / 32) 0) (e.1.getD i 0) else decodeElem o.mid (e.1.getD i 0)

/-- One token through the expert: y before its conversion (R223). -/
def expertToken (o : ExpertOps) (id tok : Nat) (w1 w3 w2 : List (List (Nat × FVal))) (draws : List Nat) (x : List FVal) : List FVal :=
  let base := tok * 4 * (o.hid + o.dim)
  let h1 := (applyMatrix id base o.wf o.xf w1 x).map (activation o.act)
  let h := if o.w3 = 0 then h1 else List.zipWith fmul h1 (applyMatrix id (base + o.hid) o.wf o.xf w3 x)
  applyMatrix id (base + 2 * o.hid) o.wf o.mid w2 (toMid o draws h)

/-- A return slot's trailer (R225, Table 8). -/
def trailer (m : Mgt) (status flags detail : Nat) : Bytes :=
  wordsBytes [status * 2 ^ 56 + (flags &&& 9) * 2 ^ 32 + detail, m.self, 0, 0, 0, 0, 0, 0]

/-- The tags of the claimed slots of a round's bank. -/
def loadTags (m : Mgt) (id : Nat) (o : ExpertOps) (first n : Nat) : Acc (List Bytes) := do
  let h ← load m id true o.inbox 16
  (List.range n).mapM fun i => load m id true (bankSlot o.inbox o.round (fieldAt h 1 63 48) (inboxSlot o.xf o.dim) (first + i)) 64

/-- One pass of at most 128 tokens (R224, R225, R226). Progress: `next` the first token of the pass, `count` F, `seen` the passes' tokens whose tallies are due. -/
def expertPass (m : Mgt) (id : Nat) : Acc Unit := do
  let d ← get
  let t := (d.task id).getD default
  let o := expertOps t.record
  let p := t.prog
  let n := min 128 (p.count - p.next)
  let hdr ← load m id true o.inbox 128
  let cap := fieldAt hdr 1 63 48
  let slotLen := inboxSlot o.xf o.dim
  let slots := (List.range n).map fun i => bankSlot o.inbox o.round cap slotLen (p.next + i)
  let tags ← slots.mapM fun a => load m id true a 64
  let xs ← slots.mapM fun a => do
    let e ← load m id true (a + 64) (elemBytes o.xf o.dim)
    let s ← if fmtMx o.xf then load m id true (a + 64 + rowBytes o.xf o.dim) (ceilDiv o.dim 32) else pure []
    pure (rowValues o.xf o.dim e s)
  act (modTask id fun t => { t with flags := 0 })
  let mm := o.metas
  let w1 ← if n = 0 then pure [] else expertMatrix m id o o.w1 o.hid o.dim mm.1 n
  let w3 ← if o.w3 = 0 || n = 0 then pure [] else expertMatrix m id o o.w3 o.hid o.dim mm.2.1 n
  let w2 ← if n = 0 then pure [] else expertMatrix m id o o.w2 o.dim o.hid mm.2.2 n
  if p.next = 0 then seedWith id o.seed else pure ()
  let d ← get
  let fl := ((d.task id).map (·.flags)).getD 0
  act (countMacs t.part o.wf o.xf (n * ((w1 ++ w3).map (·.length)).sum))
  act (countMacs t.part o.wf o.mid (n * (w2.map (·.length)).sum))
  (List.range n).forM fun i => do
    let midDraws ← if o.mode = 2 then drawMany id o.hid else pure []
    let y := expertToken o id (p.next + i) w1 w3 w2 midDraws (xs.getD i [])
    let draws ← if o.mode = 2 && o.yf ≠ 0x05 then drawMany id o.dim else pure []
    let ret := wordAt (tags.getD i []) 0
    let v := packRow o.yf (encodeRow o.yf o.mode o.sat draws y).1
    noteRow id o.yf o.dim v []
    store m id true ret v
    store m id true (ret + rowBytes o.yf o.dim) (trailer m 0 fl 0)
  if p.next + n ≥ p.count then
    let h := slice hdr (64 * (o.round % 2)) 16
    store m id true (bankHeader o.inbox o.round) (wordsBytes [(o.round + 2) % 2 ^ 32 * 2 ^ 32, fieldAt h 1 63 48 * 2 ^ 48])
  else pure ()
  setProg id fun p => { p with stage := 2, rerouted := p.rerouted + min n 1, skipped := p.skipped ||| fl, seen := tags.map (fun b => wordAt b 1), asked := (List.range n).map fun i => (p.next + i, wordAt (tags.getD i []) 0, wordAt (tags.getD i []) 1) }

/-- Distinct values with how often each occurs. -/
def tallyCounts (l : List Nat) : List (Nat × Nat) := l.eraseDups.map fun a => (a, (l.filter (· = a)).length)

/-- The tally adds of a pass: each distinct return tally takes the number of its tokens (R225). -/
def addReturns (m : Mgt) (id : Nat) (tallies : List Nat) : Acc Unit :=
  (tallyCounts tallies).forM fun a => postAtomic m id 0x12 a.1 a.2 [] 0

/-- EXPERT (R224): the next pass of a claimed round. A round with no token only resets its bank. -/
def execExpert (id : Nat) (s : State) : Host.Outcome State Fault Refusal :=
  liftDp (fun m d => match runningTask d id [0x31] with
    | some t =>
      if t.prog.stage = 1 then
        let d := runPart m id (expertPass m id) d
        settle m (modTask id (fun t => { t with arrived := [] }) d)
      else d
    | none => d) s

/-- EXPERT_PASS_END (R225, R226): once a pass's writes are performed at SYSTEM scope its tally adds are made; the next pass follows, or the result. -/
def execExpertPassEnd (id : Nat) (s : State) : Host.Outcome State Fault Refusal :=
  liftDp (fun m d => match d.task id with
    | some t =>
      if t.opcode = 0x31 && t.prog.stage = 2 && t.result.isNone && systemFence d id then
        let o := expertOps t.record
        let d := runPart m id (addReturns m id t.prog.seen) d
        let next := t.prog.next + min 128 (t.prog.count - t.prog.next)
        let d := modTask id (fun t => { t with prog := { t.prog with stage := 1, next := next, seen := [] } }) d
        settle m (if next ≥ t.prog.count then finish id ⟨0, o.round, t.prog.skipped, t.prog.count, t.prog.rerouted⟩ d else d)
      else if t.opcode = 0x31 && t.prog.stage = 2 && t.result.isNone then settle m (flushHosts m id d)
      else d
    | none => d) s

/-- EX_CLAIM (R213, R224): a waiting EXPERT claims its round at the bank's home atomic unit, and waits for the line to change where it cannot. -/
def execExClaim (id : Nat) (s : State) : Host.Outcome State Fault Refusal :=
  liftDp (fun m d => match d.task id with
    | some t =>
      if t.opcode = 0x31 && t.state = .waitClaim && t.result.isNone then
        let o := expertOps t.record
        let addr := bankHeader o.inbox o.round
        match storePlace m d addr with
        | some (r, _, a) =>
          if busy d (lineOf addr) || heldAdds d (a / 64) then d
          else
            let l := readLine m d r a
            if l.2 then settle m (failTask id 0x20 r d)
            else
              let c := exClaim l.1 o.round o.sources
              if c.changed then
                let f := fieldAt l.1 0 31 0
                let q := { m.newMsg 0x1A m.self t.part t.cls addr (o.round * 2 ^ 32 + o.sources) [] with slot := 0 }
                let d := arriveAt m (.task id) q (oneMore id d)
                let d := { d with tasks := { d.tasks with watches := d.tasks.watches.filter fun w => !(w.task = some id && w.claim) } }
                let d := modTask id (fun t => { t with state := .waitContext, prog := { t.prog with stage := 1, next := 0, count := f, rerouted := 0, skipped := 0 } }) d
                settle m d
              else if d.tasks.watches.any fun w => w.task = some id && w.claim then d
              else { d with tasks := { d.tasks with watches := d.tasks.watches ++ [⟨addr, 0, some id, none, true⟩] } }
        | none => failTask id 0x24 0x06 d
      else d
    | none => d) s

end Sys2Proof.Machine
end

