-- ==== Sys2Proof/Machine/Attend.lean ====
section
/-! DEFINITION. ATTEND: exact and sparse attention over one layer of a KV session, partials and their combination (R233 to R238). -/

namespace Sys2Proof.Machine

/-- The operands of ATTEND (R233, Table 12). -/
structure AttOps where
  region : Nat
  session : Nat
  layer : Nat
  fn : Nat
  sparse : Bool
  mean : Bool
  pages : Nat
  t : Nat
  q : Nat
  out : Nat
  first : Nat
  last : Nat
  sink : Nat
  window : Nat
  heads : Nat
  outF : Nat
  round : Nat
  sat : Bool
  scale : Nat
  seed : Nat
  selected : Nat
  parts : Nat
  deriving DecidableEq, Repr

/-- Read the operand map. -/
def attOps (r : Bytes) : AttOps where
  region := fieldAt r 6 63 52
  session := fieldAt r 6 47 32
  layer := fieldAt r 6 31 24
  fn := fieldAt r 6 23 16
  sparse := fieldAt r 6 15 8 = 1
  mean := fieldAt r 6 7 0 = 1
  pages := fieldAt r 7 63 40
  t := fieldAt r 7 39 0
  q := wordAt r 8
  out := wordAt r 9
  first := fieldAt r 10 63 32
  last := fieldAt r 10 31 0
  sink := fieldAt r 11 63 48
  window := fieldAt r 11 47 32
  heads := fieldAt r 11 31 24
  outF := fieldAt r 11 15 8
  round := fieldAt r 11 6 5
  sat := bitAt (wordAt r 11) 4
  scale := fieldAt r 12 63 32
  seed := fieldAt r 12 31 0
  selected := wordAt r 13
  parts := fieldAt r 14 63 32

/-- Pages that T positions take. -/
def AttOps.pagesOfT (o : AttOps) : Nat := ceilDiv o.t 128

/-- The page after the range. -/
def AttOps.rangeEnd (o : AttOps) : Nat := if o.last = 0 then o.pagesOfT else o.last

/-- The format checks of step 5 for ATTEND (R158, R233). -/
def attFormatOk (m : Mgt) (r : Bytes) (late damage : Nat) : Bool :=
  let o := attOps r
  fieldAt r 6 51 48 = 0 && fieldAt r 11 23 16 = 0 && !bitAt (wordAt r 11) 7 && fieldAt r 11 3 0 = 0 && fieldAt r 14 31 0 = 0
  && fieldAt r 6 15 8 ≤ 1 && fieldAt r 6 7 0 ≤ 1 && o.fn ≤ 2 && o.round ≠ 3 && o.heads ≠ 0 && late = 0 && damage = 0
  && (if o.fn = 2 then o.region = 0 && 2 ≤ o.parts && o.parts ≤ 65535 && resultFormat o.outF
      else o.parts = 0 && o.t ≠ 0 && o.first < o.rangeEnd && (o.fn = 1 || resultFormat o.outF)
        && (match m.region o.region with
            | some g => !(g.kind = 3 && (g.kvHeads = 0 || o.heads % g.kvHeads ≠ 0))
            | none => true))

/-- Bytes of one head's row of a partial: D values of o, then m, then l (R236). -/
def partialRow (dim : Nat) : Nat := roundUp (4 * (dim + 2)) 64

/-- The dimension D that an ATTEND works on. -/
def attDim (m : Mgt) (r : Bytes) : Nat :=
  let o := attOps r
  if o.fn = 2 then 16 * Config.combineDim16 r else ((m.region o.region).map fun g => 16 * g.kvDim16).getD 16

/-- Bytes of the list of attended pages that can be written at most: one list for each key-value head (R235). -/
def selectedBytes (o : AttOps) (kvHeads : Nat) : Nat := kvHeads * roundUp (4 * (min o.rangeEnd o.pagesOfT - o.first)) 64

/-- The stretches ATTEND names. -/
def attExtents (m : Mgt) (r : Bytes) : List Extent :=
  let o := attOps r
  let dim := attDim m r
  let g := (m.region o.region).getD default
  if o.fn = 2 then [inExt o.q (o.parts * (o.heads * partialRow dim)), outExt o.out (tensorBytes o.outF o.heads dim)]
  else [inExt o.q (tensorBytes g.kvFormat o.heads dim),
        outExt o.out (if o.fn = 1 then o.heads * partialRow dim else tensorBytes o.outF o.heads dim)]
    ++ (if o.selected ≠ 0 then [outExt o.selected (selectedBytes o g.kvHeads)] else [])

/-! ### Pages -/

/-- `n` bytes of a page's data from an offset, each line counted as read for the task; poison ends the task (R36, R90, R142, R443). -/
def pageLoad (m : Mgt) (id : Nat) (page : KvPage) (off n : Nat) : Acc Bytes := do
  let d ← get
  let t := (d.task id).getD default
  let base := page.data * 65536 + off
  let lines := (List.range (if n = 0 then 0 else (base + n - 1) / 64 - base / 64 + 1)).map fun i => (base / 64 + i) * 64
  let got := lines.map fun a => readLine m d page.region a
  act fun d => lines.foldl (fun d a => countTouch m (.task id) (m.newMsg 0x05 m.self t.part t.cls a 0 []) a false d) d
  if got.any (·.2) then failWith 0x20 page.region
  else pure (((got.flatMap (·.1)).drop (base % 64)).take n)

/-- A page whose data lies on a failed device (R99). -/
def pageFailed (m : Mgt) (d : Dp) (g : Region) (page : KvPage) : Bool :=
  let frames := roundUp (256 * g.kvHeads * (16 * g.kvDim16) * (fmtBits g.kvFormat / 8)) 65536 / 65536
  (List.range frames).any fun i => deadFrame m d page.region ((page.data + i) * 65536)

/-- The values of one key (kv 0) or value (kv 1) of a page: token, then head, then element (R90, Table 5). -/
def pageVector (m : Mgt) (id : Nat) (g : Region) (page : KvPage) (kv token head : Nat) : Acc (List FVal) := do
  let dim := 16 * g.kvDim16
  let e := fmtBits g.kvFormat / 8
  let b ← pageLoad m id page (kv * (128 * g.kvHeads * dim * e) + (token * g.kvHeads + head) * dim * e) (dim * e)
  pure ((List.range dim).map fun i => decodeElem g.kvFormat (elemAt g.kvFormat b i))

/-! ### Choosing pages (R234, R235) -/

/-- A page that SPARSE always attends (R234). -/
def alwaysPage (o : AttOps) (committed p : Nat) : Bool :=
  let lo := 128 * p
  let hi := 128 * p + 128
  lo < o.sink || hi > o.t - o.window || (lo ≤ o.t - 1 && o.t - 1 < hi) || hi > committed

/-- A query converted to BF16. -/
def toBf16 (v : FVal) : FVal := decodeFloat bf16 (encodeFloat bf16 .rne false v)

/-- Part `k` of a head's summary entry: 0 mean, 1 maximum, 2 minimum (R92). -/
def summaryPart (g : Region) (s : Bytes) (head k : Nat) : List FVal :=
  let dim := 16 * g.kvDim16
  (List.range dim).map fun i => decodeFloat bf16 (leNat (slice s (64 + head * (6 * dim) + k * (2 * dim) + 2 * i) 2))

/-- The score of a page for one query head (R235). -/
def pageScore (o : AttOps) (key : Nat) (g : Region) (s : Bytes) (head : Nat) (q : List FVal) : FVal :=
  let q := q.map toBf16
  if o.mean then openSum key fzero (List.zipWith FVal.mul q (summaryPart g s head 0))
  else
    let hi := List.zipWith FVal.mul q (summaryPart g s head 1)
    let lo := List.zipWith FVal.mul q (summaryPart g s head 2)
    openSum key fzero ((List.range q.length).map fun i => openMax (key + i) (hi.getD i fzero) (lo.getD i fzero))

/-- Pages by score: greater scores first, the lower index among equals, NaN last (R234). -/
def bestPages (n : Nat) (scored : List (Nat × FVal)) : List Nat :=
  ((sortBy (fun a b => if a.2.isNan then false else if b.2.isNan then true else b.2.lt a.2) scored).take n).map (·.1)

/-- The greatest of some values. -/
def topOf (key : Nat) (vs : List FVal) : FVal := (vs.drop 1).foldl (fun a v => openMax key a v) (vs.headD fzero)

/-- The pages of the range attended for a key-value head, in increasing order (R234). -/
def chosenPages (o : AttOps) (id : Nat) (g : Region) (committed head : Nat) (q : List (List FVal)) (range : List (Nat × KvPage)) : List Nat :=
  if !o.sparse then range.map (·.1)
  else
    let per := o.heads / g.kvHeads
    let scored := (range.filter fun p => !alwaysPage o committed p.1).map fun p =>
      (p.1, topOf (openKey id (2 ^ 50 + p.1)) ((List.range per).map fun j =>
        pageScore o (openKey id (2 ^ 51 + (p.1 * 256 + head * per + j) * 4096)) g (p.2.summary.getD []) head (q.getD (head * per + j) [])))
    let best := bestPages o.pages scored
    (range.map (·.1)).filter fun p => alwaysPage o committed p || p ∈ best

/-! ### Scores, probabilities and values (R236) -/

/-- What one query head yields: o, the largest score m, and l. -/
structure HeadSum where
  o : List FVal
  m : FVal
  l : FVal
  deriving DecidableEq, Repr

/-- One query head over its attended positions, given as position, key and value. -/
def headSum (op : AttOps) (key : Nat) (g : Region) (q : List FVal) (kv : List (Nat × List FVal × List FVal)) : HeadSum :=
  let dim := 16 * g.kvDim16
  if kv.isEmpty then ⟨List.replicate dim fzero, .inf true, fzero⟩
  else
    let grouped : Bool := fmtBits g.kvFormat ≤ 8
    let s := (List.range kv.length).map fun i =>
      fmul (f32Val op.scale) (dotSum grouped (key + 2 * i) fzero ((List.range dim).map fun j => (j, q.getD j fzero)) ((kv.getD i (0, [], [])).2.1) fun _ => false)
    let top := topOf key s
    let p := s.map fun v => fexp (fsub v top)
    let l := openSum (key + 1) fzero p
    let pc := p.map fun v => decodeElem g.kvFormat (encodeElem g.kvFormat .rne true v)
    let o := (List.range dim).map fun j =>
      let vals := kv.map fun x => (x.1, x.2.2.getD j fzero)
      if grouped then
        let gs := (vals.map fun x => x.1 / 32).eraseDups
        openSum (key + 3 + 2 * j) fzero (gs.map fun b =>
          f32 (((List.range vals.length).filter fun i => (vals.getD i (0, fzero)).1 / 32 = b).foldl
            (fun acc i => acc.add ((pc.getD i fzero).mul (vals.getD i (0, fzero)).2)) fzero))
      else openSum (key + 3 + 2 * j) fzero ((List.range vals.length).map fun i => (pc.getD i fzero).mul (vals.getD i (0, fzero)).2)
    ⟨o, top, l⟩

/-- The bytes of an FP32 value. -/
def f32Bytes (v : FVal) : Bytes := natBytes 4 (f32Code v)

/-- The row of a partial. -/
def partialBytes (h : HeadSum) : Bytes :=
  let b := (h.o ++ [h.m, h.l]).flatMap f32Bytes
  b ++ zeros (roundUp b.length 64 - b.length)

/-- Rows of output values, converted with the task's rounding (R191, R192). -/
def convertRows (id : Nat) (o : AttOps) (rows : List (List FVal)) : Acc (List (List Nat × List Nat)) :=
  rows.mapM fun vs => do
    let draws ← if o.round = 2 && o.outF ≠ 0x05 then drawMany id vs.length else pure []
    pure (encodeRow o.outF o.round o.sat draws vs)

/-- FINAL and PARTIAL (R233 to R237). -/
def attendBody (m : Mgt) (id : Nat) : Acc Result := do
  let d ← get
  let t := (d.task id).getD default
  let o := attOps t.record
  let g := (m.region o.region).getD default
  let dim := 16 * g.kvDim16
  (attExtents m t.record).forM fun e => checkWindow m t.part e.addr e.bytes
  readyOutput m id o.out (if o.fn = 1 then o.heads * partialRow dim else tensorBytes o.outF o.heads dim)
  if o.selected ≠ 0 then readyOutput m id o.selected (selectedBytes o g.kvHeads) else pure ()
  let q ← loadTensor m id o.q g.kvFormat o.heads dim
  let d ← get
  let range := ((t.bind.pages.filter fun p => o.first ≤ p.1 && p.1 < min o.rangeEnd o.pagesOfT).filterMap fun p =>
    (d.snaps.pages.find? (·.id = p.2)).map fun x => (p.1, x))
  let range := sortBy (fun a b => a.1 < b.1) range
  if range.any fun p => pageFailed m d g p.2 then failWith 0x21 o.region else pure ()
  let chosen := (List.range g.kvHeads).map fun h => chosenPages o id g t.bind.committed h q range
  let kv ← (List.range g.kvHeads).mapM fun h => do
    let pages := range.filter fun p => p.1 ∈ chosen.getD h []
    let rows ← pages.mapM fun p =>
      (List.range (min 128 (o.t - 128 * p.1))).mapM fun i => do
        let k ← pageVector m id g p.2 0 i h
        let v ← pageVector m id g p.2 1 i h
        pure (128 * p.1 + i, k, v)
    pure rows.flatten
  seedWith id o.seed
  let per := o.heads / g.kvHeads
  act (countMacs t.part g.kvFormat g.kvFormat (2 * dim * ((List.range o.heads).map fun i => (kv.getD (i / per) []).length).sum))
  let sums := (List.range o.heads).map fun i => headSum o (openKey id (i * 2 ^ 32)) g (q.getD i []) (kv.getD (i / per) [])
  if o.fn = 1 then
    (List.range sums.length).forM fun i => noteRow id 0x05 (dim + 2) ((partialBytes (sums.getD i ⟨[], .nan, .nan⟩)).take (4 * (dim + 2))) []
    writeAll m id true false o.out ((List.range sums.length).map fun i => (i * partialRow dim, partialBytes (sums.getD i ⟨[], .nan, .nan⟩)))
  else do
    let rows ← convertRows id o (sums.map fun h => h.o.map fun v => fdiv v h.l)
    writeTensor m id (anyOverlap (attExtents m t.record)) o.out o.outF false rows dim
  if o.selected ≠ 0 then
    let lists := chosen.map fun ps => let b := ps.flatMap (natBytes 4); b ++ zeros (roundUp b.length 64 - b.length)
    store m id true o.selected lists.flatten
  else pure ()
  let scoredPages := if o.sparse then (range.filter fun p => !alwaysPage o t.bind.committed p.1).length else 0
  pure ⟨0, t.bind.version, 0, (kv.map (·.length)).sum, scoredPages⟩

/-- The combination of one head's partials, each as o, m and l (R236). -/
def combineHead (key dim : Nat) (ps : List HeadSum) : List FVal :=
  if ps.all fun h => h.l.isZero then List.replicate dim fzero
  else
    let top := topOf key (ps.map (·.m))
    let w := ps.map fun h => fexp (fsub h.m top)
    let l := openSum key fzero (List.zipWith (fun x (h : HeadSum) => fmul x h.l) w ps)
    (List.range dim).map fun j =>
      fdiv (openSum (key + 1 + j) fzero (List.zipWith (fun x (h : HeadSum) => fmul x (h.o.getD j fzero)) w ps)) l

/-- COMBINE (R236). -/
def combinePartials (m : Mgt) (id : Nat) : Acc Result := do
  let d ← get
  let t := (d.task id).getD default
  let o := attOps t.record
  let dim := attDim m t.record
  (attExtents m t.record).forM fun e => checkWindow m t.part e.addr e.bytes
  readyOutput m id o.out (tensorBytes o.outF o.heads dim)
  let b ← load m id true o.q (o.parts * (o.heads * partialRow dim))
  seedWith id o.seed
  let value := fun part head i => f32Val (leNat (slice b ((part * o.heads + head) * partialRow dim + 4 * i) 4))
  let rows ← convertRows id o ((List.range o.heads).map fun h =>
    combineHead (openKey id (h * 2 ^ 32)) dim ((List.range o.parts).map fun p =>
      ⟨(List.range dim).map (value p h), value p h dim, value p h (dim + 1)⟩))
  writeTensor m id (anyOverlap (attExtents m t.record)) o.out o.outF false rows dim
  pure ⟨0, 0, 0, 0, 0⟩

/-- ATTEND (R233 to R237). -/
def execAttend (id : Nat) (s : State) : Host.Outcome State Fault Refusal :=
  liftDp (fun m d => match runningTask d id [0x32] with
    | some t => settle m (runTask m id (if (attOps t.record).fn = 2 then combinePartials m id else attendBody m id) d)
    | none => d) s

end Sys2Proof.Machine
end

