-- ==== Sys2Proof/Machine/Check.lean ====
section
/-! DEFINITION. CHK_SCAN (chapter "Check-value units"). -/

namespace Sys2Proof.Machine

/-- The operands of CHK_SCAN (R299, Table 2). -/
structure ScanOps where
  start : Nat
  length : Nat
  load : Nat
  save : Nat
  algo : Nat
  final : Bool
  deriving DecidableEq, Repr

/-- Read the operand map. -/
def scanOps (r : Bytes) : ScanOps where
  start := wordAt r 6
  length := wordAt r 7
  load := wordAt r 8
  save := wordAt r 9
  algo := fieldAt r 10 63 56
  final := bitAt (wordAt r 10) 55

/-- The format checks of step 5 for CHK_SCAN (R299). -/
def scanFormatOk (r : Bytes) (late damage : Nat) : Bool :=
  let o := scanOps r
  1 ≤ o.algo && o.algo ≤ 4 && o.length < 2 ^ 46 && o.load % 32 = 0 && o.save % 32 = 0
  && fieldAt r 10 54 0 = 0 && (List.range 4).all (fun i => wordAt r (11 + i) = 0) && (late = 0 || late = 2) && damage = 0

/-- The stretches CHK_SCAN names. -/
def scanExtents (r : Bytes) : List Extent :=
  let o := scanOps r
  [inExt o.start o.length] ++ (if o.load ≠ 0 then [inExt o.load 32] else []) ++ (if o.save ≠ 0 then [outExt o.save 32] else [])

/-- A context's 32 bytes (R303, Table 3). -/
def contextBytes (algo reg count : Nat) : Bytes :=
  let b := wordsBytes [reg, count % 2 ^ 64, algo * 2 ^ 56]
  b ++ natBytes 8 (crc 0x01 b * 2 ^ 32)

/-- Is a loaded context sound for an algorithm (R304)? -/
def contextSound (algo : Nat) (b : Bytes) : Bool :=
  fieldAt b 3 63 32 = crc 0x01 (b.take 24) && fieldAt b 2 63 56 = algo && fieldAt b 2 55 0 = 0 && fieldAt b 3 31 0 = 0
  && wordAt b 0 < 2 ^ ((crcAlg algo).map (·.width)).getD 0

/-- CHK_SCAN (R299 to R306). -/
def scanBody (m : Mgt) (id : Nat) : Acc Result := do
  let d ← get
  let t := (d.task id).getD default
  let o := scanOps t.record
  (scanExtents t.record).forM fun e => checkWindow m t.part e.addr e.bytes
  if o.save ≠ 0 then readyOutput m id o.save 32 else pure ()
  let c ← if o.load ≠ 0 then load m id true o.load 32 else pure []
  if o.load ≠ 0 && !contextSound o.algo c then failWith 0x22 (regionOf m d o.load) else pure ()
  let alg := (crcAlg o.algo).getD ⟨0, 0, 0, false, 0⟩
  let reg := if o.load ≠ 0 then wordAt c 0 else alg.init
  let count := if o.load ≠ 0 then wordAt c 1 else 0
  streamCheck m id o.start o.length
  let b ← load m id false o.start o.length
  let reg := crcFold alg reg b
  let count := (count + o.length) % 2 ^ 64
  if o.save ≠ 0 then store m id true o.save (contextBytes o.algo reg count) else pure ()
  pure ⟨0, o.algo, 0, if o.final then reg ^^^ alg.final else reg, min count 0xFFFFFFFF⟩

/-- CHK_SCAN. -/
def execChkScan (id : Nat) (s : State) : Host.Outcome State Fault Refusal :=
  liftDp (fun m d => match runningTask d id [0x50] with
    | some _ => settle m (runTask m id (scanBody m id) d)
    | none => d) s

end Sys2Proof.Machine
end

