-- ==== Sys2Proof/Machine/Cocoon.lean ====
section
/-! DEFINITION. COC_ENCODE, codebook space, coarse copies and far-tier deadlines (R48 to R56, R256, R258 to R262). -/

namespace Sys2Proof.Machine

/-- The operands of COC_ENCODE (R258, Table 6). -/
structure EncOps where
  x : Nat
  desc : Nat
  table : Nat
  books : Nat
  blocks : Nat
  limit : Nat
  values : Nat
  xf : Nat
  format : Nat
  booksN : Nat
  big : Nat
  dim8 : Bool
  align : Bool
  tag : Nat
  target : Nat
  outMax : Nat
  deriving DecidableEq, Repr

/-- Read the operand map. -/
def encOps (r : Bytes) : EncOps where
  x := wordAt r 6
  desc := wordAt r 7
  table := wordAt r 8
  books := wordAt r 9
  blocks := wordAt r 10
  limit := wordAt r 11
  values := wordAt r 12
  xf := fieldAt r 13 63 56
  format := fieldAt r 13 55 48
  booksN := fieldAt r 13 47 44
  big := fieldAt r 13 43 40
  dim8 := bitAt (wordAt r 13) 39
  align := bitAt (wordAt r 13) 38
  tag := fieldAt r 13 31 0
  target := fieldAt r 14 63 32
  outMax := fieldAt r 14 31 20

/-- The descriptor that COC_ENCODE writes. -/
def EncOps.dsc (o : EncOps) : Dsc := ⟨o.desc, o.tag, o.table, o.books, o.values, o.format, o.booksN, o.big, o.dim8⟩

/-- The format checks of step 5 for COC_ENCODE (R258, R260). -/
def encFormatOk (m : Mgt) (d : Dp) (r : Bytes) (late damage : Nat) : Bool :=
  let o := encOps r
  let x := o.dsc
  let len := 16 + rawBody o.format 2048
  vectorFormat o.xf && matrixOperand o.format && 1 ≤ o.booksN && o.booksN ≤ 4 && o.values ≠ 0
  && o.desc % 64 = 0 && o.table % 64 = 0 && o.books % 64 = 0 && o.blocks % 16 = 0 && o.blocks ≥ o.desc + 64
  && !(f32Val o.target).lt fzero && !(f32Val o.target).isNan && o.outMax ≤ 2048
  && fieldAt r 13 37 32 = 0 && fieldAt r 14 19 0 = 0 && late = 0 && damage = 0
  && o.limit ≥ x.blocks * len * (if o.align then 2 else 1)
  && inRegion m d o.desc o.desc 64 && inRegion m d o.desc o.table (4 * x.blocks)
  && inRegion m d o.desc o.books (x.bookAt (x.booksN + 1)) && inRegion m d o.desc o.blocks o.limit

/-- The stretches COC_ENCODE names. -/
def encExtents (r : Bytes) : List Extent :=
  let o := encOps r
  [inExt o.x (tensorBytes o.xf 1 o.values), outExt o.desc 64, outExt o.table (4 * o.dsc.blocks),
   inExt o.books (o.dsc.bookAt (o.booksN + 1)), outExt o.blocks o.limit]

/-- The codebooks of a set, by stage, as entries of FP32 values. -/
def bookTables (x : Dsc) (books : Bytes) : List (List (List FVal)) :=
  (List.range x.booksN).map fun s => (List.range (x.entries (s + 1))).map fun i => bookEntry x books (s + 1) i

/-- COC_ENCODE: the blocks, then the offset table, then the descriptor (R259, R260, R261). -/
def encodeBody (m : Mgt) (id : Nat) : Acc Result := do
  let d ← get
  let t := (d.task id).getD default
  let o := encOps t.record
  let x := o.dsc
  (encExtents t.record).forM fun e => checkWindow m t.part e.addr e.bytes
  needSet id o.books (x.bookAt (x.booksN + 1))
  let books ← load m id false o.books (x.bookAt (x.booksN + 1))
  let rows ← loadTensor m id o.x o.xf 1 o.values
  let vs := (rows.headD []).map f32
  let tables := bookTables x books
  let coded := (List.range x.blocks).map fun i =>
    encodeBlock x tables (f32Val o.target) o.outMax i ((vs.drop (2048 * i)).take 2048)
  let placed := placeBlocks o.align o.blocks (coded.map (·.1))
  placed.forM fun b => store m id false b.1 b.2
  store m id false o.table ((placed.map fun b => natBytes 4 ((b.1 - o.desc) / 16)).flatten)
  store m id false o.desc (dscBytes x)
  let last := placed.getLast?.map fun b => b.1 + b.2.length - o.blocks
  let raw := (coded.filter (·.2.1)).length
  let half := (coded.filter (·.2.2)).length
  pure ⟨0, x.blocks % 2 ^ 32, 0, last.getD 0, min raw 65535 * 65536 + min half 65535⟩

/-- COC_ENCODE (R258 to R261). -/
def execCocEncode (id : Nat) (s : State) : Host.Outcome State Fault Refusal :=
  liftDp (fun m d => match runningTask d id [0x38] with
    | some _ => settle m (runTask m id (encodeBody m id) d)
    | none => d) s

/-- CODEBOOK_SPACE_FREE (R256): a waiting stream's set takes the space that has freed. -/
def execCodebookSpaceFree (id : Nat) (s : State) : Host.Outcome State Fault Refusal :=
  liftDp (fun _ d => match d.tasks.bookWaits.find? (·.1 = id) with
    | none => d
    | some w =>
      let r := holdSet id w.2.1 w.2.2.1 w.2.2.2.1 w.2.2.2.2 d
      if r.1 then { r.2 with tasks := { r.2.tasks with bookWaits := r.2.tasks.bookWaits.erase w } } else d) s

/-! ### Coarse copies (R48 to R50, R254) -/

/-- The frame maps under which a region's contents are reached: its own frames, or those of its versions and drafts. -/
def regionMaps (d : Dp) (r : Region) : List (List (Nat × Nat)) :=
  match d.snap r.id with
  | none => [[]]
  | some s => s.versions.map (·.map) ++ s.views.filterMap fun v => match v.shown with | .draft x => some x.map | .version _ => none

/-- `n` bytes of a region from an offset, under a frame map; none where a line of them is poisoned. -/
def regionRead (m : Mgt) (d : Dp) (r : Region) (map : List (Nat × Nat)) (off n : Nat) : Option Bytes :=
  let lines := (List.range (if n = 0 then 0 else (off + n - 1) / 64 - off / 64 + 1)).map fun i => (off / 64 + i) * 64
  let got := lines.map fun o => readLine m d r.id (mappedFrame r map (o / 65536) * 65536 + o % 65536)
  if got.any (·.2) || off + n > r.length then none else some (((got.flatMap (·.1)).drop (off % 64)).take n)

/-- The offsets within a region, under a frame map, of its lines that hold anything. -/
def usedLines (d : Dp) (r : Region) (map : List (Nat × Nat)) : List Nat :=
  let lines := (d.store.mem.map fun c => c.1 / 64).eraseDups
  lines.flatMap fun l =>
    let f := l / 1024
    let own : List Nat := if r.base ≤ f * 65536 && f * 65536 < r.base + r.length && assoc map (f - r.base / 65536) = none then [f - r.base / 65536] else []
    let moved := (map.filter (·.2 = f)).map (·.1)
    (own ++ moved).map fun i => i * 65536 + l % 1024 * 64

/-- The sound descriptors of a region under a frame map, found by their contents. -/
def descriptorsOf (m : Mgt) (d : Dp) (r : Region) (map : List (Nat × Nat)) : List (Nat × Dsc) :=
  (usedLines d r map).filterMap fun off =>
    match regionRead m d r map off 64 with
    | none => none
    | some b =>
      let h := blockHead b
      let x := dscFields (m.self * 2 ^ 50 + r.base + off) b
      if h.stages = 7 && h.length = 64 && h.crcField = blockCrc b && matrixOperand x.format && x.booksN ≠ 0 && x.booksN ≤ 4 && x.values ≠ 0
        && x.blocks ≤ r.length / 16 then some (off, x) else none

/-- The coarse codes of the sound coded blocks of a tensor that begin in a frame and cross no frame boundary, with the place in store of each. -/
def tensorCoarse (m : Mgt) (d : Dp) (r : Region) (map : List (Nat × Nat)) (frame : Nat) (dsc : Nat × Dsc) : List (Nat × Bytes) :=
  let x := dsc.2
  let view := x.addr - dsc.1
  let tbl := (regionRead m d r map ((x.table - view) % 2 ^ 50) (4 * x.blocks)).getD []
  (List.range x.blocks).filterMap fun i =>
    let off := dsc.1 + 16 * leNat (slice tbl (4 * i) 4)
    let at_ := mappedFrame r map (off / 65536) * 65536 + off % 65536
    if at_ / 65536 ≠ frame || (tbl.length < 4 * x.blocks) then none
    else match regionRead m d r map off 16 with
      | none => none
      | some hb =>
        let len := max 16 (blockHead hb).length
        match regionRead m d r map off len with
        | none => none
        | some b =>
          if off / 65536 ≠ (off + len - 1) / 65536 || (blockHead b).stages = 0 || (x.check i true b).isSome then none
          else some (at_, x.coarseOf b)

/-- The share of a dual-resolution region's coarse reserve that one frame has (R48). -/
def coarseShare (r : Region) : Nat :=
  match r.coarse with
  | 1 => 65536 / 8
  | 2 => 65536 / 4
  | 3 => 65536 / 2
  | _ => 0

/-- COARSE_REBUILD_DONE (R49, R50, R254): the frame's coarse copy is as the frame now stands, or absent where it exceeds its share. -/
def execCoarseRebuildDone (frame : Nat) (s : State) : Host.Outcome State Fault Refusal :=
  liftDp (fun m d =>
    let r := m.regions.find? fun r => r.coarse ≠ 0 && ((frameRegion m frame).map (·.id) = some r.id
      || (regionMaps d r).any fun mp => mp.any (·.2 = frame))
    match r with
    | none => d
    | some r =>
      let f := frameRec m d frame
      if !f.coarseStale || frameFailed m d frame then d
      else
        let codes := (regionMaps d r).flatMap fun mp => (descriptorsOf m d r mp).flatMap (tensorCoarse m d r mp frame)
        let codes := codes.eraseDups
        let heads := ((regionMaps d r).flatMap fun mp => (descriptorsOf m d r mp).map fun x => mappedFrame r mp (x.1 / 65536) * 65536 + x.1 % 65536).eraseDups
        let size := (codes.map fun c => c.2.length - 2).sum + 64 * (heads.filter (· / 65536 = frame)).length
        let absent := size > coarseShare r
        let d := { d with store := { d.store with coarse := (if absent then [] else codes) ++ d.store.coarse.filter (·.1 / 65536 ≠ frame) } }
        let d := setFrame { f with coarseStale := false, coarseAbsent := absent } d
        if absent then countNamed 6 d else d) s

/-- BLOCK_DEADLINE_EXPIRY (R51, R52): a streamed far-tier block is late: under COARSE it will be served coarse, under FAIL its task ends. -/
def execBlockDeadlineExpiry (id block : Nat) (s : State) : Host.Outcome State Fault Refusal :=
  liftDp (fun m d => match d.task id with
    | none => d
    | some t =>
      let far := ((frameAt m d block).map fun f => (frameRec m d f).loc.far).getD false
      if t.state ≠ .running || t.result.isSome || !far then d
      else if t.latePolicy = 2 then settle m (concludeTask id ⟨0x23, regionOf m d block, 0, 0, 0⟩ d)
      else if t.latePolicy = 1 then modTask id (fun t => { t with late := addNew t.late block }) d
      else d) s

end Sys2Proof.Machine
end

