-- ==== Sys2Proof/Machine/Snapshot.lean ====
section
/-! DEFINITION. Snapshot regions: versions, drafts, views, publishing, closing and reclaim (chapter "Snapshots and KV sessions", R72 to R88). -/

namespace Sys2Proof.Machine

/-! ### Records and views -/

/-- The region that a snapshot or KV record names (R161). -/
def recRegion (r : Bytes) : Nat := fieldAt r 6 63 52

/-- Change the record of a SNAPSHOT region. -/
def modSnap (region : Nat) (f : SnapRegion → SnapRegion) (d : Dp) : Dp :=
  { d with snaps := { d.snaps with regions := modWhere d.snaps.regions (·.region = region) f } }

/-- Change a view slot. -/
def modView (region slot : Nat) (f : View → View) (d : Dp) : Dp :=
  modSnap region (fun s => { s with views := modWhere s.views (·.slot = slot) f }) d

/-- A view slot, open or about to be. -/
def anyView (d : Dp) (region slot : Nat) : Option View := (d.snap region).bind fun s => s.views.find? (·.slot = slot)

/-- The draft that a view shows. -/
def View.draft (v : View) : Option Draft :=
  match v.shown with
  | .draft dr => some dr
  | .version _ => none

/-- The version that a view shows, or the base of its draft. -/
def View.base (v : View) : Nat :=
  match v.shown with
  | .draft dr => dr.base
  | .version n => n

/-- Change the draft of a view slot. -/
def modDraft (region slot : Nat) (f : Draft → Draft) (d : Dp) : Dp :=
  modView region slot (fun v => match v.shown with
    | .draft dr => { v with shown := .draft (f dr) }
    | .version _ => v) d

/-- The lowest pool offset of a view slot (R75). -/
def Region.viewAt (r : Region) (slot : Nat) : Nat := r.viewBase + slot * r.viewSize

/-- The frame index that a physical frame stands for under a frame map. -/
def frameUnder (r : Region) (map : List (Nat × Nat)) (f : Nat) : Option Nat :=
  match map.find? fun (x : Nat × Nat) => x.2 = f with
  | some x => some x.1
  | none =>
    if r.base ≤ f * 65536 && f * 65536 < r.base + r.length && (assoc map (f - r.base / 65536)).isNone then some (f - r.base / 65536) else none

/-! ### Versions (R85, R86) -/

/-- A version is held by a view open on it or by a draft of it. -/
def SnapRegion.held (s : SnapRegion) (n : Nat) : Bool := s.views.any fun v => v.base = n

/-- Every version in its state of Table 4: the head, versions that views hold, the newest kept unpinned, and the rest retired. -/
def regrade (retain : Nat) (s : SnapRegion) : SnapRegion :=
  let past := sortBy (fun a b => decide (b < a)) ((s.versions.filter (·.number ≠ s.head)).map (·.number))
  { s with versions := s.versions.map fun v =>
      if v.state = .retired then v
      else if v.number = s.head then { v with state := .head }
      else if s.held v.number then { v with state := .pinned }
      else if v.number ∈ past.take retain then { v with state := .retained }
      else { v with state := .retired } }

/-- Versions of a region take their states anew. -/
def regradeRegion (m : Mgt) (region : Nat) (d : Dp) : Dp :=
  modSnap region (regrade ((m.region region).map (·.retain) |>.getD 0)) d

/-- A view slot is freed: a draft's copies and what is left of its reservation return to the free store (R86, R87). -/
def freeView (m : Mgt) (region slot : Nat) (d : Dp) : Dp :=
  match anyView d region slot with
  | none => d
  | some v =>
    let frames : List Nat := match v.draft with
      | some dr => (dr.copies.map fun c => c.2) ++ dr.reserved
      | none => []
    let d := modSnap region (fun s => { s with views := s.views.filter (·.slot ≠ slot) }) d
    regradeRegion m region (frames.foldl (fun d f => giveFrame f d) d)

/-- VERSION_RECLAIM_DONE (R86): the frames of a retired version that nothing else shares return to the free store, and the version ceases to exist. -/
def execVersionReclaimDone (region version : Nat) (s : State) : Host.Outcome State Fault Refusal :=
  liftDp (fun m d => match m.region region, d.snap region with
    | some r, some sr =>
      match sr.version version with
      | some v =>
        if v.state ≠ .retired then d
        else
          let others := (sr.versions.filter (·.number ≠ version)).map (·.map) ++ sr.views.filterMap fun x => x.draft.map (·.map)
          let idx := ((v.map ++ others.flatten).map fun (x : Nat × Nat) => x.1).eraseDups
          let mine := (idx.map (mappedFrame r v.map)).filter fun f => !others.any fun mp => idx.any fun i => mappedFrame r mp i = f
          mine.foldl (fun d f => giveFrame f d) (modSnap region (fun s => { s with versions := s.versions.filter (·.number ≠ version) }) d)
      | none => d
    | _, _ => d) s

/-! ### Acceptance -/

/-- What step 10 finds: a rejection, or acceptance with the result a record is already bound to (R154, R538). -/
abbrev Verdict := Except (Nat × Nat) (Option Result)

/-- REJECT_STATE of an object (R153, step 10). -/
def stateReject : Verdict := .error (0x13, 0x03)

/-- FAIL_LOST of a region. -/
def lostVerdict (region : Nat) : Verdict := .ok (some ⟨0x21, region, 0, 0, 0⟩)

/-- The format checks of step 5 for the snapshot opcodes (R158, R161). -/
def snapFormatOk (op : Nat) (r : Bytes) (late damage : Nat) : Bool :=
  late = 0 && damage = 0 && (List.range 7).all (fun i => wordAt r (8 + i) = 0)
  && (match op with
      | 0x60 => fieldAt r 6 51 32 = 0 && wordAt r 7 = 0
      | 0x61 => fieldAt r 6 51 32 = 0
      | _ => fieldAt r 6 51 8 = 0 && wordAt r 7 = 0)

/-- Step 8 for the snapshot opcodes (R161): the region is a SNAPSHOT region of the slot's partition. -/
def snapRegionOk (m : Mgt) (part region : Nat) : Bool := match m.region region with | some r => r.kind = 2 && r.partition = part | none => false

/-- The version that a record names; 0 is the head (R78). -/
def namedVersion (s : SnapRegion) (r : Bytes) : Nat := if fieldAt r 6 31 0 = 0 then s.head else fieldAt r 6 31 0

/-- Do accepted tasks write into a view slot (R82)? -/
def viewWriters (d : Dp) (region slot : Nat) : Bool := d.tasks.tasks.any fun t => t.bind.views.any fun v => v.1 = region && v.2.1 = slot && v.2.2

/-- Step 10 for the snapshot opcodes (R82, R84, R87, R99). -/
def snapStep10 (m : Mgt) (d : Dp) (op : Nat) (r : Bytes) : Verdict :=
  let region := recRegion r
  if regionDead m d region then lostVerdict region
  else match d.snap region with
    | none => stateReject
    | some s =>
      let slot := fieldAt r 6 7 0
      match op with
      | 0x62 => match s.view slot with
        | some v => match v.draft with
          | some dr =>
            if v.closing.isSome || v.publish.isSome || dr.frozen || dr.state = .spoilt || viewWriters d region slot then stateReject
            else if dr.state = .stale then .ok (some ⟨0x26, s.head, 0, 0, 0⟩)
            else .ok none
          | none => stateReject
        | none => stateReject
      | 0x63 => match s.view slot with
        | some v => if v.closing.isSome then stateReject else .ok none
        | none => stateReject
      | _ => match s.version (namedVersion s r) with
        | some v => if v.state = .retired then stateReject else .ok none
        | none => stateReject

/-- The frame budget of SNAP_DRAFT; 0 is the whole region (R79). -/
def draftBudget (m : Mgt) (r : Bytes) : Nat := if wordAt r 7 = 0 then ((m.region (recRegion r)).map fun g => g.length / 65536).getD 0 else wordAt r 7

/-- The lowest view slot of a region that is free. -/
def freeSlot (g : Region) (s : SnapRegion) : Option Nat := (List.range g.views).find? fun v => !s.views.any (·.slot = v)

/-- Step 11 for the snapshot opcodes (R80, R84, R153). -/
def snapStep11 (m : Mgt) (d : Dp) (op : Nat) (r : Bytes) : Option (Nat × Nat) :=
  match m.region (recRegion r), d.snap (recRegion r) with
  | some g, some s =>
    match op with
    | 0x62 => match (s.view (fieldAt r 6 7 0)).bind (·.draft) with
      | some dr => if dr.base = 0xFFFFFFFF then some (0x16, 0x05) else none
      | none => none
    | 0x63 => none
    | _ =>
      if (freeSlot g s).isNone || (op = 0x61 && (s.views.filter (·.draft.isSome)).length ≥ g.drafts) then some (0x16, 0x06)
      else if op = 0x61 && draftBudget m r > freeCount d then some (0x16, 0x03) else none
  | _, _ => none

/-- The reservations and marks made when a snapshot opcode is accepted (R80, R82, R87, R155). -/
def snapAccept (m : Mgt) (id owner op : Nat) (r : Bytes) (d : Dp) : Dp :=
  let region := recRegion r
  let slot := fieldAt r 6 7 0
  match m.region region, d.snap region with
  | some g, some s =>
    match op with
    | 0x62 => modDraft region slot (fun dr => { dr with frozen := true }) (modView region slot (fun v => { v with publish := some id }) d)
    | 0x63 => modView region slot (fun v => { v with closing := some (some id) }) d
    | _ =>
      let n := namedVersion s r
      let k := (freeSlot g s).getD 0
      let res := if op = 0x61 then takeFrames (draftBudget m r) d.store.free else ([], d.store.free)
      let shown := if op = 0x61
        then Shown.draft ⟨n, .draft, false, ((s.version n).map (·.map)).getD [], [], [], res.1, []⟩ else Shown.version n
      let d := { d with store := { d.store with free := res.2 } }
      regradeRegion m region (modSnap region (fun s => { s with views := s.views ++ [⟨k, shown, owner, some id, none, none, false⟩] }) d)
  | _, _ => d

/-- What ending without its effect undoes: a view that was to be opened, or a publish that had not passed its commit (R87, R152). -/
def snapUndo (m : Mgt) (id : Nat) (r : Bytes) (d : Dp) : Dp :=
  let region := recRegion r
  match d.snap region with
  | none => d
  | some s =>
    match s.views.find? fun v => v.opening = some id || v.publish = some id with
    | none => d
    | some v =>
      if v.opening = some id then freeView m region v.slot d
      else modDraft region v.slot (fun dr => { dr with frozen := false }) (modView region v.slot (fun v => { v with publish := none }) d)

/-! ### Opening -/

/-- The view slot that a task is to open. -/
def openingView (d : Dp) (region id : Nat) : Option View := (d.snap region).bind fun s => s.views.find? (·.opening = some id)

/-- A view slot opens: its completion names the version, the address and the number (R79, R161). -/
def openView (m : Mgt) (id region : Nat) (d : Dp) : Dp :=
  if regionDead m d region then failTask id 0x21 region d
  else match m.region region, openingView d region id with
    | some g, some v =>
      finish id ⟨0, v.base, 0, m.self * 2 ^ 50 + g.viewAt v.slot, v.slot⟩ (modView region v.slot (fun v => { v with opening := none }) d)
    | _, _ => d

/-- SNAP_OPEN (R79). -/
def execSnapOpen (id : Nat) (s : State) : Host.Outcome State Fault Refusal :=
  liftDp (fun m d => match controlTask d id [0x60] with
    | some t => openView m id (recRegion t.record) d
    | none => d) s

/-- SNAP_DRAFT (R79, R80). -/
def execSnapDraft (id : Nat) (s : State) : Host.Outcome State Fault Refusal :=
  liftDp (fun m d => match controlTask d id [0x61] with
    | some t => openView m id (recRegion t.record) d
    | none => d) s

/-- The reserved frame that a copy of a base frame goes to: one where the base frame lies, and otherwise in the other tier of its half, and otherwise in the other half (R80). -/
def copyLoc (m : Mgt) (d : Dp) (base : Nat) : Loc :=
  let l := (frameRec m d base).loc
  if locFailed m d base l then ⟨!l.far, l.half, if l.far then 4 * l.half else 8 * l.half⟩ else l

/-- DRAFT_FRAME_COPY (R80): a shared frame's copy completes, and the writes that wait for it go on. -/
def execDraftFrameCopy (region slot frame : Nat) (s : State) : Host.Outcome State Fault Refusal :=
  liftDp (fun m d => match m.region region, (anyView d region slot).bind (·.draft) with
    | some r, some dr =>
      match dr.reserved, assoc dr.copying frame with
      | f :: rest, some _ =>
        let base := mappedFrame r dr.map frame
        let d := setFrame { frameRec m d f with loc := copyLoc m d base } d
        let d := copyFrame m base f region d
        settle m (modDraft region slot (fun dr => { dr with
          map := setKey dr.map frame f, copies := setKey dr.copies frame f, copying := dropKey dr.copying frame, reserved := rest }) d)
      | _, _ => d
    | _, _ => d) s

/-! ### Recalls and invalidations (R82, R87) -/

/-- Directory entries of lines in a range of pool offsets. -/
def entriesIn (d : Dp) (lo hi : Nat) : List DirEntry := d.coh.dir.filter fun e => lo ≤ e.line * 64 && e.line * 64 < hi

/-- Lines of a range that are busy. -/
def busyIn (d : Dp) (lo hi : Nat) : Bool := d.coh.trackers.any fun t => lo ≤ t.line * 64 && t.line * 64 < hi

/-- Take back every copy that an entry's holders have: holders outside the package are snooped, and an entry of none is freed. -/
def recallEntry (m : Mgt) (e : DirEntry) (d : Dp) : Dp :=
  if busy d e.line then d
  else
    let hs := snoopsFor m .write none e
    if hs.isEmpty then dropEntry e.line d
    else openTracker m e.line .daras { (default : Msg) with opcode := 0x48, addr := m.self * 2 ^ 50 + e.line * 64, bwClass := m.pkg.hkClass } hs 3 d

/-- Take back the copies of several lines. -/
def recallAll (m : Mgt) (es : List DirEntry) (d : Dp) : Dp := es.foldl (fun d e => recallEntry m e d) d

/-! ### Publishing (R82, R83) -/

/-- SNAP_PUBLISH (R82, step 1): every line of the draft held modified is recalled. -/
def execSnapPublish (id : Nat) (s : State) : Host.Outcome State Fault Refusal :=
  liftDp (fun m d => match controlTask d id [0x62] with
    | some t =>
      let region := recRegion t.record
      let slot := fieldAt t.record 6 7 0
      match m.region region with
      | some g =>
        if t.prog.stage ≠ 0 then d
        else if regionDead m d region then failTask id 0x21 region d
        else
          let d := modTask id (fun t => { t with state := .running, prog := { t.prog with stage := 1 } }) d
          settle m (recallAll m ((entriesIn d (g.viewAt slot) (g.viewAt slot + g.length)).filter (·.owned)) d)
      | none => d
    | none => d) s

/-- Does a frame map reach a poisoned line? -/
def mapPoisoned (d : Dp) (g : Region) (map : List (Nat × Nat)) : Bool := d.store.poison.any fun l => (frameUnder g map (l / 1024)).isSome

/-- The commit: the head becomes base + 1 with the draft's map, other drafts of the base become STALE, and the slot shows the new version (R82 step 4, R83). -/
def commitDraft (m : Mgt) (region slot : Nat) (dr : Draft) (d : Dp) : Dp :=
  let n := dr.base + 1
  let d := modSnap region (fun s => { s with
    head := n
    versions := s.versions ++ [⟨n, .head, dr.map⟩]
    views := s.views.map fun v =>
      if v.slot = slot then { v with shown := .version n, committed := true }
      else match v.shown with
        | .draft x => if x.base = dr.base && x.state = .draft then { v with shown := .draft { x with state := .stale } } else v
        | .version _ => v }) d
  regradeRegion m region (dr.reserved.foldl (fun d f => giveFrame f d) d)

/-- Entries of head-view lines that lie in replaced frames (R82 step 5). -/
def headEntries (g : Region) (d : Dp) (frames : List Nat) : List DirEntry :=
  frames.flatMap fun i => entriesIn d (g.base + i * 65536) (g.base + (i + 1) * 65536)

/-- Is a head-view line of a replaced frame busy? -/
def headBusy (g : Region) (d : Dp) (frames : List Nat) : Bool :=
  frames.any fun i => busyIn d (g.base + i * 65536) (g.base + (i + 1) * 65536)

/-- A publish completes once no cached head-view line of a replaced frame is left. -/
def endPublish (m : Mgt) (id region slot : Nat) (g : Region) (frames : List Nat) (d : Dp) : Dp :=
  let d := recallAll m (headEntries g d frames) d
  if headBusy g d frames || !(headEntries g d frames).isEmpty then d
  else
    let n := ((anyView d region slot).map (·.base)).getD 0
    finish id ⟨0, n, 0, 0, 0⟩ (modView region slot (fun v => { v with publish := none, committed := false }) d)

/-- PUBLISH_RECALL_DONE (R82, steps 2 to 5). -/
def execPublishRecallDone (id : Nat) (s : State) : Host.Outcome State Fault Refusal :=
  liftDp (fun m d => match controlTask d id [0x62] with
    | some t =>
      let region := recRegion t.record
      let slot := fieldAt t.record 6 7 0
      match m.region region, d.snap region, anyView d region slot with
      | some g, some sr, some v =>
        if t.prog.stage = 2 then settle m (endPublish m id region slot g t.prog.seen d)
        else if t.prog.stage ≠ 1 then d
        else
          let lo := g.viewAt slot
          let owned := (entriesIn d lo (lo + g.length)).filter (·.owned)
          if busyIn d lo (lo + g.length) then d
          else if !owned.isEmpty then settle m (recallAll m owned d)
          else match v.draft with
            | none => d
            | some dr =>
              let unfreeze := fun (f : Draft → Draft) (d : Dp) => modDraft region slot (fun x => f { x with frozen := false }) (modView region slot (fun v => { v with publish := none }) d)
              if !dr.copying.isEmpty then d
              else if regionDead m d region then failTask id 0x21 region (unfreeze id' d)
              else if mapPoisoned d g dr.map then failTask id 0x20 region (unfreeze id' d)
              else if dr.base ≠ sr.head then failTask id 0x26 sr.head (unfreeze (fun x => { x with state := .stale }) d)
              else
                let frames := dr.copies.map (·.1)
                let d := commitDraft m region slot dr d
                let d := modTask id (fun t => { t with prog := { t.prog with stage := 2, seen := frames } }) d
                settle m (endPublish m id region slot g frames d)
      | _, _, _ => d
    | none => d) s
where
  /-- A draft left as it is. -/
  id' (x : Draft) : Draft := x

/-! ### Closing (R87, R88) -/

/-- SNAP_CLOSE (R87): the slot is closing, and the close waits for those who use it. -/
def execSnapClose (id : Nat) (s : State) : Host.Outcome State Fault Refusal :=
  liftDp (fun _ d => match controlTask d id [0x63] with
    | some t =>
      modView (recRegion t.record) (fieldAt t.record 6 7 0) (fun v => if v.closing.isNone then { v with closing := some (some id) } else v)
        (modTask id (fun t => { t with state := .running }) d)
    | none => d) s

/-- Accepted tasks that name a view slot and have not ended, but for the one that closes it. -/
def viewUsers (d : Dp) (region slot : Nat) (closer : Option Nat) : Bool :=
  d.tasks.tasks.any fun t => some t.id ≠ closer && t.bind.views.any fun v => v.1 = region && v.2.1 = slot

/-- VIEW_CLOSE_DONE (R87): with its tasks and publish ended, the slot's cached lines are invalidated, and the slot is freed. -/
def execViewCloseDone (region slot : Nat) (s : State) : Host.Outcome State Fault Refusal :=
  liftDp (fun m d => match m.region region, anyView d region slot with
    | some g, some v =>
      match v.closing with
      | none => d
      | some closer =>
        let waiting := (closer.bind d.task).any fun t => t.state ≠ .running && t.result.isNone
        let copying := (v.draft.map fun dr => !dr.copying.isEmpty).getD false
        if viewUsers d region slot closer || v.publish.isSome || waiting || copying then d
        else
          let lo := g.viewAt slot
          let d := recallAll m (entriesIn d lo (lo + g.length)) d
          if busyIn d lo (lo + g.length) || !(entriesIn d lo (lo + g.length)).isEmpty then settle m d
          else
            let d := freeView m region slot d
            settle m (match closer with
              | some id => finish id ⟨0, v.base, 0, 0, 0⟩ d
              | none => d)
    | _, _ => d) s

/-- Every view of a submitter slot starts to close (R88). -/
def closeViewsOf (owner : Nat) (d : Dp) : Dp :=
  { d with snaps := { d.snaps with regions := d.snaps.regions.map fun s =>
      { s with views := modWhere s.views (fun v => v.owner = owner && v.closing.isNone && v.opening.isNone) fun v => { v with closing := some none } } } }

/-- Is a view of a submitter slot still open or closing? -/
def ownsViews (d : Dp) (owner : Nat) : Bool := d.snaps.regions.any fun s => s.views.any (·.owner = owner)

end Sys2Proof.Machine
end

