-- ==== Sys2Proof/Machine/Kv.lean ====
section
/-! DEFINITION. KV sessions: pages, summaries, and the operations that create, append to, commit, abandon, fork and drop them (chapter "Snapshots and KV sessions", R89 to R99). -/

namespace Sys2Proof.Machine

/-! ### Sessions and pages -/

/-- A session of a region. -/
def Dp.session (d : Dp) (region session : Nat) : Option KvSession := d.snaps.sessions.find? fun s => s.region = region && s.session = session

/-- Change a session. -/
def modSession (region session : Nat) (f : KvSession → KvSession) (d : Dp) : Dp :=
  { d with snaps := { d.snaps with sessions := modWhere d.snaps.sessions (fun s => s.region = region && s.session = session) f } }

/-- A page. -/
def Dp.page (d : Dp) (id : Nat) : Option KvPage := d.snaps.pages.find? (·.id = id)

/-- Change a page. -/
def modPage (id : Nat) (f : KvPage → KvPage) (d : Dp) : Dp :=
  { d with snaps := { d.snaps with pages := modWhere d.snaps.pages (·.id = id) f } }

/-- The head dimension of a region. -/
def Region.kvDim (g : Region) : Nat := 16 * g.kvDim16

/-- Bytes of one token's keys, or values. -/
def Region.kvToken (g : Region) : Nat := g.kvHeads * g.kvDim * (fmtBits g.kvFormat / 8)

/-- Frames of a page's data (R90, Table 5). -/
def Region.kvFrames (g : Region) : Nat := ceilDiv (256 * g.kvToken) 65536

/-- Bytes of a page summary, padded to a multiple of 64 (R92). -/
def Region.summaryLen (g : Region) : Nat := roundUp (64 + 6 * g.kvHeads * g.kvDim) 64

/-- Bytes that a page's summary and page table entry take from the free store. -/
def Region.summarySlot (g : Region) : Nat := roundUp (g.summaryLen + 32) 64

/-- Where a frame of a KV region is first placed (R28, R39). -/
def kvLoc (m : Mgt) (g : Region) (f : Nat) : Loc :=
  let half := if g.affinity = 1 then 1 else if g.affinity = 2 then 0 else firstHalf m f
  let far := if g.tier = 1 then false else if g.tier = 2 then true else firstFar m f
  if far then ⟨true, half, (halfChannels m half).getD (f / 2 % max 1 (halfChannels m half).length) (8 * half)⟩
  else ⟨false, half, 4 * half + f / 2 % 4⟩

/-- Frames taken for a KV region are fresh, and lie where the region's tier and half put them. -/
def placeFrames (m : Mgt) (g : Region) (first n : Nat) (d : Dp) : Dp :=
  (List.range n).foldl (fun d i => setFrame ⟨first + i, kvLoc m g (first + i), 0, 0, true, false, false, none⟩ d) d

/-- Space for a summary, from a frame that has a slot left or from the free store; answers none where there is none. -/
def takeSummary (m : Mgt) (g : Region) (d : Dp) : Option (Nat × Dp) :=
  let size := g.summarySlot
  let per := max 1 (65536 / size)
  let frames := ceilDiv size 65536
  match d.snaps.summarySpace.find? fun x => x.1 = size && x.2.2.length < per with
  | some x =>
    let k := ((List.range per).find? (· ∉ x.2.2)).getD 0
    some (x.2.1 * 65536 + k * size, { d with snaps := { d.snaps with summarySpace := modWhere d.snaps.summarySpace (· = x) fun y => (y.1, y.2.1, k :: y.2.2) } })
  | none => match takeRun frames d.store.free with
    | none => none
    | some (f, rest) =>
      let d := placeFrames m g f frames { d with store := { d.store with free := rest } }
      some (f * 65536, { d with snaps := { d.snaps with summarySpace := d.snaps.summarySpace ++ [(size, f, [0])] } })

/-- Return a summary's space; a frame left empty returns to the free store. -/
def giveSummary (g : Region) (at_ : Nat) (d : Dp) : Dp :=
  let size := g.summarySlot
  let frames := ceilDiv size 65536
  match d.snaps.summarySpace.find? fun x => x.1 = size && x.2.1 * 65536 ≤ at_ && at_ < (x.2.1 + frames) * 65536 with
  | none => d
  | some x =>
    let used := x.2.2.filter (· ≠ (at_ - x.2.1 * 65536) / size)
    if used.isEmpty then
      (List.range frames).foldl (fun d i => giveFrame (x.2.1 + i) d)
        { d with snaps := { d.snaps with summarySpace := d.snaps.summarySpace.erase x } }
    else { d with snaps := { d.snaps with summarySpace := modWhere d.snaps.summarySpace (· = x) fun y => (y.1, y.2.1, used) } }

/-- Take a page and its summary space from the free store (R94). -/
def takePage (m : Mgt) (g : Region) (session layer index : Nat) (d : Dp) : Option (Nat × Dp) :=
  match takeRun g.kvFrames d.store.free with
  | none => none
  | some (f, rest) =>
    let d := placeFrames m g f g.kvFrames { d with store := { d.store with free := rest } }
    match takeSummary m g d with
    | none => none
    | some (at_, d) =>
      let n := d.snaps.nextPage
      some (n, { d with snaps := { d.snaps with nextPage := n + 1, pages := d.snaps.pages ++ [⟨n, g.id, session, layer, index, 0, f, none, at_, 1⟩] } })

/-- Pages taken one after another for layers and indices; answers none where the free store cannot supply them all. -/
def takePages (m : Mgt) (g : Region) (session : Nat) : List (Nat × Nat) → Dp → Option (List (Nat × Nat × Nat) × Dp)
  | [], d => some ([], d)
  | (l, i) :: rest, d =>
    match takePage m g session l i d with
    | none => none
    | some (n, d) => (takePages m g session rest d).map fun r => ((l, i, n) :: r.1, r.2)

/-- Lower a page's share count; at zero its frames and summary return to the free store (R98). -/
def dropPage (m : Mgt) (id : Nat) (d : Dp) : Dp :=
  match d.page id with
  | none => d
  | some p =>
    if p.share > 1 then modPage id (fun p => { p with share := p.share - 1 }) d
    else match m.region p.region with
      | none => d
      | some g =>
        let d := { d with snaps := { d.snaps with pages := d.snaps.pages.filter (·.id ≠ id) } }
        giveSummary g p.summaryAt ((List.range g.kvFrames).foldl (fun d i => giveFrame (p.data + i) d) d)

/-! ### Page bytes -/

/-- Bytes written into a page's data for a task, line by line, each counted; guarded lines are waited for (R36, R90, R393, R443). -/
def pageStore (m : Mgt) (id : Nat) (page : KvPage) (off : Nat) (data : Bytes) (d : Dp) : Dp :=
  let t := (d.task id).getD default
  (pieces (page.data * 65536 + off) data).foldl (fun d p =>
    let l := readLine m d page.region p.1
    let d := countTouch m (.task id) (m.newMsg 0x07 m.self t.part t.cls p.1 0 []) p.1 true d
    let g := applyChange m page.region p.1 (mergeMask l.1 p.2.1 p.2.2) (l.2 && p.2.2 ≠ fullMask) t.part t.cls d
    if g.1.isEmpty then g.2
    else
      let q := m.newMsg 0x06 m.self t.part t.cls (m.self * 2 ^ 50 + p.1) 0 []
      let d := oneMore id g.2
      { d with coh := { d.coh with trackers := d.coh.trackers ++ [⟨p.1 / 64, .task id, q, [], none, g.1, none, false, 4⟩] } }) d

/-- One key row of a page, as values. -/
def keyRow (m : Mgt) (d : Dp) (g : Region) (p : KvPage) (token head : Nat) : List FVal :=
  let e := fmtBits g.kvFormat / 8
  let off := p.data * 65536 + token * g.kvToken + head * g.kvDim * e
  let n := g.kvDim * e
  let lines := (List.range ((off + n - 1) / 64 - off / 64 + 1)).map fun i => (off / 64 + i) * 64
  let b := ((lines.flatMap fun a => (readLine m d p.region a).1).drop (off % 64)).take n
  (List.range g.kvDim).map fun i => decodeElem g.kvFormat (elemAt g.kvFormat b i)

/-- A BF16 code of a summary under a rounding: NaN is 0x7FC0 (R93). -/
def summaryCode (mode : Round) (v : Option FVal) : Bytes :=
  match v with
  | none => natBytes 2 0x7FC0
  | some x => natBytes 2 (encodeFloat bf16 mode false x)

/-- Mean, maximum and minimum of one head over a page's first `n` tokens (R92, R93): NaN elements take no part. -/
def headSummary (g : Region) (rows : List (List FVal)) : Bytes :=
  let column := fun j => (rows.map fun r => r.getD j fzero).filter fun v => !v.isNan
  let part := fun (f : List FVal → Option FVal) mode => (List.range g.kvDim).flatMap fun j =>
    let c := column j
    summaryCode mode (if c.isEmpty then none else f c)
  part (fun c => some ((c.foldl FVal.add fzero).div (fnat c.length))) .rne
  ++ part (fun c => some (c.foldl FVal.max (c.headD fzero))) .up
  ++ part (fun c => some (c.foldl FVal.min (c.headD fzero))) .down

/-- The summary of a page's first `n` tokens (R92, Table 7). -/
def pageSummary (m : Mgt) (d : Dp) (g : Region) (session : Nat) (p : KvPage) (n : Nat) : Bytes :=
  let head := wordsBytes [p.index * 2 ^ 32 + n * 2 ^ 24 + g.kvHeads * 2 ^ 16 + g.kvDim16 * 2 ^ 8 + p.layer, session * 2 ^ 48, 0, 0, 0, 0, 0, 0]
  fit g.summaryLen (head ++ (List.range g.kvHeads).flatMap fun h => headSummary g ((List.range n).map fun i => keyRow m d g p i h))

/-- A page holds `n` committed tokens, and its summary is built over them (R92). -/
def buildSummary (m : Mgt) (g : Region) (session page n : Nat) (d : Dp) : Dp :=
  match d.page page with
  | none => d
  | some p =>
    let s := pageSummary m d g session p n
    let d := (List.range (g.summaryLen / 64)).foldl (fun d i => (applyChange m g.id (p.summaryAt + 64 * i) (slice s (64 * i) 64) false g.partition m.pkg.hkClass d).2) d
    modPage page (fun p => { p with tokens := n, summary := some s }) d

/-! ### Acceptance -/

/-- The session that a record names. -/
def recSession (r : Bytes) : Nat := fieldAt r 6 47 32

/-- The number that asks for any free session (R161). -/
def anySession : Nat := 0xFFFF

/-- The format checks of step 5 for the KV opcodes (R158, R161). -/
def kvFormatOk (op : Nat) (r : Bytes) (late damage : Nat) : Bool :=
  late = 0 && damage = 0 && fieldAt r 6 51 48 = 0 && (List.range 5).all (fun i => wordAt r (10 + i) = 0)
  && (op = 0x69 || (wordAt r 8 = 0 && wordAt r 9 = 0))
  && (match op with
      | 0x69 => fieldAt r 6 31 16 = 0 && 1 ≤ fieldAt r 6 7 0 && fieldAt r 6 7 0 ≤ 128 && fieldAt r 7 63 32 = 0
      | 0x6A => fieldAt r 6 31 8 = 0 && fieldAt r 7 63 32 = 0
      | 0x6C => fieldAt r 6 15 0 = 0 && fieldAt r 7 63 40 = 0 && fieldAt r 7 39 0 ≠ 0
      | _ => fieldAt r 6 31 0 = 0 && wordAt r 7 = 0)

/-- Step 8 for the KV opcodes (R161): region, session numbers and layer. -/
def kvRegionOk (m : Mgt) (part op : Nat) (r : Bytes) : Bool :=
  match m.region (recRegion r) with
  | some g =>
    g.kind = 3 && g.partition = part
    && (recSession r < g.kvSessions || (op = 0x68 && recSession r = anySession))
    && (op ≠ 0x6C || fieldAt r 6 31 16 < g.kvSessions || fieldAt r 6 31 16 = anySession)
    && (op ≠ 0x69 || fieldAt r 6 15 8 < g.kvLayers)
  | none => false

/-- Pending tokens of a layer. -/
def KvSession.pendingOf (s : KvSession) (layer : Nat) : Nat := s.pending.getD layer 0

/-- A session whose pages lie on a failed device with no surviving copy is LOST (R99). -/
def sessionLost (m : Mgt) (d : Dp) (g : Region) (s : KvSession) : Bool :=
  s.state = .lost || s.pages.any fun p => match d.page p.2.2 with
    | some x => (List.range g.kvFrames).any fun i => deadFrame m d g.id ((x.data + i) * 65536)
    | none => false

/-- FAIL_CONFLICT with the present version. -/
def conflict (s : KvSession) : Verdict := .ok (some ⟨0x26, s.version, 0, 0, 0⟩)

/-- A named session of a region, as a task of a slot meets it; one that a task is about to create is FREE to every opcode but those that create. -/
def metSession (d : Dp) (region session : Nat) : Option KvSession := (d.session region session).filter (·.creating.isNone)

/-- Step 10 for the KV opcodes (R94 to R99, Table 8). -/
def kvStep10 (m : Mgt) (d : Dp) (owner op : Nat) (r : Bytes) : Verdict :=
  let region := recRegion r
  let g := (m.region region).getD default
  let base := fieldAt r 7 31 0
  if op = 0x68 then
    if recSession r = anySession then .ok none
    else if (d.session region (recSession r)).isSome then stateReject else .ok none
  else match metSession d region (recSession r) with
    | none => stateReject
    | some s =>
      let lost := regionDead m d region || sessionLost m d g s
      if op = 0x6D then
        if lost then .ok none else if s.state = .active then .ok none else stateReject
      else if s.state = .dropping then stateReject
      else if op = 0x6C && fieldAt r 6 31 16 ≠ anySession && (d.session region (fieldAt r 6 31 16)).isSome then stateReject
      else if lost then lostVerdict region
      else if op ≠ 0x6C && s.committing.isSome then stateReject
      else match op with
        | 0x69 =>
          if s.state = .active then (if base = s.version then .ok none else conflict s)
          else if s.holder = some owner && base = s.version then .ok none else conflict s
        | 0x6A =>
          if s.state = .active then stateReject
          else if s.holder ≠ some owner || base ≠ s.version then conflict s
          else if (List.range g.kvLayers).all fun l => s.pendingOf l = fieldAt r 6 7 0 then .ok none else stateReject
        | 0x6B => if s.state = .active then stateReject else if s.holder = some owner then .ok none else conflict s
        | 0x6C => if fieldAt r 7 39 0 > s.length then stateReject else .ok none
        | _ => stateReject

/-- The lowest free session number of a region. -/
def freeSession (g : Region) (d : Dp) : Option Nat := (List.range g.kvSessions).find? fun n => (d.session g.id n).isNone

/-- Pages that an append's positions need and that the layer does not have yet. -/
def newPages (s : KvSession) (layer first n : Nat) : List (Nat × Nat) :=
  ((List.range ((first + n - 1) / 128 - first / 128 + 1)).map fun i => (layer, first / 128 + i)).filter fun x =>
    !s.pages.any fun p => p.1 = x.1 && p.2.1 = x.2

/-- Step 11 for the KV opcodes (R89, R94, R97). -/
def kvStep11 (m : Mgt) (d : Dp) (op : Nat) (r : Bytes) : Option (Nat × Nat) :=
  let g := (m.region (recRegion r)).getD default
  match op with
  | 0x68 => if recSession r = anySession && (freeSession g d).isNone then some (0x16, 0x07) else none
  | 0x69 => match metSession d g.id (recSession r) with
    | some s =>
      let layer := fieldAt r 6 15 8
      let n := fieldAt r 6 7 0
      let first := s.length + s.pendingOf layer
      if s.pendingOf layer + n > 4096 then some (0x16, 0x04)
      else if first + n > 2 ^ 39 then some (0x16, 0x08)
      else if (takePages m g s.session (newPages s layer first n) d).isNone then some (0x16, 0x03) else none
    | none => none
  | 0x6C =>
    if fieldAt r 6 31 16 = anySession && (freeSession g d).isNone then some (0x16, 0x07)
    else if fieldAt r 7 39 0 % 128 ≠ 0 && (takePages m g 0 ((List.range g.kvLayers).map fun l => (l, 0)) d).isNone then some (0x16, 0x03)
    else none
  | _ => none

/-- A session that a task creates, at version 1 (R94, R97). -/
def newSession (g : Region) (n length task : Nat) (pages : List (Nat × Nat × Nat)) : KvSession :=
  ⟨g.id, n, .active, length, 1, none, List.replicate g.kvLayers 0, pages, some task, none⟩

/-- A fork: whole pages below T are shared, and the page that holds position T − 1 is copied and summarised for every layer (R97). -/
def forkSession (m : Mgt) (g : Region) (id target t : Nat) (s : KvSession) (d : Dp) : Dp :=
  let whole := s.pages.filter fun p => (p.2.1 + 1) * 128 ≤ t
  let d := whole.foldl (fun d p => modPage p.2.2 (fun x => { x with share := x.share + 1 }) d) d
  let parts := if t % 128 = 0 then [] else (List.range g.kvLayers).map fun l => (l, t / 128)
  match takePages m g target parts d with
  | none => d
  | some (got, d) =>
    let d := got.foldl (fun d x =>
      match (s.pages.find? fun p => p.1 = x.1 && p.2.1 = x.2.1).bind fun p => d.page p.2.2, d.page x.2.2 with
      | some src, some dst =>
        buildSummary m g target x.2.2 (t % 128) ((List.range g.kvFrames).foldl (fun d i => copyFrame m (src.data + i) (dst.data + i) g.id d) d)
      | _, _ => d) d
    { d with snaps := { d.snaps with sessions := d.snaps.sessions ++ [newSession g target t id (whole ++ got)] } }

/-- What a KV record does when it is accepted (R94, R95, R97, R155). -/
def kvAccept (m : Mgt) (id owner op : Nat) (r : Bytes) (d : Dp) : Dp :=
  let g := (m.region (recRegion r)).getD default
  let n := recSession r
  match op with
  | 0x68 =>
    let k := if n = anySession then (freeSession g d).getD 0 else n
    let d := modTask id (fun t => { t with bind := { t.bind with session := some (g.id, k) } }) d
    { d with snaps := { d.snaps with sessions := d.snaps.sessions ++ [newSession g k 0 id []] } }
  | 0x69 => match metSession d g.id n with
    | some s =>
      let layer := fieldAt r 6 15 8
      let count := fieldAt r 6 7 0
      let first := s.length + s.pendingOf layer
      match takePages m g n (newPages s layer first count) d with
      | none => d
      | some (got, d) =>
        let pages := s.pages ++ got
        let d := modSession g.id n (fun s => { s with
          state := .appending, holder := some owner, pages := pages, pending := s.pending.modify layer (· + count) }) d
        modTask id (fun t => { t with bind := { t.bind with
          tokens := first, version := s.version, pages := (pages.filter (·.1 = layer)).map (·.2) } }) d
    | none => d
  | 0x6A => modSession g.id n (fun s => { s with committing := some (id, fieldAt r 6 7 0) }) d
  | 0x6C => match metSession d g.id n with
    | some s =>
      let target := if fieldAt r 6 31 16 = anySession then (freeSession g d).getD 0 else fieldAt r 6 31 16
      forkSession m g id target (fieldAt r 7 39 0) s (modTask id (fun t => { t with bind := { t.bind with session := some (g.id, target) } }) d)
    | none => d
  | 0x6D => modTask id (fun t => { t with bind := { t.bind with version := ((d.session g.id n).map (·.version)).getD 0 } })
      (modSession g.id n (fun s => { s with state := .dropping }) d)
  | _ => d

/-- Pages of a session are let go, and the session ceases to exist. -/
def removeSession (m : Mgt) (region session : Nat) (d : Dp) : Dp :=
  match d.session region session with
  | none => d
  | some s =>
    s.pages.foldl (fun d p => dropPage m p.2.2 d)
      { d with snaps := { d.snaps with sessions := d.snaps.sessions.filter fun x => !(x.region = region && x.session = session) } }

/-- What ending without its effect undoes: a session that was to be created, a commit or a drop that was not made (R152). -/
def kvUndo (m : Mgt) (id op : Nat) (r : Bytes) (d : Dp) : Dp :=
  match d.snaps.sessions.find? fun s => s.creating = some id with
  | some s => removeSession m s.region s.session d
  | none =>
    let d := { d with snaps := { d.snaps with sessions := modWhere d.snaps.sessions (fun s => (s.committing.map (·.1)) = some id) fun s => { s with committing := none } } }
    if op = 0x6D then modSession (recRegion r) (recSession r) (fun s => if s.state = .dropping then { s with state := .active } else s) d else d

/-! ### The operations -/

/-- A session that a task was to create is there. -/
def createDone (m : Mgt) (id : Nat) (t : Task) (tokens : Nat) (d : Dp) : Dp :=
  let region := recRegion t.record
  if regionDead m d region then failTask id 0x21 region d
  else
    let n := (t.bind.session.map (·.2)).getD 0
    finish id ⟨0, 1, 0, tokens, n⟩ (modSession region n (fun s => { s with creating := none }) d)

/-- KV_CREATE (R94). -/
def execKvCreate (id : Nat) (s : State) : Host.Outcome State Fault Refusal :=
  liftDp (fun m d => match controlTask d id [0x68] with
    | some t => createDone m id t 0 d
    | none => d) s

/-- KV_FORK (R97). -/
def execKvFork (id : Nat) (s : State) : Host.Outcome State Fault Refusal :=
  liftDp (fun m d => match controlTask d id [0x6C] with
    | some t => createDone m id t (fieldAt t.record 7 39 0) d
    | none => d) s

/-- KV_APPEND: n tokens' keys and values are written at the positions taken at acceptance (R90, R94). -/
def appendBody (m : Mgt) (id : Nat) : Acc Result := do
  let d ← get
  let t := (d.task id).getD default
  let g := (m.region (recRegion t.record)).getD default
  let n := fieldAt t.record 6 7 0
  checkWindow m t.part (wordAt t.record 8) (n * g.kvToken)
  checkWindow m t.part (wordAt t.record 9) (n * g.kvToken)
  let k ← load m id true (wordAt t.record 8) (n * g.kvToken)
  let v ← load m id true (wordAt t.record 9) (n * g.kvToken)
  let d ← get
  if regionDead m d g.id then failWith 0x21 g.id else pure ()
  (List.range n).forM fun i =>
    let pos := t.bind.tokens + i
    match (t.bind.pages.find? (·.1 = pos / 128)).bind fun p => d.page p.2 with
    | some p => act fun d =>
      pageStore m id p (128 * g.kvToken + pos % 128 * g.kvToken) (slice v (i * g.kvToken) g.kvToken)
        (pageStore m id p (pos % 128 * g.kvToken) (slice k (i * g.kvToken) g.kvToken) d)
    | none => pure ()
  let pending := ((d.session g.id (recSession t.record)).map fun s => s.pendingOf (fieldAt t.record 6 15 8)).getD 0
  pure ⟨0, t.bind.version, 0, pending, 0⟩

/-- KV_APPEND (R94, R95). -/
def execKvAppend (id : Nat) (s : State) : Host.Outcome State Fault Refusal :=
  liftDp (fun m d => match controlTask d id [0x69] with
    | some _ => settle m (runTask m id (appendBody m id) d)
    | none => d) s

/-- KV_COMMIT (R94): the rebuild of summaries starts. -/
def execKvCommit (id : Nat) (s : State) : Host.Outcome State Fault Refusal :=
  liftDp (fun m d => match controlTask d id [0x6A] with
    | some t =>
      if regionDead m d (recRegion t.record) then failTask id 0x21 (recRegion t.record) d
      else modTask id (fun t => { t with state := .running, prog := { t.prog with stage := 1 } }) d
    | none => d) s

/-- KV_COMMIT_REBUILD_DONE (R94): summaries of the pages whose committed tokens change are built, and length and version advance in one step. -/
def execKvCommitRebuildDone (id : Nat) (s : State) : Host.Outcome State Fault Refusal :=
  liftDp (fun m d => match controlTask d id [0x6A] with
    | some t =>
      let g := (m.region (recRegion t.record)).getD default
      let n := recSession t.record
      match d.session g.id n with
      | some x =>
        if t.prog.stage ≠ 1 || (x.committing.map (·.1)) ≠ some id then d
        else
          let count := fieldAt t.record 6 7 0
          let len := x.length + count
          let changed := x.pages.filter fun p => x.length < 128 * (p.2.1 + 1) && 128 * p.2.1 < len
          let d := changed.foldl (fun d p => buildSummary m g n p.2.2 (min 128 (len - 128 * p.2.1)) d) d
          let d := modSession g.id n (fun s => { s with
            state := .active, length := len, version := s.version + 1, holder := none, pending := List.replicate g.kvLayers 0, committing := none }) d
          settle m (finish id ⟨0, (x.version + 1) % 2 ^ 32, 0, len, 0⟩ d)
      | none => d
    | none => d) s

/-- Pending tokens are discarded with the pages reserved for them, and the session is ACTIVE again (R94). -/
def abandonAppends (m : Mgt) (region session : Nat) (d : Dp) : Dp :=
  match d.session region session, m.region region with
  | some s, some g =>
    if s.state ≠ .appending then d
    else
      let spare := s.pages.filter fun p => 128 * p.2.1 ≥ s.length
      let d := spare.foldl (fun d p => dropPage m p.2.2 d) d
      modSession region session (fun s => { s with
        state := .active, holder := none, committing := none, pending := List.replicate g.kvLayers 0, pages := s.pages.filter fun p => 128 * p.2.1 < s.length }) d
  | _, _ => d

/-- KV_ABANDON (R94). -/
def execKvAbandon (id : Nat) (s : State) : Host.Outcome State Fault Refusal :=
  liftDp (fun m d => match controlTask d id [0x6B] with
    | some t =>
      let region := recRegion t.record
      let n := recSession t.record
      if regionDead m d region then failTask id 0x21 region d
      else finish id ⟨0, ((d.session region n).map (·.version)).getD 0, 0, 0, 0⟩ (abandonAppends m region n d)
    | none => d) s

/-- Tasks that read a session (R96, R98). -/
def sessionReaders (d : Dp) (region session : Nat) : Bool :=
  d.tasks.tasks.any fun t => t.opcode = 0x32 && t.bind.session = some (region, session)

/-- KV_DROP (R98): the session is freed, or stays DROPPING until its last reader ends. -/
def execKvDrop (id : Nat) (s : State) : Host.Outcome State Fault Refusal :=
  liftDp (fun m d => match controlTask d id [0x6D] with
    | some t =>
      let region := recRegion t.record
      let n := recSession t.record
      let d := if sessionReaders d region n then d else removeSession m region n d
      finish id ⟨0, t.bind.version, 0, 0, 0⟩ d
    | none => d) s

/-- KV_DROP_RELEASE (R98): with its last reader gone, a DROPPING session's pages are released. -/
def execKvDropRelease (region session : Nat) (s : State) : Host.Outcome State Fault Refusal :=
  liftDp (fun m d =>
    let dropping := ((d.session region session).map fun s => decide (s.state = .dropping)).getD false
    let asked := d.tasks.tasks.any fun t => t.opcode = 0x6D && recRegion t.record = region && recSession t.record = session && t.result.isNone
    if dropping && !asked && !sessionReaders d region session then removeSession m region session d else d) s

/-- Appends that a submitter slot holds are abandoned (R88, R95). -/
def abandonAppendsOf (m : Mgt) (owner : Nat) (d : Dp) : Dp :=
  (d.snaps.sessions.filter fun s => s.holder = some owner).foldl (fun d s => abandonAppends m s.region s.session d) d

/-! ### Reads of a session (R96, R161, R233) -/

/-- Step 8 for a read of a session: region, session and layer (R161, R233). -/
def readRegionOk (m : Mgt) (part region session layer : Nat) : Bool :=
  match m.region region with
  | some g => g.kind = 3 && g.partition = part && session < g.kvSessions && layer < g.kvLayers
  | none => false

/-- Step 10 for a read of T tokens of a session's layer (R96, R99). -/
def readStep10 (m : Mgt) (d : Dp) (owner region session layer t : Nat) : Verdict :=
  match metSession d region session with
  | none => stateReject
  | some s =>
    if s.state = .dropping then stateReject
    else if regionDead m d region || sessionLost m d ((m.region region).getD default) s then lostVerdict region
    else
      let most := s.length + (if s.holder = some owner then s.pendingOf layer else 0)
      if t > most then stateReject else .ok none

/-- A reader keeps the length, version and pages it began with (R96). -/
def bindRead (id region session layer t : Nat) (d : Dp) : Dp :=
  match metSession d region session with
  | none => d
  | some s => modTask id (fun x => { x with bind := { x.bind with
      session := some (region, session), tokens := t, version := s.version, committed := s.length,
      pages := (s.pages.filter (·.1 = layer)).map (·.2) } }) d

end Sys2Proof.Machine
end

