-- ==== Sys2Proof/Machine/Meld.lean ====
section
/-! DEFINITION. MLD_GATHER, MLD_ADD and the combining entries of the home atomic units (chapter "Meld gather, scatter and atomic adds"). -/

namespace Sys2Proof.Machine

/-- Positions of a window of an index list (R287). -/
def window : Nat := 4096

/-- An index of an index list (R286). -/
inductive Idx where
  | valid (row : Nat)
  | missing
  | invalid
  deriving DecidableEq, Repr

/-- Classify an index of 4 or 8 bytes against the row count. -/
def classify (wide : Bool) (rows v : Nat) : Idx :=
  if v < rows then .valid v else if v = (if wide then 2 ^ 64 - 1 else 2 ^ 32 - 1) then .missing else .invalid

/-- The indices of window w. -/
def loadWindow (m : Mgt) (id addr : Nat) (wide : Bool) (rows n w : Nat) : Acc (List Idx) := do
  let len := if wide then 8 else 4
  let count := min window (n - w * window)
  streamCheck m id (addr + w * window * len) (count * len)
  let b ← load m id false (addr + w * window * len) (count * len)
  pure ((List.range count).map fun i => classify wide rows (leNat (slice b (len * i) len)))

/-- The groups of a window: each distinct valid row, with its positions (R287). -/
def groupsOf (ix : List Idx) : List (Nat × List Nat) :=
  let rows := (ix.filterMap fun i => match i with | .valid r => some r | _ => none).eraseDups
  rows.map fun r => (r, (List.range ix.length).filter fun i => ix.getD i .missing = .valid r)

/-- Valid, missing and invalid indices of a window. -/
def countIdx (ix : List Idx) : Nat × Nat × Nat :=
  ((ix.filter fun i => match i with | .valid _ => true | _ => false).length, (ix.filter (· = .missing)).length, (ix.filter (· = .invalid)).length)

/-! ### MLD_GATHER -/

/-- The operands of MLD_GATHER (R288, Table 1). -/
structure GatherOps where
  table : Nat
  index : Nat
  out : Nat
  positions : Nat
  rows : Nat
  n : Nat
  rowLen : Nat
  wide : Bool
  pack : Bool
  deriving DecidableEq, Repr

/-- Read the operand map. -/
def gatherOps (r : Bytes) : GatherOps where
  table := wordAt r 6
  index := wordAt r 7
  out := wordAt r 8
  positions := wordAt r 9
  rows := fieldAt r 10 63 24
  n := fieldAt r 11 63 32
  rowLen := fieldAt r 11 31 0
  wide := bitAt (wordAt r 12) 63
  pack := bitAt (wordAt r 12) 62

/-- An address lies in post space (R350). -/
def inPost (addr : Nat) : Bool := addr % 2 ^ 50 ≥ 0x1FFFFFFC00000 && addr % 2 ^ 50 < 0x2000000000000

/-- The format checks of step 5 for MLD_GATHER (R285, R288, R351). -/
def gatherFormatOk (r : Bytes) (late damage : Nat) : Bool :=
  let o := gatherOps r
  o.table % 64 = 0 && o.index % 8 = 0 && o.out % 64 = 0 && o.positions % 64 = 0 && (o.pack || o.positions = 0)
  && 1 ≤ o.rows && 1 ≤ o.n && o.n ≤ 16777216 && 64 ≤ o.rowLen && o.rowLen ≤ 65536 && o.rowLen % 64 = 0
  && fieldAt r 10 23 0 = 0 && fieldAt r 12 61 0 = 0 && wordAt r 13 = 0 && wordAt r 14 = 0
  && (late = 0 || late = 2) && damage = 0 && (!inPost o.out || o.rowLen % 128 = 0)

/-- The stretches MLD_GATHER names. -/
def gatherExtents (r : Bytes) : List Extent :=
  let o := gatherOps r
  [inExt o.table (o.rows * o.rowLen), inExt o.index (o.n * if o.wide then 8 else 4), ⟨o.out, o.n * o.rowLen, true, true⟩]
  ++ (if o.positions ≠ 0 then [outExt o.positions (4 * o.n)] else [])

/-- A table row read once for a group, under the task's combining tag (R289, R357). -/
def gatherRow (m : Mgt) (id tag addr n : Nat) : Acc Bytes := do
  streamCheck m id addr n
  let ls ← loadLines m id false (linesOf addr n) tag
  pure (((ls.flatten).drop (addr % 64)).take n)

/-- 128 bytes posted to a slot as one TASK_POST; a post into the package's own post space stays within the package (R351). -/
def postRecord (m : Mgt) (id addr : Nat) (data : Bytes) : Acc Unit := do
  let d ← get
  match d.task id with
  | none => stall
  | some t =>
    let q := { m.newMsg 0x20 (addr / 2 ^ 50) t.part t.cls addr 0 data with slot := addr % 0x400000 / 4096 }
    if addr / 2 ^ 50 = m.self then act fun d =>
      let q := { q with txn := freshTxn m q d }
      let d := oneMore id d
      { d with
        coh := { d.coh with nextTxn := d.coh.nextTxn + 1, txns := d.coh.txns ++ [⟨q.txn, .task id, q, m.clk.ltb, none, none, false, [], false⟩] }
        fab := { d.fab with inbox := d.fab.inbox ++ [(8, q)] } }
    else askRemote m id q

/-- A row of a gather's output: stored, or posted in pieces of 128 B (R289, R351). -/
def putRow (m : Mgt) (id addr : Nat) (data : Bytes) : Acc Unit :=
  if inPost addr then (List.range (data.length / 128)).forM fun i => postRecord m id (addr + 128 * i) (slice data (128 * i) 128)
  else store m id false addr data

/-- One window of a gather; `done` valid positions lie before it. -/
def gatherWindow (m : Mgt) (id : Nat) (o : GatherOps) (tag w : Nat) (done : Nat) : Acc (Nat × Nat × Nat × Nat) := do
  let ix ← loadWindow m id o.index o.wide o.rows o.n w
  let gs := groupsOf ix
  let _ ← loadLines m id false (gs.flatMap fun g => linesOf (o.table + g.1 * o.rowLen) o.rowLen).eraseDups tag
  let rows ← gs.mapM fun g => gatherRow m id tag (o.table + g.1 * o.rowLen) o.rowLen
  let rowOf := fun r => (((gs.map (·.1)).zip rows).find? (·.1 = r)).map (·.2) |>.getD []
  let c := countIdx ix
  if o.pack then
    let valid := (List.range ix.length).filterMap fun i => match ix.getD i .missing with | .valid r => some (i, r) | _ => none
    (List.range valid.length).forM fun j => do
      let p := valid.getD j (0, 0)
      putRow m id (o.out + (done + j) * o.rowLen) (rowOf p.2)
      if o.positions ≠ 0 then store m id false (o.positions + 4 * (done + j)) (natBytes 4 (w * window + p.1)) else pure ()
  else
    (List.range ix.length).forM fun i =>
      putRow m id (o.out + (w * window + i) * o.rowLen)
        (match ix.getD i .missing with | .valid r => rowOf r | _ => zeros o.rowLen)
  pure (gs.length, c)

/-- The windows of a gather or an add that are left, each recorded as it ends: `next` the window, `count` groups, `rerouted` valid, `skipped` missing, `started` invalid. -/
def runWindows (m : Mgt) (id n : Nat) (body : Nat → Nat → Acc (Nat × Nat × Nat × Nat)) : Nat → Acc Unit
  | 0 => pure ()
  | k + 1 => do
    let d ← get
    let p := ((d.task id).map (·.prog)).getD default
    if p.next * window ≥ n then pure ()
    else
      let r ← body p.next p.rerouted
      act (modTask id fun t => { t with arrived := [], prog := { t.prog with
        next := p.next + 1, count := p.count + r.1, rerouted := p.rerouted + r.2.1, skipped := p.skipped + r.2.2.1, started := p.started + r.2.2.2 } })
      runWindows m id n body k

/-- The completion of a Meld task (R286, R295). -/
def meldResult (id : Nat) : Acc Result := do
  let d ← get
  let p := ((d.task id).map (·.prog)).getD default
  pure ⟨0, min p.count 0xFFFFFFFF, if p.skipped + p.started > 0 then flagDropped else 0, p.rerouted * 2 ^ 32 + p.started, p.skipped⟩

/-- MLD_GATHER (R287 to R289, R295). -/
def gatherBody (m : Mgt) (id : Nat) : Acc Result := do
  let d ← get
  let t := (d.task id).getD default
  let o := gatherOps t.record
  (gatherExtents t.record).forM fun e => checkWindow m t.part e.addr e.bytes
  readyOutput m id o.out (o.n * o.rowLen)
  if o.positions ≠ 0 then readyOutput m id o.positions (4 * o.n) else pure ()
  runWindows m id o.n (gatherWindow m id o (fieldAt t.record 0 15 0)) (ceilDiv o.n window + 1)
  meldResult id

/-- MLD_GATHER. -/
def execMldGather (id : Nat) (s : State) : Host.Outcome State Fault Refusal :=
  liftDp (fun m d => match runningTask d id [0x48] with
    | some _ => settle m (runTask m id (gatherBody m id) d)
    | none => d) s

/-! ### MLD_ADD -/

/-- The operands of MLD_ADD (R290, Table 2). -/
structure AddOps where
  table : Nat
  index : Nat
  src : Nat
  rows : Nat
  n : Nat
  dim : Nat
  sf : Nat
  tf : Nat
  wide : Bool
  scale : Nat
  deriving DecidableEq, Repr

/-- Read the operand map. -/
def addOps (r : Bytes) : AddOps where
  table := wordAt r 6
  index := wordAt r 7
  src := wordAt r 8
  rows := fieldAt r 9 63 24
  n := fieldAt r 10 63 32
  dim := fieldAt r 10 31 0
  sf := fieldAt r 11 63 56
  tf := fieldAt r 11 55 48
  wide := bitAt (wordAt r 11) 47
  scale := fieldAt r 11 31 0

/-- The format checks of step 5 for MLD_ADD (R285, R290). -/
def addFormatOk (r : Bytes) (late damage : Nat) : Bool :=
  let o := addOps r
  o.table % 64 = 0 && o.index % 8 = 0 && o.src % 64 = 0 && 1 ≤ o.rows && 1 ≤ o.n && o.n ≤ 16777216 && 1 ≤ o.dim && o.dim ≤ 16384
  && o.sf ∈ [0x03, 0x04, 0x05] && o.tf ∈ [0x03, 0x04, 0x05]
  && fieldAt r 9 23 0 = 0 && fieldAt r 11 46 32 = 0 && wordAt r 12 = 0 && wordAt r 13 = 0 && wordAt r 14 = 0
  && (late = 0 || late = 2) && damage = 0

/-- The stretches MLD_ADD names. -/
def addExtents (r : Bytes) : List Extent :=
  let o := addOps r
  [outExt o.table (o.rows * rowBytes o.tf o.dim), inExt o.index (o.n * if o.wide then 8 else 4), inExt o.src (o.n * rowBytes o.sf o.dim)]

/-- Elements of a line of a table format. -/
def perLine (f : Nat) : Nat := 512 / fmtBits f

/-- Send the addends of one row for line `j`: masked FP32 values (R291, R347). -/
def sendAdds (m : Mgt) (id : Nat) (o : AddOps) (tag group row j : Nat) (vs : List FVal) : Acc Unit :=
  let n := perLine o.tf
  let part := (vs.drop (j * n)).take n
  let payload := part.flatMap (fun v => natBytes 4 (f32Code v)) ++ zeros (4 * (n - part.length))
  postAtomic m id 0x10 (o.table + row * rowBytes o.tf o.dim + 64 * j) ((2 ^ part.length - 1) * 2 ^ 32 + o.tf) payload tag group

/-- One group's burst: within the package one sum for each line; to another package one message for each row and line (R292, R293). -/
def addGroup (m : Mgt) (id : Nat) (o : AddOps) (tag group row : Nat) (srcs : List (List FVal)) : Acc Unit :=
  let lines := ceilDiv o.dim (perLine o.tf)
  if o.table / 2 ^ 50 = m.self then
    let sums := (List.range o.dim).map fun i => openSum (openKey id (group * 16384 + i)) fzero (srcs.map fun v => v.getD i fzero)
    (List.range lines).forM fun j => sendAdds m id o tag group row j sums
  else srcs.forM fun v => (List.range lines).forM fun j => sendAdds m id o tag group row j v

/-- One window of an add. -/
def addWindow (m : Mgt) (id : Nat) (o : AddOps) (tag w : Nat) (_ : Nat) : Acc (Nat × Nat × Nat × Nat) := do
  let ix ← loadWindow m id o.index o.wide o.rows o.n w
  let gs := groupsOf ix
  let d ← get
  let before := ((d.task id).map (·.prog.count)).getD 0
  let srcs ← gs.mapM fun g => g.2.mapM fun i => do
    let a := o.src + (w * window + i) * rowBytes o.sf o.dim
    streamCheck m id a (rowBytes o.sf o.dim)
    let b ← load m id false a (elemBytes o.sf o.dim)
    pure ((rowValues o.sf o.dim b []).map fun v => fmul (f32 v) (f32Val o.scale))
  (List.range gs.length).forM fun i => addGroup m id o tag (before + i) (gs.getD i (0, [])).1 (srcs.getD i [])
  pure (gs.length, countIdx ix)

/-- MLD_ADD (R290 to R293, R295). -/
def addBody (m : Mgt) (id : Nat) : Acc Result := do
  let d ← get
  let t := (d.task id).getD default
  let o := addOps t.record
  (addExtents t.record).forM fun e => checkWindow m t.part e.addr e.bytes
  runWindows m id o.n (addWindow m id o (fieldAt t.record 0 15 0)) (ceilDiv o.n window + 1)
  meldResult id

/-- MLD_ADD. -/
def execMldAdd (id : Nat) (s : State) : Host.Outcome State Fault Refusal :=
  liftDp (fun m d => match runningTask d id [0x49] with
    | some _ => settle m (runTask m id (addBody m id) d)
    | none => d) s

/-! ### Applying held adds -/

/-- The message that an entry's application stands for: an ADD_FLOAT of its sums, from within the package. -/
def entryMsg (m : Mgt) (e : AddEntry) : Msg :=
  let mask := e.sums.foldl (fun a x => a ||| 2 ^ x.1) 0
  let payload := (List.range (perLine (max e.format 3))).flatMap fun i => natBytes 4 (((assoc e.sums i).getD 0).toNat)
  m.newMsg 0x10 m.self 0 0 e.pool (mask * 2 ^ 32 + e.format) payload

/-- Apply one combining entry: its line's other holders are snooped first (R123, R292). An add to a poisoned line leaves it poisoned. -/
def applyEntry (m : Mgt) (e : AddEntry) (d : Dp) : Dp :=
  let line := lineOf e.pool
  let f := e.line / 1024
  let half := ((d.task e.task).map fun t => halfOf t.cluster).getD (homeSlice line)
  let via := Via.host (Fin.ofNat 2 half)
  let q := entryMsg m e
  if busy d line || d.store.moves.any (·.covers f) || frameHeld d f then d
  else
    let d := { d with store := { d.store with combine := d.store.combine.erase e } }
    match frameHome m d e with
    | none => d
    | some r =>
      match d.entry line with
      | none => serve m via q r (e.line * 64) false d
      | some x =>
        let hs := snoopsFor m .atomic none x
        if hs.isEmpty then serve m via q r (e.line * 64) false d else openTracker m line via q hs 0 d
where
  /-- The region whose line the entry holds adds for. -/
  frameHome (m : Mgt) (d : Dp) (e : AddEntry) : Option Nat :=
    match storePlace m d e.pool with
    | some (r, _, _) => some r
    | none => none

/-- COMBINING_ENTRY_APPLY (R292): the oldest entry of a line is applied to memory. -/
def execCombiningEntryApply (line : Nat) (s : State) : Host.Outcome State Fault Refusal :=
  liftDp (fun m d => match d.store.combine.find? fun e => lineOf e.pool = line with
    | some e => settle m (applyEntry m e d)
    | none => d) s

end Sys2Proof.Machine
end

