-- ==== Sys2Proof/Machine/Search.lean ====
section
/-! DEFINITION. HST_SEARCH and MERGE (chapter "Hairstreak vector search"). -/

namespace Sys2Proof.Machine

/-! ### The shard -/

/-- An index descriptor (R266, Table 1). -/
structure Index where
  addr : Nat
  format : Nat
  state : Nat
  kind : Nat
  metric : Nat
  vformat : Nat
  dim : Nat
  sketch256 : Nat
  pqM : Nat
  lists : Nat
  rows : Nat
  centroids : Nat
  directory : Nat
  vectors : Nat
  project : Nat
  tag : Nat
  reserved : Bool
  deriving DecidableEq, Repr

/-- Read a descriptor's 64 bytes. -/
def indexOf (addr : Nat) (b : Bytes) : Index where
  addr := addr
  format := fieldAt b 0 63 56
  state := fieldAt b 0 55 52
  kind := fieldAt b 0 51 48
  metric := fieldAt b 0 47 44
  vformat := fieldAt b 0 39 32
  dim := fieldAt b 0 31 16
  sketch256 := fieldAt b 0 15 8
  pqM := fieldAt b 0 7 0
  lists := fieldAt b 1 63 32
  rows := fieldAt b 1 31 0
  centroids := wordAt b 2
  directory := wordAt b 3
  vectors := wordAt b 4
  project := wordAt b 5
  tag := fieldAt b 6 63 32
  reserved := fieldAt b 0 43 40 ≠ 0 || fieldAt b 6 31 0 ≠ 0 || wordAt b 7 ≠ 0

/-- A RECALL index. -/
def Index.recall (x : Index) : Bool := x.kind = 1

/-- Bytes of a row of D BF16 values. -/
def Index.rowLen (x : Index) : Nat := roundUp (2 * x.dim) 64

/-- Sketch bits. -/
def Index.sketchBits (x : Index) : Nat := 256 * x.sketch256

/-- Dimensions of a subvector. -/
def Index.sub (x : Index) : Nat := x.dim / x.pqM

/-- Bytes of one codebook of a BULK index, from a 64-byte boundary. -/
def Index.bookLen (x : Index) : Nat := roundUp (512 * x.sub) 64

/-- Bytes of the projection or the codebook set. -/
def Index.projectLen (x : Index) : Nat := if x.recall then x.sketchBits * x.rowLen else x.pqM * x.bookLen

/-- Bytes of a list entry (R267). -/
def Index.entryLen (x : Index) : Nat := 16 + roundUp (if x.recall then 32 * x.sketch256 else x.pqM) 16

/-- The operands of HST_SEARCH (R270, Table 4). -/
structure SearchOps where
  index : Nat
  query : Nat
  out : Nat
  bitmap : Nat
  lo : Nat
  hi : Nat
  q : Nat
  k : Nat
  nprobe : Nat
  rerank : Nat
  attrOn : Bool
  tag : Nat
  deriving DecidableEq, Repr

/-- Read the operand map. -/
def searchOps (r : Bytes) : SearchOps where
  index := wordAt r 6
  query := wordAt r 7
  out := wordAt r 8
  bitmap := wordAt r 9
  lo := fieldAt r 10 63 32
  hi := fieldAt r 10 31 0
  q := fieldAt r 11 63 48
  k := fieldAt r 11 47 32
  nprobe := fieldAt r 11 31 16
  rerank := fieldAt r 11 15 0
  attrOn := bitAt (wordAt r 12) 63
  tag := fieldAt r 12 31 0

/-- The format checks of step 5 for HST_SEARCH (R264, R270, R271). -/
def searchFormatOk (r : Bytes) (late damage : Nat) : Bool :=
  let o := searchOps r
  1 ≤ o.q && o.q ≤ 64 && 1 ≤ o.k && o.k ≤ 1024 && 1 ≤ o.nprobe && o.nprobe ≤ 1024
  && fieldAt r 12 62 32 = 0 && wordAt r 13 = 0 && wordAt r 14 = 0 && (late = 0 || late = 2) && damage = 0

/-- Bytes of a result block of k entries (R276). -/
def resultLen (k : Nat) : Nat := 64 + 16 * k

/-- The index that a record names, from the descriptor as it stands in this package's store. -/
def peekIndex (m : Mgt) (d : Dp) (addr : Nat) : Option Index :=
  match place m d addr with
  | .store r _ a => let l := readLine m d r a; if l.2 then none else some (indexOf addr l.1)
  | _ => none

/-- The stretches HST_SEARCH names; those of the shard are checked against its own region (R266, R271). -/
def searchExtents (m : Mgt) (d : Dp) (r : Bytes) : List Extent :=
  let o := searchOps r
  let x := (peekIndex m d o.index).getD (indexOf 0 [])
  [inExt o.index 64, inExt o.query (o.q * roundUp (2 * x.dim) 64), outExt o.out (o.q * resultLen o.k)]
  ++ (if o.bitmap ≠ 0 then [inExt o.bitmap (ceilDiv x.rows 8)] else [])

/-- Is the shard fit to be searched (R271)? -/
def indexReady (m : Mgt) (d : Dp) (o : SearchOps) (x : Index) : Bool :=
  x.format = 1 && x.state = 1 && (x.kind = 1 || x.kind = 2) && (x.metric = 1 || x.metric = 2) && !x.reserved
  && 16 ≤ x.dim && x.dim ≤ 4096 && x.dim % 16 = 0
  && (if x.recall then x.vformat ∈ [0x01, 0x03, 0x04, 0x06] && 1 ≤ x.sketch256 && x.sketch256 ≤ 16 && x.pqM = 0
      else x.vformat = 0 && x.sketch256 = 0 && 1 ≤ x.pqM && x.pqM ≤ 128 && x.dim % x.pqM = 0 && x.vectors = 0)
  && 1 ≤ x.lists && x.lists ≤ 1048576 && 1 ≤ x.rows && x.directory % 64 = 0 && x.tag = o.tag
  && inRegion m d x.addr x.centroids (x.lists * x.rowLen) && inRegion m d x.addr x.directory (16 * x.lists)
  && inRegion m d x.addr x.project x.projectLen
  && (!x.recall || inRegion m d x.addr x.vectors (x.rows * rowBytes x.vformat x.dim))
  && (if x.recall then o.k ≤ o.rerank && o.rerank ≤ 4096 else o.rerank = 0)

/-! ### Distances -/

/-- A row of BF16 values. -/
def bf16Row (b : Bytes) (n : Nat) : List FVal := (List.range n).map fun i => decodeFloat bf16 (leNat (slice b (2 * i) 2))

/-- The distance of two vectors under a metric: 1 L2, 2 IP (R272). -/
def metricDistance (metric key : Nat) (q x : List FVal) : FVal :=
  if metric = 1 then openSum key fzero ((List.zipWith fsub q x).map fun v => v.mul v)
  else (openSum key fzero (List.zipWith FVal.mul q x)).neg

/-- Ranks by distance: nearer first, NaN last, the lower number first among equals. -/
def nearer (a b : FVal × Nat) : Bool :=
  if a.1.isNan then b.1.isNan && a.2 < b.2
  else if b.1.isNan then true
  else a.1.lt b.1 || (!(b.1.lt a.1) && a.2 < b.2)

/-- The `n` nearest of numbered distances. -/
def nearestOf (n : Nat) (l : List (FVal × Nat)) : List Nat := ((sortBy nearer l).take n).map (·.2)

/-- A query's sketch: bit b is 1 when row b of the projection times the query is at least zero (R268). -/
def sketchOf (key : Nat) (project : List (List FVal)) (q : List FVal) : List Bool :=
  (List.range project.length).map fun b =>
    let s := openSum (key + b) fzero (List.zipWith FVal.mul q (project.getD b []))
    !s.isNan && !s.lt fzero

/-- The Hamming distance of a sketch and a code. -/
def hamming (s : List Bool) (code : Bytes) : Nat :=
  ((List.range s.length).filter fun i => s.getD i false != bitAt (code.getD (i / 8) 0).toNat (i % 8)).length

/-! ### Lists -/

/-- An entry of a list (R267, Table 3). -/
structure ListEntry where
  id : Nat
  row : Nat
  attr : Nat
  code : Bytes
  deriving DecidableEq, Repr, Inhabited

/-- The identifier of an empty entry. -/
def emptyId : Nat := 0xFFFFFFFFFFFFFFFF

/-- One list as read: its entries, or none where it is bad (R269). -/
def readList (m : Mgt) (id : Nat) (x : Index) (l : Nat) : Acc (Option (List ListEntry)) := do
  let e ← load m id false (x.directory + 16 * l) 16
  let at_ := wordAt e 0
  let n := fieldAt e 1 63 32
  let d ← get
  if n = 0 then pure (some [])
  else if !inRegion m d x.addr at_ (n * x.entryLen) then pure none
  else
    streamCheck m id at_ (n * x.entryLen)
    let b ← load m id false at_ (n * x.entryLen)
    let es := (List.range n).map fun i =>
      let y := slice b (i * x.entryLen) x.entryLen
      (⟨wordAt y 0, fieldAt y 1 63 32, fieldAt y 1 31 0, y.drop 16⟩ : ListEntry)
    pure (if es.any fun y => y.row ≥ x.rows then none else some es)

/-- Is an entry admitted (R273)? -/
def admitted (m : Mgt) (id : Nat) (o : SearchOps) (e : ListEntry) : Acc Bool := do
  if e.id = emptyId then pure false
  else if o.attrOn && !(o.lo ≤ e.attr && e.attr ≤ o.hi) then pure false
  else if o.bitmap = 0 then pure true
  else
    let b ← load m id false (o.bitmap + e.row / 8) 1
    pure (bitAt (b.getD 0 0).toNat (e.row % 8))

/-- The score of a product code for one query and list (R272). -/
def productScore (x : Index) (books : List (List (List FVal))) (key : Nat) (q c : List FVal) (code : Bytes) : FVal :=
  let base := if x.metric = 1 then List.zipWith fsub q c else q
  let parts := (List.range x.pqM).map fun s =>
    let v := (base.drop (s * x.sub)).take x.sub
    let e := (books.getD s []).getD (code.getD s 0).toNat []
    metricDistance x.metric (key + s) v e
  openSum key fzero (if x.metric = 1 then parts else parts ++ [metricDistance 2 (key + x.pqM) q c])

/-! ### Results (R275, R276) -/

/-- A result: identifier, distance as an FP32 code, package. -/
structure Hit where
  id : Nat
  distance : Nat
  package : Nat
  deriving DecidableEq, Repr, Inhabited

/-- Results in final order: increasing distance, NaN after infinity, the lower identifier first among equals (R272). -/
def orderHits (hs : List Hit) : List Hit := sortBy (fun a b => nearer (f32Val a.distance, a.id) (f32Val b.distance, b.id)) hs

/-- A padding entry. -/
def padHit : Hit := ⟨emptyId, 0x7F800000, 0⟩

/-- A result block's bytes. -/
def resultBlock (k scanned adm lists bad : Nat) (hs : List Hit) : Bytes :=
  let hs := hs.take k
  let n := hs.length
  wordsBytes [n * 2 ^ 32 + k * 2 ^ 16 + (if n < k then 1 else 0), scanned, adm, lists * 2 ^ 32 + bad, 0, 0, 0, 0]
  ++ (hs ++ List.replicate (k - n) padHit).flatMap fun h => wordsBytes [h.id, h.distance * 2 ^ 32 + h.package * 2 ^ 18]

/-- What one query has found. -/
structure Found where
  hits : List Hit
  scanned : Nat
  adm : Nat
  lists : Nat
  bad : Nat
  deriving DecidableEq, Repr, Inhabited

/-- The search of one query over the lists that it probes. -/
def searchQuery (m : Mgt) (id : Nat) (o : SearchOps) (x : Index) (lists : List (Nat × Option (List ListEntry)))
    (cents : List (List FVal)) (project : List (List FVal)) (books : List (List (List FVal))) (qi : Nat) (q : List FVal) : Acc Found := do
  let key := openKey id (qi * 2 ^ 40)
  let probed := nearestOf o.nprobe ((List.range cents.length).map fun l => (metricDistance x.metric (key + l) q (cents.getD l []), l))
  let mine := probed.map fun l => (l, (lists.find? (·.1 = l)).bind (·.2))
  let good := mine.filterMap fun p => p.2.map fun es => (p.1, es)
  let all := good.flatMap fun p => p.2.map fun e => (p.1, e)
  let keep ← all.filterM fun p => admitted m id o p.2
  let hits ← if x.recall then do
      let s := sketchOf (key + 2 ^ 30) project q
      let best := (sortBy (fun (a b : Nat × ListEntry) => a.1 < b.1 || (a.1 = b.1 && a.2.row < b.2.row))
        (keep.map fun p => (hamming s p.2.code, p.2))).take o.rerank
      best.mapM fun p => do
        let b ← load m id false (x.vectors + p.2.row * rowBytes x.vformat x.dim) (elemBytes x.vformat x.dim)
        pure (⟨p.2.id, f32Code (metricDistance x.metric (key + 2 ^ 31 + p.2.row) q (rowValues x.vformat x.dim b [])), x.addr / 2 ^ 50⟩ : Hit)
    else pure ((List.range keep.length).map fun i =>
      let p := keep.getD i default
      (⟨p.2.id, f32Code (productScore x books (key + 2 ^ 32 + 256 * i) q (cents.getD p.1 []) p.2.code), x.addr / 2 ^ 50⟩ : Hit))
  pure ⟨(orderHits hits).take o.k, all.length, keep.length, mine.length, (mine.filter (·.2.isNone)).length⟩

/-- HST_SEARCH (R272 to R277). -/
def searchBody (m : Mgt) (id : Nat) : Acc Result := do
  let d ← get
  let t := (d.task id).getD default
  let o := searchOps t.record
  let db ← load m id false o.index 64
  let x := indexOf o.index db
  (searchExtents m d t.record).forM fun e => checkWindow m t.part e.addr e.bytes
  readyOutput m id o.out (o.q * resultLen o.k)
  let qb ← load m id true o.query (o.q * x.rowLen)
  let qs := (List.range o.q).map fun i => bf16Row (slice qb (i * x.rowLen) x.rowLen) x.dim
  streamCheck m id x.centroids (x.lists * x.rowLen)
  let cb ← load m id false x.centroids (x.lists * x.rowLen)
  let cents := (List.range x.lists).map fun l => bf16Row (slice cb (l * x.rowLen) x.rowLen) x.dim
  let pb ← load m id false x.project x.projectLen
  let project := if x.recall then (List.range x.sketchBits).map fun b => bf16Row (slice pb (b * x.rowLen) x.rowLen) x.dim else []
  let books := if x.recall then [] else (List.range x.pqM).map fun s =>
    (List.range 256).map fun i => bf16Row (slice pb (s * x.bookLen + 2 * x.sub * i) (2 * x.sub)) x.sub
  let probes := ((List.range o.q).flatMap fun i =>
    nearestOf o.nprobe ((List.range x.lists).map fun l => (metricDistance x.metric (openKey id (i * 2 ^ 40) + l) (qs.getD i []) (cents.getD l []), l))).eraseDups
  let lists ← probes.mapM fun l => do
    let r ← readList m id x l
    pure (l, r)
  let found ← (List.range o.q).mapM fun i => searchQuery m id o x lists cents project books i (qs.getD i [])
  (lists.filter (·.2.isNone)).forM fun l => act (logEvent m 3 4 1 (some t.part) 0 t.slot o.index [l.1])
  (List.range o.q).forM fun i =>
    let f := found.getD i default
    store m id true (o.out + i * resultLen o.k) (resultBlock o.k f.scanned f.adm f.lists f.bad f.hits)
  let short := (found.filter fun f => f.hits.length < o.k).length
  let bad := (lists.filter (·.2.isNone)).length
  pure ⟨0, x.tag, if short > 0 then flagShort else 0, (found.map (·.hits.length)).sum, min short 65535 * 65536 + min bad 65535⟩

/-- HST_SEARCH. -/
def execHstSearch (id : Nat) (s : State) : Host.Outcome State Fault Refusal :=
  liftDp (fun m d => match runningTask d id [0x40] with
    | some _ => settle m (runTask m id (searchBody m id) d)
    | none => d) s

/-! ### MERGE (R278 to R280) -/

/-- The operands of MERGE (Table 7). -/
structure MergeOps where
  list : Nat
  out : Nat
  parts : Nat
  q : Nat
  kIn : Nat
  k : Nat
  dedup : Bool
  deriving DecidableEq, Repr

/-- Read the operand map. -/
def mergeOps (r : Bytes) : MergeOps where
  list := wordAt r 6
  out := wordAt r 7
  parts := fieldAt r 8 63 48
  q := fieldAt r 8 47 32
  kIn := fieldAt r 8 31 16
  k := fieldAt r 8 15 0
  dedup := bitAt (wordAt r 9) 63

/-- The format checks of step 5 for MERGE. -/
def mergeFormatOk (r : Bytes) (late damage : Nat) : Bool :=
  let o := mergeOps r
  2 ≤ o.parts && o.parts ≤ 4096 && 1 ≤ o.q && o.q ≤ 64 && 1 ≤ o.kIn && o.kIn ≤ 1024 && 1 ≤ o.k && o.k ≤ 1024
  && fieldAt r 9 62 0 = 0 && (List.range 5).all (fun i => wordAt r (10 + i) = 0) && late = 0 && damage = 0

/-- The stretches MERGE names; its parts are named in its list. -/
def mergeExtents (r : Bytes) : List Extent :=
  let o := mergeOps r
  [inExt o.list (8 * o.parts), outExt o.out (o.q * resultLen o.k)]

/-- The real entries of a part's block for one query, at most `kIn`. -/
def blockHits (kIn : Nat) (b : Bytes) : List Hit :=
  ((List.range (min (fieldAt b 0 63 32) kIn)).map fun i =>
    let e := slice b (64 + 16 * i) 16
    (⟨wordAt e 0, fieldAt e 1 63 32, fieldAt e 1 31 18⟩ : Hit)).filter (·.id ≠ emptyId)

/-- Of entries with one identifier, only the first in final order (R278). -/
def dedupHits (hs : List Hit) : List Hit := hs.foldl (fun acc h => if acc.any (·.id = h.id) then acc else acc ++ [h]) []

/-- MERGE: the union of the parts' entries, ordered, the first k of each query (R279). -/
def mergeBody (m : Mgt) (id : Nat) : Acc Result := do
  let d ← get
  let t := (d.task id).getD default
  let o := mergeOps t.record
  (mergeExtents t.record).forM fun e => checkWindow m t.part e.addr e.bytes
  readyOutput m id o.out (o.q * resultLen o.k)
  let tbl ← load m id true o.list (8 * o.parts)
  let parts := (List.range o.parts).map fun p => wordAt tbl p
  let _ ← loadLines m id true (parts.flatMap fun a => linesOf a (o.q * resultLen o.kIn)).eraseDups
  let blocks ← (List.range o.q).mapM fun i => do
    let bs ← parts.mapM fun a => load m id true (a + i * resultLen o.kIn) (resultLen o.kIn)
    let hs := orderHits (bs.flatMap (blockHits o.kIn))
    let hs := (if o.dedup then dedupHits hs else hs).take o.k
    let total := fun w hi lo => (bs.map fun b => fieldAt b w hi lo).sum
    store m id true (o.out + i * resultLen o.k)
      (resultBlock o.k (total 1 63 0 % 2 ^ 64) (total 2 63 0 % 2 ^ 64) (total 3 63 32 % 2 ^ 32) (total 3 31 0 % 2 ^ 32) hs)
    pure hs.length
  let short := (blocks.filter (· < o.k)).length
  pure ⟨0, o.parts, if short > 0 then flagShort else 0, blocks.sum, min short 65535 * 65536⟩

/-- MERGE. -/
def execMerge (id : Nat) (s : State) : Host.Outcome State Fault Refusal :=
  liftDp (fun m d => match runningTask d id [0x41] with
    | some _ => settle m (runTask m id (mergeBody m id) d)
    | none => d) s

end Sys2Proof.Machine
end

