-- ==== Sys2Proof/Machine/Accept.lean ====
section
/-! DEFINITION. Task records: the checks of acceptance in their order, placement, completion records, and the fallback area (chapter "Tasks, tallies and completions", R147 to R171, R538). -/

namespace Sys2Proof.Machine

/-! ### Completion records -/

/-- The load byte of forerunner mode (R102): zero for a slot that no host owns. -/
def loadByte (m : Mgt) (d : Dp) (owner : Nat) : Nat :=
  if m.forerunner && (owner = 0x4000 || owner = 0x4001) then
    let p := owner - 0x4000
    min 255 (255 * (d.hostPort p).bytesLast / max 1 (m.pkg.frLimits.getD p 0 * 10000))
  else 0

/-- The 32 bytes of a completion record (R168, Table 6). -/
def cplBytes (status load alive opcode layer operator flags slot detail a b elapsed : Nat) : Bytes :=
  wordsBytes [status * 2 ^ 56 + load * 2 ^ 48 + alive * 2 ^ 40 + opcode * 2 ^ 32 + layer * 2 ^ 16 + operator,
    flags * 2 ^ 48 + slot * 2 ^ 32 + detail % 2 ^ 32, a % 2 ^ 64, b % 2 ^ 32 * 2 ^ 32 + min elapsed 0xFFFFFFFF]

/-- A record that cannot be delivered is logged whole, or its first 32 B, with its slot (R171, R451). -/
def undeliverable (m : Mgt) (part slot addr : Nat) (b : Bytes) (d : Dp) : Dp :=
  logEvent m 3 2 2 (some part) 0 slot addr ((List.range 4).map fun i => wordAt b i) d

/-- May a write be delivered to a place of this package's store: in service, not poisoned, and writable (R76, R77, R171, R537)? -/
def deliverable (m : Mgt) (d : Dp) (region : Nat) (reach : Reach) (at_ : Nat) : Bool :=
  !regionDead m d region && !deadFrame m d region at_ && !(readLine m d region at_).2
  && (match reach with
      | .plain => true
      | .head => false
      | .view s => viewWritable d region s || ((d.snap region).bind (·.view s)).any (·.closing.isSome))

/-- Write a record that the package itself forms: `id` is its task, or 0 for a rejection. Host-mapped places are the caller's concern. -/
def deliverLine (m : Mgt) (id part cls slot : Nat) (p : Nat × Bytes × Nat) (b : Bytes) (d : Dp) : Dp :=
  let tgt := p.1 / 2 ^ 50
  let code := if p.2.2 = fullMask then 0x06 else 0x07
  let q := m.newMsg code tgt part cls p.1 p.2.2 p.2.1
  if m.serves tgt && tgt ≠ m.pkg.loopId || tgt = m.self then
    match placeOffset m d (p.1 % 2 ^ 50) with
    | .store r reach a =>
      let copy : Bool := match needsCopy d r reach (frameIndex m r reach (p.1 % 2 ^ 50)) with
        | some (v, f) => mayCopy d r v f
        | none => true
      if deliverable m d r reach a && copy then arrive m (.task id) q r reach a (oneMore id d) else undeliverable m part slot p.1 b d
    | _ => undeliverable m part slot p.1 b d
  else if (openPorts m d q.epoch q.target).isEmpty && m.pkg.loopEnable && tgt = m.pkg.loopId then undeliverable m part slot p.1 b d
  else issue m (.task id) q (oneMore id d)

/-- Write a record at an address outside host-mapped space. -/
def deliver (m : Mgt) (id part cls slot addr : Nat) (b : Bytes) (d : Dp) : Dp :=
  (pieces addr b).foldl (fun d p => deliverLine m id part cls slot p b d) d

/-- The translation cluster 0 holds of a host-mapped address, for records that no task writes. -/
def dueTranslation (m : Mgt) (d : Dp) (addr : Nat) : Option (Nat × Xlt × Nat) :=
  (outWindow m addr).bind fun w =>
    let u := addr - w.poolBase + w.hostBase
    let page := u / w.pageBytes * w.pageBytes
    (d.hosts.caches.find? fun x => x.cluster = 0 && x.port = w.port && x.page = page && x.bytes = w.pageBytes && !x.invalidating).map
      fun x => (w.port, x, u % w.pageBytes)

/-- Write a rejection's completion: to the pool, or to host memory once its page is translated. -/
def deliverReject (m : Mgt) (slot part addr : Nat) (b : Bytes) (d : Dp) : Dp :=
  if hostMapped m addr then
    match outWindow m addr with
    | none => undeliverable m part slot addr b d
    | some w =>
      if w.partition ≠ part || addr + b.length > w.poolBase + w.lengthGib * 2 ^ 30 || !(d.hostPort w.port).ats then undeliverable m part slot addr b d
      else match dueTranslation m d addr with
        | some (port, x, off) =>
          if x.write then emit (.hostWrite port (x.base + off) b) (hostMoved port part 0 b.length d) else undeliverable m part slot addr b d
        | none =>
          let u := addr - w.poolBase + w.hostBase
          askPage m.clk.ltb w.port (u / w.pageBytes * w.pageBytes) w.pageBytes 0 0
            { d with tasks := { d.tasks with due := d.tasks.due ++ [(slot, part, addr, b)] } }
  else deliver m 0 part 0 slot addr b d

/-- Rejections that waited for a translation try again. -/
def retryDue (m : Mgt) (d : Dp) : Dp :=
  d.tasks.due.foldl (fun d x => deliverReject m x.1 x.2.1 x.2.2.1 x.2.2.2 d) { d with tasks := { d.tasks with due := [] } }

/-! ### Where operands lie (R76, R77, R87, R164, R350, R392, R537) -/

/-- A stretch of pool offsets that lie together: its region and partition, its kind (9 between the length of a view and the end of its slot), its view slot, and where it ends. -/
structure Span where
  region : Nat
  part : Nat
  kind : Nat
  view : Option Nat
  stop : Nat
  deriving DecidableEq, Repr

/-- The stretch of the package's own pool that holds an offset. -/
def spanAt (m : Mgt) (off : Nat) : Option Span :=
  if bitAt off 48 then
    (m.regions.find? fun r => r.kind = 2 && r.viewBase ≤ off && off < r.viewBase + r.views * r.viewSize).map fun r =>
      let v := (off - r.viewBase) / r.viewSize
      ⟨r.id, r.partition, 2, some v, r.viewBase + v * r.viewSize + r.length⟩
  else (m.regions.find? fun r => r.kind ≠ 3 && r.base ≤ off && off < r.base + r.length).map fun r =>
    ⟨r.id, r.partition, r.kind, none, r.base + r.length⟩

/-- The stretches that a range of offsets runs through; none where a byte lies outside every region. -/
def spansOf (m : Mgt) : Nat → Nat → Nat → Option (List Span)
  | 0, _, _ => none
  | k + 1, off, n =>
    match spanAt m off with
    | none => none
    | some s =>
      if off ≥ s.stop then some [{ s with kind := 9 }]
      else if off + n ≤ s.stop then some [s]
      else (spansOf m k s.stop (off + n - s.stop)).map (s :: ·)

/-- An offset range meets post space or guard space of its package. -/
def inReserved (off n : Nat) : Bool := (off < 2 ^ 49 && off + n > 0x1FFFFFFC00000) || (off < 2 ^ 48 && off + n > 2 ^ 47)

/-- A stretch of a record lies where the partition has the right: the region number to answer where it does not (step 8). -/
def rightsFail (m : Mgt) (part : Nat) (e : Extent) : Option Nat :=
  let off := e.addr % 2 ^ 50
  let n := max e.bytes 1
  if e.post && inPost e.addr && off + n ≤ 0x2000000000000 then none
  else if inReserved off n then some 0xFFFFFFFF
  else if e.addr / 2 ^ 50 ≠ m.self || bitAt off 49 then none
  else match spansOf m (m.regions.length + 128) off n with
    | none => some 0xFFFFFFFF
    | some ss => (ss.find? fun (s : Span) => s.part ≠ part || s.kind = 9 || (s.kind = 2 && s.view.isNone && e.write)).map (·.region)

/-- The view slots of this package that a stretch reaches. -/
def viewsOf (m : Mgt) (e : Extent) : List (Nat × Nat × Bool) :=
  let off := e.addr % 2 ^ 50
  if e.addr / 2 ^ 50 ≠ m.self || bitAt off 49 || inReserved off (max e.bytes 1) then []
  else match spansOf m (m.regions.length + 128) off (max e.bytes 1) with
    | none => []
    | some ss => ss.filterMap fun s => s.view.map fun v => (s.region, v, e.write)

/-- A view slot that a record names permits it (step 10): open, not closing, and writable where the record writes it. -/
def viewPermits (d : Dp) (v : Nat × Nat × Bool) : Bool :=
  match (d.snap v.1).bind (·.view v.2.1) with
  | none => false
  | some x => x.closing.isNone && (!v.2.2 || viewWritable d v.1 v.2.1)

/-- May the partition write a completion record at an address (step 4)? -/
def completionOk (m : Mgt) (d : Dp) (part addr : Nat) : Bool :=
  let e := outExt addr 32
  let off := addr % 2 ^ 50
  if addr % 32 ≠ 0 || (rightsFail m part e).isSome then false
  else if bitAt off 49 then
    addr / 2 ^ 50 = m.self && (match outWindow m addr with | some w => w.partition = part | none => false)
  else (viewsOf m e).all (viewPermits d)

/-- A tally lies in a plain region that the partition may write (R164): the region number to answer where it does not. -/
def tallyFail (m : Mgt) (part addr : Nat) : Option Nat :=
  let off := addr % 2 ^ 50
  match rightsFail m part (outExt addr 8) with
  | some r => some r
  | none =>
    if addr / 2 ^ 50 ≠ m.self then none
    else if bitAt off 49 then some 0xFFFFFFFF
    else match spanAt m off with
      | none => some 0xFFFFFFFF
      | some s => if s.kind = 1 then none else some s.region

/-! ### Per-opcode checks -/

/-- The opcodes of R160, R202, R215, R264 and R285. -/
def listedOps : List Nat :=
  [0x01, 0x02, 0x03, 0x10, 0x11, 0x18, 0x19, 0x1A, 0x1B, 0x1C, 0x1D, 0x30, 0x31, 0x32, 0x38, 0x40, 0x41, 0x48, 0x49, 0x50,
   0x60, 0x61, 0x62, 0x63, 0x68, 0x69, 0x6A, 0x6B, 0x6C, 0x6D]

/-- An opcode that holds neither an engine context nor a cluster unit. -/
def isControl (op : Nat) : Bool := op ≤ 0x03 || (0x60 ≤ op && op ≤ 0x6D)

/-- Operand words from an index on are zero. -/
def restZero (r : Bytes) (first : Nat) : Bool := (List.range (15 - first)).all fun i => wordAt r (first + i) = 0

/-- Step 5 for the opcode's own fields (R158, R161). -/
def opFormatOk (m : Mgt) (d : Dp) (op : Nat) (r : Bytes) : Bool :=
  let late := fieldAt r 0 36 35
  let damage := fieldAt r 0 34 34
  let phase := fieldAt r 5 55 48
  let plain : Bool := phase = 0
  match op with
  | 0x01 => plain && late = 0 && damage = 0 && restZero r 6
  | 0x02 => plain && late = 0 && damage = 0 && fieldAt r 6 63 8 = 0 && restZero r 7
  | 0x03 => plain && late = 0 && damage = 0 && restZero r 6
  | 0x10 => plain && matFormatOk false r late damage
  | 0x11 => plain && matFormatOk true r late damage
  | 0x30 => routeFormatOk r late damage phase
  | 0x31 => plain && expertFormatOk r late damage
  | 0x32 => plain && attFormatOk m r late damage
  | 0x38 => plain && encFormatOk m d r late damage
  | 0x40 => plain && searchFormatOk r late damage
  | 0x41 => plain && mergeFormatOk r late damage
  | 0x48 => plain && gatherFormatOk r late damage
  | 0x49 => plain && addFormatOk r late damage
  | 0x50 => plain && scanFormatOk r late damage
  | _ =>
    if 0x18 ≤ op && op ≤ 0x1D then plain && vecFormatOk op r late damage
    else if 0x60 ≤ op && op ≤ 0x63 then plain && snapFormatOk op r late damage
    else if 0x68 ≤ op && op ≤ 0x6D then plain && kvFormatOk op r late damage
    else false

/-- A tally address is aligned, and zero where its scope is NONE (R158). -/
def tallyFormatOk (scope addr : Nat) : Bool := addr % 8 = 0 && (scope ≠ 0 || addr = 0)

/-- Step 5 (R153, R157, R158). -/
def formatOk (m : Mgt) (d : Dp) (r : Bytes) : Bool :=
  let op := fieldAt r 0 63 56
  fieldAt r 0 55 52 = 1 && op ∈ listedOps && fieldAt r 0 51 48 = 0 && fieldAt r 5 59 56 = 0 && fieldAt r 5 47 32 = 0 && fieldAt r 15 31 0 = 0
  && tallyFormatOk (fieldAt r 5 63 62) (wordAt r 2) && tallyFormatOk (fieldAt r 5 61 60) (wordAt r 4) && opFormatOk m d op r

/-- The stretches that an opcode's operands name. -/
def opExtents (m : Mgt) (d : Dp) (op : Nat) (r : Bytes) : List Extent :=
  match op with
  | 0x10 => matExtents r
  | 0x11 => matExtents r
  | 0x30 => routeExtents r
  | 0x31 => expertExtents r
  | 0x32 => attExtents m r
  | 0x38 => encExtents r
  | 0x40 => searchExtents m d r
  | 0x41 => mergeExtents r
  | 0x48 => gatherExtents r
  | 0x49 => addExtents r
  | 0x50 => scanExtents r
  | 0x69 =>
    let n := fieldAt r 6 7 0 * ((m.region (recRegion r)).map (·.kvToken)).getD 0
    [inExt (wordAt r 8) n, inExt (wordAt r 9) n]
  | _ => if 0x18 ≤ op && op ≤ 0x1D then vecExtents op r else []

/-- The region, session and layer that an opcode names exist, and are the slot's partition's (step 8, R161, R233). -/
def objectOk (m : Mgt) (part op : Nat) (r : Bytes) : Bool :=
  if 0x60 ≤ op && op ≤ 0x63 then snapRegionOk m part (recRegion r)
  else if 0x68 ≤ op && op ≤ 0x6D then kvRegionOk m part op r
  else if op = 0x32 && (attOps r).fn ≠ 2 then readRegionOk m part (attOps r).region (attOps r).session (attOps r).layer
  else true

/-- Step 8: the detail to answer where a right is lacking. -/
def step8 (m : Mgt) (d : Dp) (part op : Nat) (r : Bytes) : Option Nat :=
  let tallies := (if fieldAt r 5 63 62 ≠ 0 then [wordAt r 2] else []) ++ (if fieldAt r 5 61 60 ≠ 0 then [wordAt r 4] else [])
  match tallies.findSome? (tallyFail m part) with
  | some x => some x
  | none =>
    if !objectOk m part op r then some (recRegion r)
    else match (opExtents m d op r).findSome? (rightsFail m part) with
      | some x => some x
      | none => if op = 0x49 && bitAt (addOps r).table 49 then some 0xFFFFFFFF else none

/-- The sealed region that holds an address of this package. -/
def sealedAt (m : Mgt) (addr : Nat) : Option Nat :=
  if addr / 2 ^ 50 ≠ m.self then none
  else ((spanAt m (addr % 2 ^ 50)).bind fun s => m.region s.region).bind fun r => if r.sealed then some r.id else none

/-- Step 9 (R262): the sealed region that a codec operation is aimed at. -/
def step9 (m : Mgt) (op : Nat) (r : Bytes) : Option Nat :=
  match op with
  | 0x10 => if (matOps r).coded then sealedAt m (matOps r).a else none
  | 0x11 => if (matOps r).coded then sealedAt m (matOps r).a else none
  | 0x31 =>
    let o := expertOps r
    if o.coded then ([o.w1, o.w2] ++ (if o.w3 = 0 then [] else [o.w3])).findSome? (sealedAt m) else none
  | 0x38 => (encExtents r).findSome? fun e => sealedAt m e.addr
  | _ => none

/-- Step 10 for LEASE_RENEW (R390). -/
def leaseStep10 (d : Dp) (m : Mgt) (owner : Nat) : Verdict :=
  if owner < 0x4000 then stateReject
  else
    let p := owner - 0x4000
    let closing := d.tasks.slots.any fun s => s.state = .closing && (m.slotEntry s.number).map (·.owner) = some owner
    if (d.lease p).state = 2 && (d.coh.walk.getD p false || closing) then stateReject else .ok none

/-- Step 10 for a ROUTE begun at phase 2 (R215, R232). -/
def routeStep10 (m : Mgt) (d : Dp) (r : Bytes) : Verdict :=
  let o := routeOps r
  if fieldAt r 5 55 48 ≠ 2 then .ok none
  else match place m d o.work with
    | .remote k => if m.composed k then .ok none else stateReject
    | .store g _ a =>
      if regionDead m d g then stateReject
      else if fieldAt (slice (readLine m d g a).1 (a % 64) 16) 1 31 0 = o.round then .ok none else stateReject
    | _ => .ok none

/-- Step 10 for HST_SEARCH (R271). -/
def searchStep10 (m : Mgt) (d : Dp) (r : Bytes) : Verdict :=
  let o := searchOps r
  match place m d o.index with
  | .store g _ a =>
    if regionDead m d g then lostVerdict g
    else if (readLine m d g a).2 then .ok none
    else match peekIndex m d o.index with
      | some x => if indexReady m d o x then .ok none else stateReject
      | none => stateReject
  | _ => stateReject

/-- Step 10 (R153). -/
def step10 (m : Mgt) (d : Dp) (slot : SlotEntry) (op : Nat) (r : Bytes) : Verdict :=
  if !((opExtents m d op r).flatMap (viewsOf m)).all (viewPermits d) then stateReject
  else if 0x60 ≤ op && op ≤ 0x63 then snapStep10 m d op r
  else if 0x68 ≤ op && op ≤ 0x6D then kvStep10 m d slot.number op r
  else match op with
    | 0x01 => leaseStep10 d m slot.owner
    | 0x30 => routeStep10 m d r
    | 0x32 => if (attOps r).fn = 2 then .ok none else readStep10 m d slot.number (attOps r).region (attOps r).session (attOps r).layer (attOps r).t
    | 0x40 => searchStep10 m d r
    | _ => .ok none

/-! ### Draft frames set aside (R81) -/

/-- The watch entry that a record matches (R447). -/
def watchMatch (d : Dp) (part : Nat) (r : Bytes) : Option WatchEntry :=
  let layer := fieldAt r 0 31 16
  let operator := fieldAt r 0 15 0
  (sortBy (fun a b => a.number < b.number) d.obs.watch).find? fun w =>
    w.kind ≠ 0 && w.partition = part && (layer &&& w.layerMask) = (w.layer &&& w.layerMask) && (operator &&& w.operatorMask) = (w.operator &&& w.operatorMask)

/-- How often a watch entry has been set (R451). -/
def watchGen (d : Dp) (n : Nat) : Nat := (d.tasks.watchSeq.filter (·.1 = n)).foldl (fun g x => max g x.2.1) 0

/-- Draft frames that a task may write and that are not yet copies: region, slot and frame. -/
def draftFrames (m : Mgt) (d : Dp) (es : List Extent) : List (Nat × Nat × Nat) :=
  (es.filter (·.write)).flatMap (fun e =>
    (viewsOf m e).flatMap fun v => match m.region v.1, (anyView d v.1 v.2.1).bind (·.draft) with
      | some g, some dr =>
        let lo := max (e.addr % 2 ^ 50) (g.viewAt v.2.1) - g.viewAt v.2.1
        let hi := min (e.addr % 2 ^ 50 + e.bytes) (g.viewAt v.2.1 + g.length) - g.viewAt v.2.1
        (((List.range (ceilDiv hi 65536 - lo / 65536)).map fun i => lo / 65536 + i).filter fun f => (assoc dr.copies f).isNone).map fun f => (v.1, v.2.1, f)
      | _, _ => []) |>.eraseDups

/-- Do the frames fit in the remaining reservation of every draft? -/
def draftsFit (d : Dp) (fs : List (Nat × Nat × Nat)) : Bool :=
  (fs.map fun f => (f.1, f.2.1)).eraseDups.all fun v =>
    match (anyView d v.1 v.2).bind (·.draft) with
    | some dr => (fs.filter fun f => f.1 = v.1 && f.2.1 = v.2).length ≤ draftLeft dr
    | none => true

/-- Set frames aside for a task. -/
def setFrames (id : Nat) (fs : List (Nat × Nat × Nat)) (d : Dp) : Dp :=
  fs.foldl (fun d f => modDraft f.1 f.2.1 (fun dr => { dr with setAside := dr.setAside ++ [(id, f.2.2)] }) d) d

/-- What a task ends with in its drafts: frames set aside and never written return to the reservation. -/
def dropSetAside (id : Nat) (d : Dp) : Dp :=
  { d with snaps := { d.snaps with regions := d.snaps.regions.map fun s =>
      { s with views := s.views.map fun v => match v.shown with
        | .draft dr => { v with shown := .draft { dr with setAside := dr.setAside.filter (·.1 ≠ id) } }
        | .version _ => v } } }

/-! ### Placement (R15, R467, R529) -/

/-- Every frame of the region that holds an address, as one stretch. -/
def wholeRegion (m : Mgt) (addr : Nat) : List Extent :=
  if addr / 2 ^ 50 ≠ m.self then []
  else match (spanAt m (addr % 2 ^ 50)) with
    | some s => match m.region s.region with
      | some g => [inExt (m.self * 2 ^ 50 + (match s.view with | some v => g.viewAt v | none => g.base)) g.length]
      | none => []
    | none => []

/-- The streamed operand of a record (R529, Table 6). -/
def streamed (m : Mgt) (op : Nat) (r : Bytes) : List Extent :=
  match op with
  | 0x10 => if (matOps r).coded then wholeRegion m (matOps r).a else (matExtents r).take 1
  | 0x11 => if (matOps r).coded then wholeRegion m (matOps r).a else (matExtents r).take 1
  | 0x30 => ((routeExtents r).drop 1).take 1
  | 0x31 => if (expertOps r).coded then wholeRegion m (expertOps r).w1 else ((expertExtents r).drop 1).take 1
  | 0x32 => if (attOps r).fn = 2 then (attExtents m r).take 1 else []
  | 0x38 => (encExtents r).take 1
  | 0x40 => wholeRegion m (searchOps r).index
  | 0x41 => []
  | 0x48 => (gatherExtents r).take 1
  | 0x49 => (addExtents r).take 1
  | 0x50 => (scanExtents r).take 1
  | _ => if 0x18 ≤ op && op ≤ 0x1D then (vecExtents op r).take 1 else []

/-- The physical frames of this package that a stretch covers. -/
def framesOf (m : Mgt) (d : Dp) (e : Extent) : List Nat :=
  if e.bytes = 0 || e.addr / 2 ^ 50 ≠ m.self then []
  else (List.range ((e.addr + e.bytes - 1) / 65536 - e.addr / 65536 + 1)).filterMap fun i =>
    match place m d ((e.addr / 65536 + i) * 65536) with
    | .store _ _ a => some (a / 65536)
    | _ => none

/-- Frames of the page data that an ATTEND streams: the named layer's pages of its range, below T. -/
def attendFrames (m : Mgt) (d : Dp) (r : Bytes) : List Nat :=
  let o := attOps r
  match d.session o.region o.session, m.region o.region with
  | some s, some g => (s.pages.filter fun p => p.1 = o.layer && o.first ≤ p.2.1 && p.2.1 < min o.rangeEnd o.pagesOfT).flatMap fun p =>
      match d.page p.2.2 with
      | some x => (List.range g.kvFrames).map (x.data + ·)
      | none => []
  | _, _ => []

/-- Frames of the result blocks of MERGE's parts, as its list names them in this package. -/
def mergeFrames (m : Mgt) (d : Dp) (r : Bytes) : List Nat :=
  let o := mergeOps r
  (List.range o.parts).flatMap fun i =>
    let a := o.list + 8 * i
    match place m d a with
    | .store g _ x => framesOf m d (inExt (leNat (slice (readLine m d g x).1 (x % 64) 8)) (o.q * resultLen o.kIn))
    | _ => []

/-- Frames of the streamed operand in the west and in the east half. -/
def frameShare (m : Mgt) (d : Dp) (op : Nat) (r : Bytes) : Nat × Nat :=
  let fs := if op = 0x32 && (attOps r).fn ≠ 2 then attendFrames m d r
    else if op = 0x41 then mergeFrames m d r
    else (streamed m op r).flatMap (framesOf m d)
  let east := (fs.filter fun f => (frameRec m d f).loc.half = 1).length
  (fs.length - east, east)

/-- Tasks queued in a half: given a cluster of it, and not yet a context or unit. -/
def queuedIn (d : Dp) (half : Nat) : Nat :=
  (d.tasks.tasks.filter fun t => halfOf t.cluster = half && t.context.isNone && !t.unitHeld && t.result.isNone).length

/-- Clusters reserved for other partitions than one (R467). -/
def reservedElsewhere (m : Mgt) (part c : Nat) : Bool :=
  ((m.image.map (·.parts)).getD []).any fun p => p.id ≠ part && bitAt p.clusters c

/-- Clusters on which a partition's tasks may run (R467). -/
def openClusters (m : Mgt) (part : Nat) : List Nat :=
  let own := ((m.part part).map (·.clusters)).getD 0
  if own ≠ 0 then setBits 8 own else (List.range 8).filter fun c => !reservedElsewhere m part c

/-- The half for a task, and the half the last tie took (R15). -/
def chooseHalf (m : Mgt) (d : Dp) (op : Nat) (r : Bytes) : Nat × Nat :=
  let s := frameShare m d op r
  if s.1 > s.2 then (0, d.tasks.tieHalf)
  else if s.2 > s.1 then (1, d.tasks.tieHalf)
  else if queuedIn d 0 < queuedIn d 1 then (0, d.tasks.tieHalf)
  else if queuedIn d 1 < queuedIn d 0 then (1, d.tasks.tieHalf)
  else (1 - d.tasks.tieHalf, 1 - d.tasks.tieHalf)

/-- Tasks placed on a cluster that have not ended. -/
def clusterLoad (d : Dp) (c : Nat) : Nat := (d.tasks.tasks.filter (·.cluster = c)).length

/-- The cluster for a task: among those of its half, or of the other where its half has none, the least loaded (R15, R467). -/
def placeTask (m : Mgt) (d : Dp) (part op : Nat) (r : Bytes) : Nat × Nat :=
  let h := chooseHalf m d op r
  let cs := openClusters m part
  let mine := cs.filter fun c => halfOf c = h.1
  ((minBy (clusterLoad d) (if mine.isEmpty then cs else mine)).getD (4 * h.1), h.2)

/-! ### Acceptance -/

/-- How a record reached the package (R150). -/
inductive Route where
  | host (port : Nat)
  | pkg (id part : Nat)
  deriving DecidableEq, Repr

/-- A rejection: one completion record, one log entry, and its counts (R153, R154, R156, R168). -/
def reject (m : Mgt) (e : SlotEntry) (route : Route) (known fallback : Bool) (status detail : Nat) (r : Bytes) (d : Dp) : Dp :=
  let s := (d.slot e.number).getD ⟨e.number, .unbound, 0, 0⟩
  let op := if known then fieldAt r 0 63 56 else 0
  let alive := if fallback || op = 0x02 then s.alive else fieldAt r 0 47 40
  let b := cplBytes status (loadByte m d e.owner) alive op (if known then fieldAt r 0 31 16 else 0) (if known then fieldAt r 0 15 0 else 0)
    0 e.number detail 0 (if fallback then s.fallback else 0) 0
  let addr := if fallback then e.rejectAddr + 32 * (s.fallback % 64) else wordAt r 1
  let d := if fallback then modSlot e.number (fun s => { s with fallback := s.fallback + 1 }) d else d
  let d := logEvent m 1 2 1 (some e.partition) (match route with | .pkg k _ => k | .host _ => 0) e.number addr [status, detail] d
  let d := countNamed 9 (countAt 0 (0x020000 + 8 * (64 * e.partition + status)) 1 d)
  settle m (deliverReject m e.number e.partition addr b d)

/-- Whether a record came by its slot's route (R150). -/
def routeOk (e : SlotEntry) : Route → Bool
  | .host p => e.owner = 0x4000 + p
  | .pkg k part => e.owner = k && e.partition = part

/-- A task as it stands when its record is accepted. -/
def newTask (m : Mgt) (d : Dp) (e : SlotEntry) (cluster : Nat) (r : Bytes) (es : List Extent) : Task where
  id := d.tasks.nextTask + 1
  slot := e.number
  part := e.partition
  record := r
  tick := m.clk.ltb
  phase := fieldAt r 5 55 48
  state := .waitContext
  cluster := cluster
  context := none
  unitHeld := false
  polling := false
  entry := (watchMatch d e.partition r).map fun w => (w, watchGen d w.number)
  result := none
  arrived := []
  outstanding := 0
  written := []
  flags := 0
  late := []
  bind := { (default : Binding) with views := es.flatMap (viewsOf m) }
  prog := default
  waitAddr := 0
  waitValue := 0
  seen := 0
  waitPackage := 0
  watchOut := []

/-- What the opcode itself takes or marks at acceptance (R155). -/
def acceptOp (m : Mgt) (id : Nat) (e : SlotEntry) (op : Nat) (r : Bytes) (d : Dp) : Dp :=
  if 0x60 ≤ op && op ≤ 0x63 then snapAccept m id e.number op r d
  else if 0x68 ≤ op && op ≤ 0x6D then kvAccept m id e.number op r d
  else if op = 0x32 && (attOps r).fn ≠ 2 then bindRead id (attOps r).region (attOps r).session (attOps r).layer (attOps r).t d
  else if op = 0x02 then modSlot e.number (fun s => { s with state := .resetting }) d
  else d

/-- The start of an accepted task: its wait, or what it waits for next (R164, R179). -/
def startTask (m : Mgt) (id : Nat) (d : Dp) : Dp :=
  match d.task id with
  | none => d
  | some t =>
    if fieldAt t.record 5 63 62 ≠ 0 then beginWait m id (wordAt t.record 2) (wordAt t.record 3) .waitTally d
    else modTask id (fun t => { t with state := readyState d t }) d

/-- A record that passes every step is accepted (R155). -/
def acceptTask (m : Mgt) (e : SlotEntry) (op : Nat) (r : Bytes) (outcome : Option Result) (fs : List (Nat × Nat × Nat)) (d : Dp) : Dp :=
  let es := opExtents m d op r ++ [outExt (wordAt r 1) 32]
  let place := placeTask m d e.partition op r
  let t := newTask m d e place.1 r es
  let d := { d with tasks := { d.tasks with tasks := d.tasks.tasks ++ [t], nextTask := t.id, tieHalf := place.2 } }
  let d := if op = 0x01 || op = 0x02 then d else modSlot e.number (fun s => { s with alive := (fieldAt r 0 47 40 + 1) % 256 }) d
  let d := countAt 0 (8 * (256 * e.partition + op)) 1 d
  match outcome with
  | some x => finish t.id x d
  | none => startTask m t.id (acceptOp m t.id e op r (setFrames t.id fs d))

/-- Steps 5 to 11 of R153 for a record that came by its route and has a completion address. -/
def checkRecord (m : Mgt) (e : SlotEntry) (route : Route) (r : Bytes) (d : Dp) : Dp :=
  let op := fieldAt r 0 63 56
  let s := (d.slot e.number).getD ⟨e.number, .unbound, 0, 0⟩
  let alive := aliveClass (fieldAt r 0 47 40) s.alive
  let no := fun status detail => reject m e route true false status detail r d
  if !formatOk m d r then no 0x10 0x03
  else if s.state = .unbound && op ≠ 0x01 then no 0x13 0x01
  else if s.state = .resetting || s.state = .closing then no 0x13 0x02
  else if op ≠ 0x01 && op ≠ 0x02 && alive = .repeat_ then reject m e route true true 0x11 s.alive r d
  else if op ≠ 0x01 && op ≠ 0x02 && alive = .gap then no 0x12 s.alive
  else match step8 m d e.partition op r with
    | some x => no 0x14 x
    | none => match step9 m op r with
      | some x => no 0x15 x
      | none => match step10 m d e op r with
        | .error x => no x.1 x.2
        | .ok outcome =>
          let watch := ((watchMatch d e.partition r).map fun w => outExt w.buffer (128 * w.records)).toList
          let fs := if outcome.isSome then [] else draftFrames m d (opExtents m d op r ++ [outExt (wordAt r 1) 32] ++ watch)
          if (d.tasks.tasks.filter (·.slot = e.number)).length ≥ e.depth then no 0x16 0x01
          else if d.tasks.tasks.length ≥ 16384 then no 0x16 0x02
          else
            let short : Option (Nat × Nat) :=
              if outcome.isSome then none
              else if 0x60 ≤ op && op ≤ 0x63 then snapStep11 m d op r
              else if 0x68 ≤ op && op ≤ 0x6D then kvStep11 m d op r
              else none
            match short with
            | some x => no x.1 x.2
            | none => if !draftsFit d fs then no 0x16 0x03 else acceptTask m e op r outcome fs d

/-- A record reaches a slot: the checks of R153, Table 2, in their order. -/
def acceptRecord (m : Mgt) (slot : Nat) (aligned : Bool) (route : Route) (r : Bytes) (d : Dp) : Dp :=
  match m.slotEntry slot with
  | none => logEvent m 1 2 3 none (match route with | .pkg k _ => k | .host _ => 0) slot 0 [match route with | .host p => p | .pkg k _ => k, slot] d
  | some e =>
    if !aligned || r.length ≠ 128 then reject m e route false true 0x10 0x01 r d
    else if fieldAt r 15 63 32 ≠ crc 0x01 (r.take 124) then reject m e route false true 0x10 0x02 r d
    else if !routeOk e route then reject m e route true true 0x14 0xFFFFFFFF r d
    else if !completionOk m d e.partition (wordAt r 1) then reject m e route true true 0x14 0xFFFFFFFE r d
    else settle m (checkRecord m e route r d)

/-! ### The two ways in -/

/-- Writes that came through a host port and are not yet performed (R118). -/
def portWrites (d : Dp) (p : Nat) : Bool :=
  let mine := fun (v : Via) (q : Msg) => (match v with | .host x => decide (x.val = p) | _ => false) && (q.opcode = 0x06 || q.opcode = 0x07)
  d.coh.txns.any (fun x => !x.dead && mine x.via x.msg) || d.coh.waiting.any (fun w => mine w.1 w.2) || d.coh.trackers.any (fun t => mine t.via t.req)

/-- An access that a port refuses is logged, at most one entry per window per millisecond (R319); window 255 stands for none. -/
def logRefused (m : Mgt) (part : Option Nat) (addr window kind : Nat) (d : Dp) : Dp :=
  logLimited true m 1 0xA 1 part 0 0 addr [window, kind] d

/-- A record written through a port's submission aperture is decided, or waits for the port's earlier writes (R118, R148). -/
def hostRecord (m : Mgt) (port offset : Nat) (b : Bytes) (d : Dp) : Dp :=
  acceptRecord m (offset % 0x400000 / 4096) (offset % 128 = 0) (.host port) b d

/-- Does a port decode its BARs (R312, R316, R325, R504, R535)? -/
def HostPort.decodes (p : HostPort) : Bool := p.mode ≠ 0 && p.memEnable && !p.d3 && !p.perst && !p.resetting

/-- In forerunner mode, a port's window has carried its limit of bytes (R101). -/
def overLimit (m : Mgt) (d : Dp) (p : Nat) : Bool := m.forerunner && (d.hostPort p).bytesNow ≥ m.pkg.frLimits.getD p 0 * 10000

/-- TASK_RECORD_WRITE (R118, R148, R153, R315). -/
def execTaskRecordWrite (port : Fin 2) (offset : Nat) (b : Bytes) (s : State) : Host.Outcome State Fault Refusal :=
  liftDp (fun m d =>
    if !(d.hostPort port.val).decodes then d
    else if !m.running then logEvent m 1 2 3 none 0 (offset % 0x400000 / 4096) 0 [port.val, offset % 0x400000 / 4096] d
    else if d.fab.whist.fenced then logRefused m none 0 255 1 d
    else
      if overLimit m d port.val || portWrites d port.val || !(d.lease port.val).held.isEmpty then
        modLease port.val (fun l => { l with held := l.held ++ [.taskRecordWrite port offset b] }) d
      else hostRecord m port.val offset b (hostBytes port.val b.length d)) s

/-- TASK_POST (R149, R150, R349, R351). -/
def execTaskPost (q : Msg) (s : State) : Host.Outcome State Fault Refusal :=
  liftDp (fun m d =>
    let d := takeInbox q d
    let own : Bool := q.source = m.self
    let back := fun (status : Nat) (d : Dp) =>
      if own then
        match d.coh.txns.find? fun t => t.txn = q.txn && !t.dead && t.msg.opcode = 0x20 with
        | some t =>
          let d := { d with coh := { d.coh with txns := d.coh.txns.erase t } }
          match t.via with | .task id => taskDone id status 0xFFFFFFFF d | _ => d
        | none => d
      else if status = 0 then reply m q 0x58 0 0 [] d else refuse m q 0x58 status 0 d
    if d.fab.whist.fenced then back 0x05 d
    else if !own && (m.part q.partition).isSome && m.attach q.partition ≠ 1 then back 0x01 d
    else match m.slotEntry q.slot with
      | none => back 0x03 (logEvent m 1 2 3 none q.source q.slot 0 [q.source, q.slot] d)
      | some _ => back 0 (acceptRecord m q.slot true (.pkg q.source q.partition) q.payload d)) s

end Sys2Proof.Machine
end

