-- ==== Sys2Proof/Machine/Status.lean ====
section
/-! DEFINITION. What the package reports of itself: the size table, the status window, and the words of a Patience snapshot (R18 to R22, R326, R327, R443, R454, R456 to R459). -/

namespace Sys2Proof.Machine

/-! ### The size table (R19, Table 5) -/

/-- A word of the size table. -/
def sizeWord (m : Mgt) (n : Nat) : Nat :=
  let b := m.nvm.fuses.partB
  match n with
  | 0 => 0x01 * 2 ^ 56 + 0x80 * 2 ^ 48 + 0x08 * 2 ^ 40 + (if b then 0x06 else 0x08) * 2 ^ 32 + 0x10 * 2 ^ 24
      + (if b then 0x02 else 0x01) * 2 ^ 16 + (if b then 0x30 else 0x40) * 2 ^ 8 + (if m.far.final then 1 else 0)
  | 1 => 0x0080 * 2 ^ 48 + 0x0080 * 2 ^ 32 + 0x076C * 2 ^ 16 + 0x0019
  | 2 => 0x00000800 * 2 ^ 32 + 0x00008000
  | 3 => 0x00000200 * 2 ^ 32 + 0x08 * 2 ^ 24 + 0x4000
  | 4 => if m.far.final then m.far.gib * 2 ^ 32 + (m.far.trained.map (·.channel)).eraseDups.length * 2 ^ 24
      + m.far.trained.length * 2 ^ 16 + m.far.mts else 0
  | 5 => 0x08 * 2 ^ 56 + 0x08 * 2 ^ 48 + 0x02 * 2 ^ 40 + (if m.far.final then m.self else 0) * 2 ^ 16
  | 6 => 0x0008 * 2 ^ 48 + 0x0008 * 2 ^ 32 + 0x0008 * 2 ^ 16 + 0x0008
  | 7 => 0x40 * 2 ^ 56 + 0x1000 * 2 ^ 40 + 0x03 * 2 ^ 32 + 0x02000000
  | _ => 0

/-- The 128 bytes of the size table (R18). -/
def sizeBytes (m : Mgt) : Bytes := wordsBytes ((List.range 16).map (sizeWord m))

/-! ### The status window (R326, Table 5) -/

/-- The code of a debug level. -/
def Level.code : Level → Nat
  | .sealed => 0
  | .observe => 1
  | .opened => 2

/-- The code of a power state. -/
def PowerState.code : PowerState → Nat
  | .run => 0
  | .idle => 1
  | .retain => 2

/-- HOP.STS_PACKAGE. -/
def packageState (m : Mgt) : Nat := if m.image.isNone then 0 else if m.far.final then 2 else 1

/-- HOP.STS_LEASE_AGE: ticks since the last accepted renewal, zero with no lease (R326). -/
def leaseAge (m : Mgt) (d : Dp) (p : Nat) : Nat :=
  if (d.lease p).state = 0 then 0 else min (m.clk.ltb - (d.lease p).renewed) 0xFFFFFFFF

/-- The word at 0x0010: a host port's own, or the one read through no host port. -/
def portWord (m : Mgt) (d : Dp) : Option Nat → Nat
  | none => 0xFF * 2 ^ 56
  | some p =>
    let h := d.hostPort p
    p * 2 ^ 56 + h.mode * 2 ^ 54 + h.width * 2 ^ 48 + h.speed * 2 ^ 40 + (d.lease p).state * 2 ^ 38 + leaseAge m d p

/-- The state code of a slot (R327). -/
def SlotState.code : SlotState → Nat
  | .unbound => 1
  | .open_ => 2
  | .resetting => 3
  | .closing => 4

/-- The 16-bit entry of a slot in the table of a port (R327). -/
def slotCode (m : Mgt) (d : Dp) (port : Option Nat) (n : Nat) : Nat :=
  match m.slotEntry n, port with
  | some e, some p =>
    if e.owner = 0x4000 + p then ((d.slot n).map fun s => s.state.code * 256 + s.alive).getD 0 else 0
  | _, _ => 0

/-- The entry of the error log that the window shows at a place (R454). -/
def logShown (d : Dp) (n size : Nat) : Bytes :=
  match (d.obs.log.take size).find? fun e => e.seq % size = n with
  | some e => e.encode
  | none => zeros 64

/-- The 64-bit word of the status window that holds an offset. -/
def statusWord (m : Mgt) (d : Dp) (port : Option Nat) (offset : Nat) : Nat :=
  let o := offset / 8 * 8
  if o = 0 then
    0x01 * 2 ^ 56 + packageState m * 2 ^ 52 + m.sec.level.code * 2 ^ 50 + m.sec.power.code * 2 ^ 48
    + (if m.forerunner then 2 ^ 47 else 0) + (if ((m.image.map (·.copyB)).getD false) then 2 ^ 46 else 0)
    + m.comp.stamp * 2 ^ 32 + ((m.image.map (·.version)).getD 0)
  else if o = 8 then m.clk.ltb % 2 ^ 64
  else if o = 0x10 then portWord m d port
  else if o = 0x18 then d.obs.logCount * 2 ^ 32
  else if 0x200 ≤ o && o < 0x280 then sizeWord m ((o - 0x200) / 8)
  else if 0x800 ≤ o && o < 0x1000 then
    ((List.range 4).map fun i => slotCode m d port ((o - 0x800) / 2 + i) * 2 ^ (16 * i)).sum
  else if 0x8000 ≤ o && o < 0x10000 then wordAt (logShown d ((o - 0x8000) / 64) 512) (o % 64 / 8)
  else 0

/-- `n` bytes of the status window. -/
def statusBytes (m : Mgt) (d : Dp) (port : Option Nat) (offset n : Nat) : Bytes :=
  (List.range n).map fun i => BitVec.ofNat 8 (statusWord m d port (offset + i) / 2 ^ (8 * ((offset + i) % 8)))

/-! ### Counters (R443, Table 3) -/

/-- The two words of a queue's sample. -/
def sampleWords (s : Nat × Nat × Nat × Nat) : Nat × Nat := (s.1 * 2 ^ 32 + s.2.1, s.2.2.1 * 2 ^ 32 + s.2.2.2)

/-- A 64-bit word of the counter space. -/
def counterWord (d : Dp) (addr : Nat) : Nat :=
  let a := addr / 8 * 8
  if a = 0x060000 then d.obs.mode * 2 ^ 62 + d.obs.enable * 2 ^ 56
  else if 0x080000 ≤ a && a < 0x080000 + 1024 * 12 then
    let t := (a - 0x080000) / 1024
    let q := (a - 0x080000) % 1024 / 16
    if d.fab.sampleTicks = 0 then 0
    else match (d.fab.points.getD t Point.reset).queues.find? (·.number = q) with
    | some x => if a % 16 = 0 then (sampleWords x.sample).1 else (sampleWords x.sample).2
    | none => 0
  else (assoc d.obs.counters a).getD 0

/-- Addresses of the counters that a WRITE may set: those of Table 3 that are RW. -/
def counterWritable (addr : Nat) : Bool :=
  addr % 8 = 0 && (addr < 0x020000 || (0x020000 ≤ addr && addr < 0x028000) || (0x030000 ≤ addr && addr < 0x050000)
    || (0x050000 ≤ addr && addr < 0x058000) || (0x060008 ≤ addr && addr ≤ 0x060078) || (0x070000 ≤ addr && addr < 0x070000 + 64 * 64))

/-! ### The Patience snapshot (R456 to R459) -/

/-- A 64-bit word from a number. -/
def word64 (n : Nat) : BitVec 64 := BitVec.ofNat 64 n

/-- The slots section. -/
def patienceSlots (d : Dp) : List (BitVec 64) :=
  (List.range 1024).flatMap fun n => match d.slot n with
    | some s => [word64 (s.state.code * 2 ^ 56 + s.alive * 2 ^ 48 + (d.tasks.tasks.filter (·.slot = n)).length * 2 ^ 32), word64 s.fallback]
    | none => [0, 0]

/-- The code of what a task waits for (R459, Table 12). -/
def TaskState.code : TaskState → Nat
  | .waitTally => 1
  | .waitSerial => 2
  | .waitClaim => 3
  | .waitContext => 4
  | .running => 5
  | .waitRemote => 6
  | .waitBank => 7
  | .waitReturn => 8
  | .waitResume => 9
  | .ending => 10

/-- An entry of the tasks section (R459, Table 12). -/
def patienceTask (m : Mgt) (d : Dp) (t : Task) : List (BitVec 64) :=
  let c := t.state.code
  let silent : Bool := c = 2 || c = 4 || c = 5 || c = 10
  let remote := d.coh.txns.find? fun x => x.via = .task t.id && !x.dead
  let awaited : Nat := match remote with | some x => x.msg.addr / 2 ^ 50 | none => m.self
  let addr : Nat := if silent then 0 else if c = 6 then ((remote.map fun x => x.msg.addr / 64 * 64).getD 0) else t.waitAddr
  let value : Nat := if c = 1 || c = 3 || c = 8 then t.waitValue else 0
  [word64 (t.opcode * 2 ^ 56 + c * 2 ^ 48 + fieldAt t.record 0 47 40 * 2 ^ 40 + t.slot * 2 ^ 30 + t.part * 2 ^ 24 + t.phase * 2 ^ 16),
   word64 (fieldAt t.record 0 31 16 * 2 ^ 48 + fieldAt t.record 0 15 0 * 2 ^ 32 + min (m.clk.ltb - t.tick) 0xFFFFFFFF),
   word64 addr, word64 value, word64 t.seen,
   word64 (awaited * 2 ^ 50 + ((remote.map (·.msg.epoch)).getD m.comp.stamp) * 2 ^ 42),
   word64 (wordAt t.record 1), word64 (if fieldAt t.record 5 61 60 = 0 then 0 else wordAt t.record 4)]

/-- The contexts section. -/
def patienceContexts (m : Mgt) (d : Dp) : List (BitVec 64) :=
  let enabled := (List.range 64).filter fun e => (e / 8, e % 8) ∉ m.nvm.fuses.disabled
  enabled.flatMap fun e => (List.range 16).flatMap fun n =>
    match d.tasks.ctxs.find? fun c => c.engine = e && c.number = n with
    | none => [word64 (engineIdx m e * 2 ^ 56 + n * 2 ^ 52 + Config.patienceCode 2 0 % 16 * 2 ^ 48), 0]
    | some c =>
      let st := match c.state with | .ready => 1 | .running => 2 | .waiting => 3
      let t := (d.task c.task).getD default
      [word64 (engineIdx m e * 2 ^ 56 + n * 2 ^ 52 + Config.patienceCode 2 st % 16 * 2 ^ 48 + t.slot * 2 ^ 32
        + min ((m.clk.ltb - c.since) * m.clk.engMhz / 100) 0xFFFFFFFF), word64 (wordAt t.record 1)]

/-- Is a gate open in the present entry of a point's deal (R374)? -/
def gateOpen (p : Point) (q : Nat) : Bool :=
  match p.deal with
  | none => true
  | some l => bitAt ((l.getD p.entry (2 ^ 64 - 1, 0)).1) q

/-- The queue heads section. -/
def patienceQueues (m : Mgt) (d : Dp) : List (BitVec 64) :=
  (List.range 12).flatMap fun t =>
    let p := d.fab.points.getD t Point.reset
    (List.range 64).flatMap fun n => (List.range 5).flatMap fun c =>
      let items := ((p.queues.find? (·.number = n)).map (·.items)).getD [] |>.filter (·.coh = c)
      let deficit := ((p.queues.find? (·.number = n)).map (·.deficit)).getD 0
      let h := items.head?
      [Config.patienceWord 3 [t, n, c, (h.map fun i => i.colour).getD 0, if gateOpen p n then 1 else 0, (h.map (·.msg.opcode)).getD 0, items.length],
       Config.patienceWord 4 [deficit, (h.map fun i => m.clk.ltb - i.tick).getD 0],
       word64 ((h.map (·.msg.addr)).getD 0),
       Config.patienceWord 5 [(h.map (·.part)).getD 0, (h.map (·.msg.target)).getD 0]]

/-- The place of a port's state in Table 3 of the fabric chapter. -/
def PortState.place : PortState → Nat
  | .disabled => 0
  | .detect => 1
  | .train => 2
  | .align => 3
  | .up => 4
  | .self => 5
  | .replay => 6
  | .sparing => 7
  | .down => 8

/-- The credits section: each Daras port out and in, then the spine each way. -/
def patienceCredits (d : Dp) : List (BitVec 64) :=
  let full := [512, 256, 256, 1024, 1024]
  let spine := [2048, 1024, 1024, 4096, 4096]
  let line := fun (held full : List Nat) (st : BitVec 64) =>
    ((List.range 5).map fun c => word64 (held.getD c 0 * 2 ^ 32 + full.getD c 0)) ++ [st, 0, 0]
  ((List.range 8).flatMap fun i =>
    let p := d.darPort i
    let st := word64 (Config.patienceCode 6 p.state.place)
    line p.credits full st ++ line (List.zipWith (· - ·) full p.returned) full st)
  ++ line spine spine 0 ++ line spine spine 0

/-- The home trackers section. -/
def patienceTrackers (m : Mgt) (d : Dp) : List (BitVec 64) :=
  (d.coh.trackers.take 16384).flatMap fun t =>
    let kind := fun (h : Holder) => match h with | .cluster c => c.val | .host p => 16 + p.val | .pkg k => 32 + k
    let via := match t.via with | .task _ => 0 | .host p => 16 + p.val | .daras => 32 + t.req.source
    let since := (t.snoops.map (·.since)).foldl min (t.complete.getD m.clk.ltb)
    [word64 (t.line * 64), Config.patienceWord 7 [t.req.opcode, via, if m.pkg.ownerOrdered then 2 else 1],
     Config.patienceWord 8 [t.snoops.length, (t.snoops.head?.map fun s => kind s.holder).getD 0], word64 (m.clk.ltb - since)]

/-- The leases section: the members of the lease set, the host ports, and the package's own. -/
def patienceLeases (m : Mgt) (d : Dp) : List (BitVec 64) :=
  let w := d.fab.whist
  (w.members.take 14).flatMap (fun x =>
    [Config.patienceWord 9 [x.id, x.lease, (w.suspicions.filter (·.1 = x.id)).length], word64 (m.clk.ltb - (x.lastBeat.getD x.since))])
  ++ (List.range 2).flatMap (fun p => [Config.patienceWord 9 [0x4000 + p, (d.lease p).state, 0], word64 (leaseAge m d p)])
  ++ [Config.patienceWord 9 [m.self, if w.fenced then 1 else 0, 0], 0]

/-- The ports section. -/
def patiencePorts (d : Dp) : List (BitVec 64) :=
  (List.range 8).flatMap (fun i =>
    let p := d.darPort i
    [Config.patienceWord 10 [p.state.place, p.width, 0, (p.far.map (·.id)).getD 0], word64 p.episodes])
  ++ (List.range 2).flatMap fun i =>
    let h := d.hostPort i
    [Config.patienceWord 10 [h.mode, h.width, h.speed, 0], 0]

/-- The header's words and every section, one after another (R459, Table 11); with nothing but the header in Retain (R458). -/
def patienceCapture (m : Mgt) (d : Dp) (cause : Nat) : List (BitVec 64) :=
  let secs : List (List (BitVec 64) × Nat) :=
    if m.sec.power = .retain then List.replicate 8 ([], 2)
    else [(patienceSlots d, 2), ((d.tasks.tasks.take 16384).flatMap (patienceTask m d), 8), (patienceContexts m d, 2), (patienceQueues m d, 4),
      (patienceCredits d, 8), (patienceTrackers m d, 4), (patienceLeases m d, 2), (patiencePorts d, 2)]
  let heads := (List.range 8).map fun i =>
    let before := ((secs.take i).map fun s => s.1.length).sum
    let s := secs.getD i ([], 1)
    word64 ((4096 + 8 * before) * 2 ^ 32 + s.1.length / s.2)
  let w0 := 0x01 * 2 ^ 56 + m.self * 2 ^ 42 + m.comp.stamp * 2 ^ 34 + m.sec.power.code * 2 ^ 32 + m.sec.level.code * 2 ^ 30 + cause * 2 ^ 28
  [word64 w0, word64 m.clk.ltb] ++ heads ++ List.replicate 502 0 ++ secs.flatMap (·.1)

/-- A snapshot is captured: its shadows are copied afterwards (R457, R458). -/
def takePatience (m : Mgt) (cause : Nat) (d : Dp) : Dp :=
  logEvent m 1 0xE 1 none 0 0 0 [cause] { d with obs := { d.obs with shadows := some (patienceCapture m d cause) } }

end Sys2Proof.Machine
end

