-- ==== Sys2Proof/Machine/Tasks.lean ====
section
/-! DEFINITION. The life of a task between its acceptance and its completion: contexts, units, tallies, fences, aborts, watch records and the end (R52, R112 to R117, R151 to R168, R175 to R180, R225 to R227, R390, R447 to R451, R466). -/

namespace Sys2Proof.Machine

/-! ### Aborts (R152) -/

/-- A task ends with ABORTED, unless it has its result already; its watches go with it. -/
def abortTask (id detail : Nat) (d : Dp) : Dp :=
  let d := { d with tasks := { d.tasks with watches := d.tasks.watches.filter (·.task ≠ some id) } }
  finish id ⟨0x30, detail, 0, 0, 0⟩ d

/-- Every unended task of a slot but one ends with ABORTED; answers how many had no result. -/
def abortSlot (slot : Nat) (keep : Option Nat) (detail : Nat) (d : Dp) : Nat × Dp :=
  let ts := d.tasks.tasks.filter fun t => t.slot = slot && some t.id ≠ keep
  ((ts.filter (·.result.isNone)).length, ts.foldl (fun d t => abortTask t.id detail d) d)

/-- A slot's views, drafts and appends close (R88, R95). -/
def closeSlot (m : Mgt) (slot : Nat) (d : Dp) : Dp := abandonAppendsOf m slot (closeViewsOf slot d)

/-- A slot loses its owner or its partition: CLOSING, its tasks aborted, what it holds closed (R151, R152). An UNBOUND slot stays so. -/
def shutSlot (m : Mgt) (slot detail : Nat) (d : Dp) : Dp :=
  match d.slot slot with
  | some s =>
    if s.state = .unbound then d
    else closeSlot m slot (abortSlot slot none detail (modSlot slot (fun s => { s with state := .closing }) d)).2
  | none => d

/-- The owner of a slot is bound: its port holds a lease, or its package is composed (R151). -/
def ownerBound (m : Mgt) (d : Dp) (e : SlotEntry) : Bool :=
  if e.owner ≥ 0x4000 then (d.lease (e.owner - 0x4000)).state = 1 else m.composed e.owner

/-- An UNBOUND slot opens when its owner is bound and its partition is ATTACHED (R151). -/
def openSlot (m : Mgt) (slot : Nat) (d : Dp) : Dp :=
  match m.slotEntry slot with
  | some e => if ownerBound m d e && m.attach e.partition = 1 then
      modSlot slot (fun s => if s.state = .unbound then { s with state := .open_ } else s) d
    else d
  | none => d

/-- Every slot of the image that meets a test opens where it may. -/
def openSlots (m : Mgt) (p : SlotEntry → Bool) (d : Dp) : Dp :=
  (((m.image.map (·.slots)).getD []).filter p).foldl (fun d e => openSlot m e.number d) d

/-! ### The control opcodes of the chapter -/

/-- LEASE_RENEW (R390): the lease is renewed as of the record's acceptance. -/
def execLeaseRenew (id : Nat) (s : State) : Host.Outcome State Fault Refusal :=
  liftDp (fun m d => match controlTask d id [0x01] with
    | some t => match m.slotEntry t.slot with
      | some e =>
        let p := e.owner - 0x4000
        let loss := m.timers.leaseLossMs * 100000
        let fresh : Bool := (d.lease p).state ≠ 1
        let d := modLease p (fun l => { l with state := 1, renewed := t.tick, grants := if fresh then l.grants + 1 else l.grants }) d
        let d := if fresh then openSlots m (fun x => x.owner = e.owner) d else d
        finish id ⟨0, (d.lease p).grants, 0, t.tick + loss, loss⟩ d
      | none => d
    | none => d) s

/-- SLOT_RESET (R152, R161, R162): the slot's other tasks are aborted, what it holds closes, and the expected alive value is set. -/
def execSlotReset (id : Nat) (s : State) : Host.Outcome State Fault Refusal :=
  liftDp (fun m d => match d.task id with
    | some t =>
      if t.opcode ≠ 0x02 || t.result.isSome then d
      else
        let r := abortSlot t.slot (some id) 0x03 d
        let d := modSlot t.slot (fun s => { s with alive := fieldAt t.record 6 7 0 }) (closeSlot m t.slot r.2)
        let d := { d with tasks := { d.tasks with watches := d.tasks.watches.filter (·.task ≠ some id) } }
        settle m (finish id ⟨0, r.1, 0, 0, 0⟩ d)
    | none => d) s

/-- SLOT_CLOSE_DONE (R151): with no task and no view left, RESETTING leads to OPEN and CLOSING to UNBOUND. -/
def execSlotCloseDone (slot : Nat) (s : State) : Host.Outcome State Fault Refusal :=
  liftDp (fun m d => match d.slot slot with
    | some x =>
      if d.tasks.tasks.any (·.slot = slot) || ownsViews d slot then d
      else match x.state with
        | .resetting => modSlot slot (fun s => { s with state := .open_ }) d
        | .closing => openSlot m slot (modSlot slot (fun s => { s with state := .unbound }) d)
        | _ => d
    | none => d) s

/-- TALLY_ONLY (R160): nothing but its wait and its signal. -/
def execTallyOnly (id : Nat) (s : State) : Host.Outcome State Fault Refusal :=
  liftDp (fun _ d => match controlTask d id [0x03] with
    | some _ => finish id ⟨0, 0, 0, 0, 0⟩ d
    | none => d) s

/-! ### Tallies (R164, R165) -/

/-- TALLY_WAKE (R165): the watches on a line are evaluated, and each whose condition holds wakes its task, or its package. -/
def execTallyWake (addr : BitVec 64) (s : State) : Host.Outcome State Fault Refusal :=
  liftDp (fun m d =>
    let hits := d.tasks.watches.filter fun w => lineOf w.addr = lineOf addr.toNat && !w.claim
    settle m (hits.foldl (fun d w =>
      match tallyValue m d w.addr with
      | some v =>
        if v < w.value then d
        else
          let d := { d with tasks := { d.tasks with watches := d.tasks.watches.erase w } }
          match w.task, w.msg with
          | some id, _ => wakeTask id v d
          | none, some q => send m (answerMsg q m.self 0x59 0 v []) d
          | none, none => d
      | none => d) d)) s

/-- The value that a poll's READ_NOALLOC finds. -/
def pollRead (m : Mgt) (id addr : Nat) : Acc Nat := do
  let ls ← loadLines m id false [addr / 64 * 64]
  pure (leNat (slice (ls.getD 0 []) (addr % 64) 8))

/-- TALLY_POLL (R165): a task without a watch reads its tally every 200 LTB ticks. -/
def execTallyPoll (id : Nat) (s : State) : Host.Outcome State Fault Refusal :=
  liftDp (fun m d => match d.task id with
    | some t =>
      if !t.polling || t.result.isSome || m.clk.ltb < t.seen + 200 then d
      else match (pollRead m id t.waitAddr).run.run d with
        | (.ok v, d) =>
          let d := modTask id (fun t => { t with arrived := [] }) d
          settle m (if v ≥ t.waitValue then wakeTask id v d else modTask id (fun t => { t with seen := m.clk.ltb }) d)
        | (.error (.done r), d) => settle m (finish id r d)
        | (.error _, d) => settle m d
    | none => d) s

/-! ### Contexts and units (R175 to R179, R466) -/

/-- A task whose opcode runs on a unit of its cluster and not on an engine (R103, R432). -/
def unitOp (op : Nat) : Bool := op = 0x38 || op = 0x40 || op = 0x41 || op = 0x48 || op = 0x49 || op = 0x50

/-- Occupied contexts of an engine. -/
def ctxCount (d : Dp) (e : Nat) : Nat := (d.tasks.ctxs.filter (·.engine = e)).length

/-- Does a partition hold every context it may (R466)? -/
def partFull (m : Mgt) (d : Dp) (part : Nat) : Bool :=
  let limit := ((m.part part).map (·.contexts)).getD 0
  limit ≠ 0 && (d.tasks.tasks.filter fun t => t.part = part && t.context.isSome).length ≥ limit

/-- The bytes of its cluster's store that the hidden vectors of an EXPERT's pass take (R224). -/
def midShare (t : Task) : Nat := if t.opcode = 0x31 then 128 * elemBytes (fieldAt t.record 12 39 32) (fieldAt t.record 10 31 0) else 0

/-- Is the share of the 32 MiB cluster store that a task takes not free beside those that hold a context there (R19, R224)? -/
def storeFull (d : Dp) (t : Task) : Bool :=
  midShare t ≠ 0 && midShare t + ((d.tasks.tasks.filter fun x => x.cluster = t.cluster && x.context.isSome).map midShare).sum > 2 ^ 25

/-- The engine that a task of a cluster goes to: the fewest occupied contexts, and among equals any (R179). -/
def chooseEngine (m : Mgt) (d : Dp) (id c : Nat) : Option Nat :=
  let es := (enginesOf m c).filter fun e => ctxCount d e < 16
  match minBy (ctxCount d) es with
  | none => none
  | some e =>
    let same := es.filter fun x => ctxCount d x = ctxCount d e
    same[Config.engineChoice id same.length % max 1 same.length]?

/-- Could a task that waits in its cluster's queue be given a context now? -/
def couldRun (m : Mgt) (d : Dp) (id : Nat) : Bool :=
  match d.task id with
  | some t => t.state = .waitContext && t.result.isNone && !partFull m d t.part && !storeFull d t && (enginesOf m t.cluster).any fun e => ctxCount d e < 16
  | none => false

/-- CONTEXT_ASSIGN (R177, R179, R224, R466): a ready task is given its cluster's unit or a cleared context, or joins its cluster's queue; the package leaves Idle (R432). -/
def execContextAssign (id : Nat) (s : State) : Host.Outcome State Fault Refusal :=
  liftAll (fun m d => match d.task id with
    | none => (m, d)
    | some t =>
      if t.state ≠ .waitContext || t.result.isSome || isControl t.opcode || t.context.isSome || t.unitHeld then (m, d)
      else
        let awake := { m with sec := { m.sec with power := if m.sec.power = .idle then .run else m.sec.power } }
        if unitOp t.opcode then (awake, modTask id (fun t => { t with unitHeld := true, state := .running }) d)
        else
          let ahead := (d.tasks.queue.takeWhile (· ≠ id)).any fun x => (d.task x).any (fun y => decide (y.cluster = t.cluster)) && couldRun m d x
          let e := if partFull m d t.part || storeFull d t || ahead then none else chooseEngine m d id t.cluster
          match e with
          | none => (m, { d with tasks := { d.tasks with queue := if id ∈ d.tasks.queue then d.tasks.queue else d.tasks.queue ++ [id] } })
          | some e =>
            let used := (d.tasks.ctxs.filter (·.engine = e)).map (·.number)
            let n := ((List.range 16).find? (· ∉ used)).getD 0
            let d := { d with tasks := { d.tasks with ctxs := d.tasks.ctxs ++ [⟨e, n, id, .ready, m.clk.ltb⟩], queue := d.tasks.queue.filter (· ≠ id) } }
            (awake, selectCtx m e (modTask id (fun t => { t with context := some (e, n) }) d))) s

/-- CONTEXT_TIME_SLICE (R177): a context that has run 65,536 ENG cycles gives way to one that is READY. -/
def execContextTimeSlice (engine : Nat) (s : State) : Host.Outcome State Fault Refusal :=
  liftDp (fun m d => match d.tasks.ctxs.find? fun c => c.engine = engine && c.state = .running with
    | some c =>
      let ran := (m.clk.ltb - c.since) * m.clk.engMhz / 100
      if ran < 65536 || !d.tasks.ctxs.any fun x => x.engine = engine && x.state = .ready then d
      else match minBy (·.since) (d.tasks.ctxs.filter fun x => x.engine = engine && x.state = .ready) with
        | none => d
        | some n =>
          let d := modCtx c.task (fun c => { c with state := .ready, since := m.clk.ltb }) d
          let d := modTask c.task (fun t => if t.state = .running then { t with state := .waitContext } else t) d
          let d := modCtx n.task (fun c => { c with state := .running, since := m.clk.ltb }) d
          modTask n.task (fun t => if t.state = .waitContext then { t with state := .running } else t) d
    | none => d) s

/-- A task that waited outside the package goes on: its context becomes READY, its unit serves it again, or it asks for a context (R177, R222, R265). -/
def resumeTask (m : Mgt) (id : Nat) (d : Dp) : Dp :=
  match d.task id with
  | none => d
  | some t =>
    if t.state ≠ .waitRemote || t.result.isSome then d
    else match d.ctxOf id with
      | some c =>
        let d := modCtx id (fun c => { c with state := .ready, since := m.clk.ltb }) d
        selectCtx m c.engine (modTask id (fun t => { t with state := .waitContext }) d)
      | none => modTask id (fun t => { t with state := if t.unitHeld || isControl t.opcode then .running else .waitContext }) d

/-- CONTEXT_ANSWER_ARRIVES (R177): everything the task asked for has come. -/
def execContextAnswerArrives (id : Nat) (s : State) : Host.Outcome State Fault Refusal :=
  liftDp (fun m d => if pendingReads d id then d else resumeTask m id d) s

/-! ### Fences (R112 to R114) -/

/-- FENCE_COMPLETE (R113, R221): a SYSTEM fence of a task completes, and ROUTE goes on to its closes; until then its flushing reads are issued. -/
def execFenceComplete (id : Nat) (s : State) : Host.Outcome State Fault Refusal :=
  liftDp (fun m d => match d.task id with
    | some t =>
      if systemFence d id then
        if t.opcode = 0x30 && t.prog.stage = 3 && t.result.isNone then
          settle m (resumeTask m id (modTask id (fun t => { t with prog := { t.prog with stage := 4 } }) d))
        else d
      else settle m (flushHosts m id d)
    | none => d) s

/-! ### Watch records (R447 to R451) -/

/-- The elements of a watched row. -/
def rowElems (r : Nat × Nat × Bytes × Bytes) : List FVal := rowValues r.1 r.2.1 r.2.2.1 r.2.2.2

/-- The bin of a finite value (R450). -/
def histBin (base : Int) (step : Nat) (v : FVal) : Nat :=
  match v with
  | .fin _ 0 _ => 0
  | .fin _ m e =>
    let l := floorLog m e
    if l < base then 0 else min 15 (1 + ((l - base) / (max 1 step : Nat)).toNat)
  | _ => 0

/-- A least or greatest value; the sign of a zero is open (R450). -/
def extremeCode (key : Nat) (v : FVal) : Nat :=
  match v with
  | .fin _ 0 _ => f32Code (.fin (Config.zeroSign key) 0 0)
  | v => f32Code v

/-- Words W2 to W15 of a STATS record over the watched rows (R450, Table 8). -/
def statsWords (id : Nat) (w : WatchEntry) (rows : List (Nat × Nat × Bytes × Bytes)) : List Nat :=
  let vs := rows.flatMap rowElems
  let fin := vs.filter fun v => match v with | .fin _ _ _ => true | _ => false
  let nans := min (vs.filter (·.isNan)).length 0xFFFFFFFF
  let infs := min (vs.filter fun v => match v with | .inf _ => true | _ => false).length 0xFFFFFFFF
  let lo := match fin with | [] => 0x7F800000 | v :: r => extremeCode (openKey id 0) (r.foldl FVal.min v)
  let hi := match fin with | [] => 0xFF800000 | v :: r => extremeCode (openKey id 1) (r.foldl FVal.max v)
  let mean := if fin.isEmpty then 0x7FC00000 else f32Code (fdiv (openSum (openKey id 2) fzero fin) (fnat fin.length))
  let bin := fun b => min (fin.filter fun v => histBin w.base w.step v = b).length 0xFFFFFFFF
  [vs.length, nans * 2 ^ 32 + infs, lo * 2 ^ 32 + hi, mean * 2 ^ 32, 0, 0] ++ (List.range 8).map fun j => bin (2 * j + 1) * 2 ^ 32 + bin (2 * j)

/-- Words W2 to W15 of a DIGEST record: the CRC-64 over element bytes, then scale bytes (R450). -/
def digestWords (rows : List (Nat × Nat × Bytes × Bytes)) : List Nat :=
  let b := (rows.flatMap fun r => r.2.2.1) ++ rows.flatMap fun r => r.2.2.2
  [b.length, 0, crc 0x03 b, 0, 0, 0, 0, 0, 0, 0, 0, 0, 0, 0]

/-- The opcodes whose results are watched (R449). -/
def watchedOp (op : Nat) : Bool := op = 0x10 || op = 0x11 || (0x18 ≤ op && op ≤ 0x1D) || op = 0x30 || op = 0x31 || op = 0x32

/-- A watched task writes its record (R448, R451). -/
def writeWatch (m : Mgt) (id : Nat) (d : Dp) : Dp :=
  match d.task id with
  | none => d
  | some t => match t.entry, t.result with
    | some (w, gen), some r =>
      if !watchedOp t.opcode || !bitAt d.obs.enable 5 then d
      else
        let here := fun (x : Nat × Nat × Nat) => x.1 = w.number && x.2.1 = gen
        let k := ((d.tasks.watchSeq.find? here).map (·.2.2)).getD 0
        let d := { d with tasks := { d.tasks with watchSeq := (w.number, gen, k + 1) :: d.tasks.watchSeq.filter fun x => !here x } }
        let w0 := fieldAt t.record 0 31 16 * 2 ^ 48 + fieldAt t.record 0 15 0 * 2 ^ 32 + r.status * 2 ^ 24 + t.opcode * 2 ^ 16 + t.slot * 2 ^ 6 + w.number * 4 + w.kind
        let b := wordsBytes ([w0, k] ++ if w.kind = 1 then statsWords id w t.watchOut else digestWords t.watchOut)
        let addr := w.buffer + 128 * (k % max 1 w.records)
        if (t.written.any fun l => (sealedAt m (l * 64)).isSome) && (sealedAt m addr).isNone then undeliverable m t.part t.slot addr b d
        else deliver m id t.part t.cls t.slot addr b d
    | _, _ => d

/-! ### The end of a task (R166 to R171, R225 to R227) -/

/-- The stage of a task's progress. -/
def stageOf (d : Dp) (id : Nat) : Nat := ((d.task id).map (·.prog.stage)).getD 0

/-- Move a task to a stage. -/
def toStage (id n : Nat) (d : Dp) : Dp := modTask id (fun t => { t with prog := { t.prog with stage := n } }) d

/-- Reads that a task no longer waits for: their answers are taken and discarded (R144). -/
def dropReads (id : Nat) (d : Dp) : Dp :=
  let isRead := fun (q : Msg) => (q.opcode ≤ 0x05 && q.payload.isEmpty) || q.opcode = 0x1B
  let gone := fun (x : Txn) => x.via = .task id && !x.dead && isRead x.msg
  let held := fun (w : HeldReq) => w.1 = .task id && isRead w.2
  let n := ((d.coh.txns.filter fun x => gone x && x.msg.opcode ≠ 0x1B).length) + (d.coh.waiting.filter held).length
  let d := { d with coh := { d.coh with
    txns := modWhere d.coh.txns gone fun x => { x with dead := true }
    waiting := d.coh.waiting.filter fun w => !held w } }
  modTask id (fun t => { t with outstanding := t.outstanding - n, arrived := [] }) d

/-- The remote watch of a task that ends is withdrawn, under the watch's own transaction (R152, R347). -/
def dropRemoteWatch (m : Mgt) (id : Nat) (d : Dp) : Dp :=
  (d.coh.txns.filter fun x => x.via = .task id && !x.dead && x.msg.opcode = 0x1B).foldl (fun d x =>
    let q := { x.msg with opcode := 0x1C, arg := 0 }
    send m q { d with coh := { d.coh with txns := modWhere d.coh.txns (· = x) fun y => { y with via := .task 0, msg := q, since := m.clk.ltb } } }) d

/-- The failure trailers of an EXPERT that ends with a FAIL status: one for every claimed token not yet returned (R227). -/
def failTrailers (m : Mgt) (id : Nat) (r : Result) : Acc Unit := do
  let d ← get
  let t := (d.task id).getD default
  let o := expertOps t.record
  let p := t.prog
  let tail := rowBytes o.yf o.dim
  let hdr ← load m id true (bankHeader o.inbox 0) 16
  let got : List (Nat × Nat × Nat) := if p.stage = 2 then p.asked else []
  let rest := (List.range (p.count - p.next - got.length)).map fun i => p.next + got.length + i
  let tags ← rest.mapM fun i => load m id true (bankSlot o.inbox o.round (fieldAt hdr 1 63 48) (inboxSlot o.xf o.dim) i) 64
  let all := got.map (·.2) ++ tags.map fun b => (wordAt b 0, wordAt b 1)
  all.forM fun x => store m id true (x.1 + tail) (trailer m r.status 0 r.detail)
  act (modTask id fun t => { t with prog := { t.prog with seen := all.map (·.2) } })

/-- A task lets go of what it holds besides its writes. -/
def letGo (m : Mgt) (id : Nat) (d : Dp) : Dp :=
  match d.task id with
  | none => d
  | some t =>
    let bad : Bool := (t.result.map (·.status)) ≠ some 0
    let d := if bad && 0x60 ≤ t.opcode && t.opcode ≤ 0x63 then snapUndo m id t.record d
      else if bad && 0x68 ≤ t.opcode && t.opcode ≤ 0x6D then kvUndo m id t.opcode t.record d else d
    let d := releaseSets id (dropReads id (dropRemoteWatch m id d))
    let d := { d with
      tasks := { d.tasks with watches := d.tasks.watches.filter (·.task ≠ some id), queue := d.tasks.queue.filter (· ≠ id) }
      hosts := { d.hosts with
        reads := modWhere d.hosts.reads (fun r => r.task = id && !r.flush) fun r => { r with drained := true, lost := false }
        reqs := d.hosts.reqs.map fun r => { r with tasks := r.tasks.filter (· ≠ id) } } }
    noteIdle m (modTask id (fun t => { t with unitHeld := false, state := .ending, polling := false }) (freeCtx m id d))

/-- The outputs that a task of an opcode leaves undefined where it fails: those of the tensor operators, ROUTE's own output, and those of ATTEND, COC_ENCODE, the searches and gathers (R170). -/
def failedOutputs (m : Mgt) (d : Dp) (t : Task) : List Extent :=
  let op := t.opcode
  if op = 0x30 then (if t.phase = 2 then [outExt (routeOps t.record).out (tensorBytes (routeOps t.record).outF (routeOps t.record).n (routeOps t.record).dim)] else [])
  else if (0x10 ≤ op && op < 0x30) || op ∈ [0x32, 0x38, 0x40, 0x41, 0x48] then (opExtents m d op t.record).filter (·.write)
  else []

/-- May the bytes of a line of the package take undefined values: nothing holds the line, its place is in service, and a draft has its own frame for it? -/
def spoilable (m : Mgt) (d : Dp) (line region at_ : Nat) (reach : Reach) : Bool :=
  !regionDead m d region && !deadFrame m d region at_ && (d.entry line).isNone && !busy d line && !heldAdds d (at_ / 64)
  && (match reach with | .plain => true | .head => false | .view s => viewWritable d region s && (needsCopy d region reach (frameIndex m region reach (line * 64))).isNone)

/-- The bytes of one piece of an output take undefined values. -/
def spoilPiece (m : Mgt) (part n : Nat) (p : Nat × Bytes × Nat) (d : Dp) : Dp :=
  if !m.serves (p.1 / 2 ^ 50) then d
  else match placeOffset m d (p.1 % 2 ^ 50) with
    | .store r reach a =>
      if !spoilable m d (lineOf p.1) r a reach then d
      else
        let l := readLine m d r a
        (applyChange m r a (mergeMask l.1 ((List.range 64).map fun i => Config.undefinedByte n (p.1 + i)) p.2.2) l.2 part 0 d).2
    | _ => d

/-- What a failed task that had begun leaves of its output: lines already written by a tensor operator stand, and the rest is undefined (R170, and the contexts' end in the chapter "Hawkmoth arithmetic"). -/
def spoilOutput (m : Mgt) (id : Nat) (r : Result) (d : Dp) : Dp :=
  match d.task id with
  | none => d
  | some t =>
    if r.status < 0x20 || !(t.context.isSome || t.unitHeld || !t.written.isEmpty) then d
    else
      let n := d.tasks.draws
      let ps := (failedOutputs m d t).flatMap fun e => (pieces e.addr (zeros e.bytes)).filter fun p => t.opcode ≥ 0x30 || p.1 / 64 ∉ t.written
      ps.foldl (fun d p => spoilPiece m t.part n p d) { d with tasks := { d.tasks with draws := n + 1 } }

/-- Stage 20: what the task held is let go, what it leaves of a failed output is undefined, and a failed EXPERT has written its trailers. -/
def endBegin (m : Mgt) (id : Nat) (d : Dp) : Dp :=
  match d.task id with
  | none => d
  | some t => match t.result with
    | none => d
    | some r =>
      let expert : Bool := t.opcode = 0x31 && 0x20 ≤ r.status && r.status < 0x30 && (t.prog.stage = 1 || t.prog.stage = 2)
      let d := letGo m id (spoilOutput m id r d)
      if expert then match (failTrailers m id r).run.run d with
        | (.ok _, d) => toStage id 20 d
        | (.error .stall, d) => d
        | (.error _, d) => toStage id 21 d
      else toStage id 21 d

/-- Stage 21: a failed EXPERT's tally adds are made once its trailers are performed at SYSTEM scope (R225, R227). -/
def endReturns (m : Mgt) (id : Nat) (d : Dp) : Dp :=
  if systemFence d id then
    let tallies := ((d.task id).map (·.prog.seen)).getD []
    toStage id 21 ((addReturns m id tallies).run.run d).2
  else flushHosts m id d

/-- May the signal tally be added to (R166)? -/
def signals (t : Task) : Bool :=
  let st := (t.result.map (·.status)).getD 0
  fieldAt t.record 5 61 60 ≠ 0 && (st = 0 || (bitAt (wordAt t.record 0) 32 && 0x20 ≤ st))

/-- Stage 23: the writes are performed at the signal scope, and the signal tally has received its add (R166). -/
def endSignal (m : Mgt) (id : Nat) (d : Dp) : Dp :=
  match d.task id with
  | none => d
  | some t =>
    let ready : Bool := if fieldAt t.record 5 61 60 = 3 then systemFence d id else t.outstanding = 0
    if !ready then flushHosts m id d
    else if signals t then
      let r := (postAtomic m id 0x12 (wordAt t.record 4) (fieldAt t.record 5 31 0) [] 0).run.run d
      toStage id 23 (match r with
        | (.error (.done x), d) => failTask id x.status x.detail d
        | (_, d) => d)
    else toStage id 23 d

/-- The completion record of a task (R168). -/
def taskCpl (m : Mgt) (d : Dp) (t : Task) : Bytes :=
  let r := t.result.getD ⟨0, 0, 0, 0, 0⟩
  let owner := ((m.slotEntry t.slot).map (·.owner)).getD 0
  let alive := if t.opcode = 0x02 then ((d.slot t.slot).map (·.alive)).getD 0 else fieldAt t.record 0 47 40
  cplBytes r.status (loadByte m d owner) alive t.opcode (fieldAt t.record 0 31 16) (fieldAt t.record 0 15 0)
    (if r.status = 0 then r.flags else 0) t.slot r.detail r.countA r.countB (m.clk.ltb - t.tick)

/-- A task has ended: it leaves the table, its frames set aside return, and tasks that it held back under SERIAL go on. -/
def removeTask (m : Mgt) (id : Nat) (d : Dp) : Dp :=
  match d.task id with
  | none => d
  | some t =>
    let st := (t.result.map (·.status)).getD 0
    let d := countAt 0 (0x020000 + 8 * (64 * t.part + st)) 1 d
    let d := dropSetAside id { d with tasks := { d.tasks with tasks := d.tasks.tasks.filter (·.id ≠ id) } }
    let d := { d with hosts := { d.hosts with flushDue := d.hosts.flushDue.filter (·.1 ≠ id) } }
    let waits := d.tasks.tasks.filter fun x => x.slot = t.slot && x.state = .waitSerial && x.result.isNone
    let _ := m
    waits.foldl (fun d x => modTask x.id (fun y => { y with state := readyState d y }) d) d

/-- The completion record is written, and the task is gone (R117, R166, R171). -/
def endComplete (m : Mgt) (id : Nat) (d : Dp) : Dp :=
  match d.task id with
  | none => d
  | some t =>
    if !systemFence d id then flushHosts m id d
    else
      let addr := wordAt t.record 1
      let b := taskCpl m d t
      if hostMapped m addr then
        let put : Acc (Nat × Nat) := do
          checkWindow m t.part addr 32
          let x ← translate m id addr true
          pure (x.1, x.2.1)
        match put.run.run d with
        | (.ok x, d) => removeTask m id (emit (.hostWrite x.1 x.2 b) (hostMoved x.1 t.part t.cls 32 d))
        | (.error (.done _), d) => removeTask m id (undeliverable m t.part t.slot addr b d)
        | (.error _, d) => d
      else removeTask m id (deliver m id t.part t.cls t.slot addr b d)

/-- TASK_END (R117, R166): the task that has its result goes as far towards its completion as its accesses allow. -/
def execTaskEnd (id : Nat) (s : State) : Host.Outcome State Fault Refusal :=
  liftDp (fun m d =>
    if (((d.task id).bind (·.result))).isNone then d
    else
      let d := if stageOf d id < 20 then endBegin m id d else d
      let d := if stageOf d id = 20 then endReturns m id d else d
      let d := if stageOf d id = 21 then toStage id 22 (writeWatch m id d) else d
      let d := if stageOf d id = 22 then endSignal m id d else d
      let d := settle m d
      settle m (if stageOf d id = 23 then endComplete m id d else d)) s

end Sys2Proof.Machine
end

