-- ==== Sys2Proof/Machine/Requests.lean ====
section
/-! DEFINITION. Requests that reach this package's homes, over Daras, from a host port or from a task, and how the target judges them (R123, R136, R165, R213, R347, R349 to R353, R361, R386, R392, R405). -/

namespace Sys2Proof.Machine

/-! ### The target's judgement of a Daras request (R349) -/

/-- What the target answers at once: nothing, a refusal with status and argument, poisoned data of a region, or a REDIRECT. -/
inductive Gate where
  | pass
  | no (status arg : Nat)
  | poisoned (region : Nat)
  | redirect
  deriving DecidableEq, Repr

/-- Does a request ask to change a line, or to own it? -/
def wantsWrite (m : Mgt) (q : Msg) : Bool :=
  match kindOf m .daras q with
  | .own => true
  | .write => true
  | .atomic => true
  | _ => false

/-- The judgement of a Daras request on an address (R76, R77, R349, R350, R361, R386, R405, R537). -/
def gate (m : Mgt) (d : Dp) (q : Msg) : Gate :=
  let write := wantsWrite m q
  let lacking := fun (r : Nat) => if write then Gate.no 0x01 0 else .poisoned r
  if d.fab.whist.fenced then .no 0x05 (regionOf m d q.addr)
  else if q.epoch ∉ m.epochs then .redirect
  else if !m.serves (q.addr / 2 ^ 50) || q.opcode = 0x1A then .no 0x01 0
  else match placeOffset m d (q.addr % 2 ^ 50) with
    | .guard => .pass
    | p =>
      if m.attach q.partition ≠ 1 && q ∉ d.fab.early then .no 0x01 0
      else if q.opcode = 0x08 then .pass
      else match p with
        | .store r reach a =>
          if (m.region r).map (·.partition) ≠ some q.partition then .no 0x01 0
          else if regionDead m d r || deadFrame m d r a then .no 0x05 r
          else match reach with
            | .plain => .pass
            | .head => if write then .no 0x01 0 else .pass
            | .view s => if viewClosing d r s then lacking r else if write && !viewWritable d r s then .no 0x01 0 else .pass
        | .freeView r => lacking r
        | .beyondView r => lacking r
        | .post => lacking 0xFFFFFFFF
        | .hostMapped => .no 0x02 0
        | _ => .no 0x01 0

/-- Give a request what its judgement says, or let it go on. -/
def judged (m : Mgt) (q : Msg) (g : Gate) (go : Dp → Dp) (d : Dp) : Dp :=
  match g with
  | .pass => go d
  | .no status arg => refuse m q (answerCode q.opcode) status arg d
  | .poisoned r => send m { answerMsg q m.self 0x60 0 r (zeros 64) with poison := true } d
  | .redirect => reply m q 0x57 0 m.comp.stamp [] d

/-- A requester of the other mode is logged once (R136). -/
def noteMode (m : Mgt) (q : Msg) (d : Dp) : Dp :=
  if otherMode m .daras q && q.source ∉ d.coh.otherMode then
    logEvent m 1 8 2 none q.source 0 q.addr [] { d with coh := { d.coh with otherMode := q.source :: d.coh.otherMode } }
  else d

/-- Bytes of a message that came over Daras count for its partition and class (R443). -/
def countIn (q : Msg) (d : Dp) : Dp := countAt 2 (0x050000 + 8 * (64 * q.partition + 8 * q.bwClass + 6)) q.payload.length d

/-- A request of one of some codes reaches this package: it is judged where it came over Daras, and goes to its home. -/
def enter (m : Mgt) (via : Via) (q : Msg) (codes : List Nat) (d : Dp) : Dp :=
  if q.opcode ∉ codes then d
  else match via with
    | .daras =>
      let d := countIn q (takeInbox q d)
      settle m (judged m q (gate m d q) (fun d => arriveAt m .daras q (noteMode m q d)) d)
    | .task id => if (d.task id).any (·.result.isNone) then settle m (arriveAt m via q (oneMore id d)) else d
    | .host _ => settle m (arriveAt m via q d)

/-! ### The requests of Table 1 and Table 5 -/

/-- READ_SHARED (R123, R132, R133). -/
def execReadShared (via : Via) (q : Msg) (s : State) : Host.Outcome State Fault Refusal :=
  liftDp (fun m d => enter m via q [0x01, 0x03] d) s

/-- READ_OWN (R123, R132, R133). -/
def execReadOwn (via : Via) (q : Msg) (s : State) : Host.Outcome State Fault Refusal :=
  liftDp (fun m d => enter m via q [0x02, 0x04] d) s

/-- READ_NOALLOC (R123), a read of an alias among them (R395). -/
def execReadNoalloc (via : Via) (q : Msg) (s : State) : Host.Outcome State Fault Refusal :=
  liftDp (fun m d => enter m via q [0x05] d) s

/-- WRITE_NOALLOC (R123), full or partial. -/
def execWriteNoalloc (via : Via) (q : Msg) (s : State) : Host.Outcome State Fault Refusal :=
  liftDp (fun m d => enter m via q [0x06, 0x07] d) s

/-- ATOMIC (R123): the atomics of Table 5; an EX_CLAIM that came over Daras is answered ACCESS (R347). -/
def execAtomic (via : Via) (q : Msg) (s : State) : Host.Outcome State Fault Refusal :=
  liftDp (fun m d => enter m via q (if via = .daras then [0x10, 0x11, 0x12, 0x1A] else [0x10, 0x11, 0x12]) d) s

/-- RT_RESERVE (R213). -/
def execRtReserve (via : Via) (q : Msg) (s : State) : Host.Outcome State Fault Refusal :=
  liftDp (fun m d => enter m via q [0x18] d) s

/-- RT_CLOSE (R213). -/
def execRtClose (via : Via) (q : Msg) (s : State) : Host.Outcome State Fault Refusal :=
  liftDp (fun m d => enter m via q [0x19] d) s

/-- WB_REQ (R137). -/
def execWbReq (q : Msg) (s : State) : Host.Outcome State Fault Refusal :=
  liftDp (fun m d => enter m .daras q [0x08] d) s

/-- WRITE_LINE (R347), a guard write among them (R393, R394). -/
def execWriteLine (q : Msg) (s : State) : Host.Outcome State Fault Refusal :=
  liftDp (fun m d => enter m .daras q [0x06] d) s

/-- WRITE_PART (R347); with a zero mask on an alias it releases the hold (R395). -/
def execWritePart (q : Msg) (s : State) : Host.Outcome State Fault Refusal :=
  liftDp (fun m d => enter m .daras q [0x07] d) s

/-- ADD_FLOAT (R291, R347). -/
def execAddFloat (q : Msg) (s : State) : Host.Outcome State Fault Refusal :=
  liftDp (fun m d => enter m .daras q [0x10] d) s

/-- ATOMIC_RET (R347). -/
def execAtomicRet (q : Msg) (s : State) : Host.Outcome State Fault Refusal :=
  liftDp (fun m d => enter m .daras q [0x11] d) s

/-- ADD_U64 (R347). -/
def execAddU64 (q : Msg) (s : State) : Host.Outcome State Fault Refusal :=
  liftDp (fun m d => enter m .daras q [0x12] d) s

/-! ### Tally watches of other packages (R165, R347) -/

/-- Register a watch for another package, wake it at once, or answer that no watch is free. -/
def watchFor (m : Mgt) (q : Msg) (d : Dp) : Dp :=
  let plain : Bool := match storePlace m d q.addr with
    | some (r, .plain, _) => decide (((m.region r).map (·.kind)) = some 1)
    | _ => false
  if !plain then refuse m q 0x58 0x01 0 d
  else match tallyValue m d q.addr with
    | none => refuse m q 0x58 0x01 0 d
    | some v =>
      if v ≥ q.arg then reply m q 0x59 0 v [] d
      else if watchCount d (lineOf q.addr) ≥ 16384 then reply m q 0x58 0x08 0 [] d
      else { d with tasks := { d.tasks with watches := d.tasks.watches ++ [⟨q.addr, q.arg, none, some q, false⟩] } }

/-- TALLY_WATCH (R165, R347). -/
def execTallyWatch (q : Msg) (s : State) : Host.Outcome State Fault Refusal :=
  liftDp (fun m d =>
    if q.opcode ≠ 0x1B then d
    else
      let d := takeInbox q d
      settle m (judged m q (gate m d q) (watchFor m q) d)) s

/-- Remove a watch of another package: the one of its transaction, or else the oldest it holds on the address. -/
def unwatch (q : Msg) (ws : List Watch) : List Watch :=
  let mine := ws.filter fun w => w.addr = q.addr && (w.msg.map (·.source)) = some q.source
  match (mine.find? fun w => (w.msg.map (·.txn)) = some q.txn) <|> mine.head? with
  | some w => ws.erase w
  | none => ws

/-- TALLY_UNWATCH (R347). -/
def execTallyUnwatch (q : Msg) (s : State) : Host.Outcome State Fault Refusal :=
  liftDp (fun m d =>
    if q.opcode ≠ 0x1C then d
    else
      let d := takeInbox q d
      judged m q (gate m d q) (fun d => reply m q 0x58 0 0 [] { d with tasks := { d.tasks with watches := unwatch q d.tasks.watches } }) d) s

/-! ### Token posts and management reads -/

/-- A TOKEN_POST is applied as a WRITE_NOALLOC of the lines it covers (R352). -/
def applyPost (m : Mgt) (q : Msg) (d : Dp) : Dp :=
  let n := (d.coh.groups.map (·.1)).foldl max groupBase + 1
  let ps := pieces q.addr q.payload
  let d := { d with coh := { d.coh with groups := d.coh.groups ++ [(n, q, ps.length, 0)] } }
  ps.foldl (fun d p => arriveAt m (.task n) { q with opcode := if p.2.2 = fullMask then 0x06 else 0x07, addr := p.1, arg := p.2.2, payload := p.2.1, poison := false } d) d

/-- TOKEN_POST (R352). -/
def execTokenPost (q : Msg) (s : State) : Host.Outcome State Fault Refusal :=
  liftDp (fun m d =>
    if q.opcode ≠ 0x21 then d
    else
      let d := countIn q (takeInbox q d)
      let last := { q with addr := q.addr + (q.payload.length - 1) }
      let g := match gate m d q with | .pass => gate m d last | g => g
      settle m (judged m q g (applyPost m q) d)) s

/-- Offsets of the status window that MGMT_READ may read (R353). -/
def mgmtRange (off n : Nat) : Bool := 8 ≤ n && n ≤ 128 && (off + n ≤ 0x10 || (0x200 ≤ off && off + n ≤ 0x280))

/-- MGMT_READ (R353): answered to any package that the map composes, in any partition. -/
def execMgmtRead (q : Msg) (s : State) : Host.Outcome State Fault Refusal :=
  liftDp (fun m d =>
    if q.opcode ≠ 0x28 then d
    else
      let d := takeInbox q d
      let n := bits q.arg 7 0
      if d.fab.whist.fenced then refuse m q 0x61 0x05 0xFFFFFFFF d
      else if q.epoch ∉ m.epochs then reply m q 0x57 0 m.comp.stamp [] d
      else if !mgmtRange q.addr n || !m.composed q.source then refuse m q 0x61 0x01 0 d
      else reply m q 0x61 0 0 (fit (roundUp n 16) (statusBytes m d none q.addr n)) d) s

end Sys2Proof.Machine
end

