-- ==== Sys2Proof/Machine/Coherence.lean ====
section
/-! DEFINITION. This package as a holder and as a requester: snoops and FWDs it receives, the answers to its own requests, and the answers its homes receive (R128 to R146, R346, R361, R363, R396). -/

namespace Sys2Proof.Machine

/-! ### Fencing (R386) -/

/-- The package enters FENCED: every task ends with ABORTED, detail 0x02, and a snapshot is taken (R386, R458). -/
def enterFenced (m : Mgt) (d : Dp) : Dp :=
  if d.fab.whist.fenced then d
  else
    let d := takePatience m 2 { d with fab := { d.fab with whist := { d.fab.whist with fenced := true } } }
    d.tasks.tasks.foldl (fun d t => abortTask t.id 0x02 d) d

/-! ### Copies of other packages' lines (R122, R134, R137) -/

/-- Is a copy live: a line held, or one whose ownership a write-back buffer still carries? -/
def RemoteLine.live (x : RemoteLine) : Bool := x.state ≠ 0

/-- The copy that answers a snoop or FWD for a line: a held one before a write-back buffer. -/
def copyOf (d : Dp) (line : Nat) : Option RemoteLine :=
  match d.coh.remote.find? fun x => x.line = line && !x.writeback with
  | some x => some x
  | none => d.coh.remote.find? fun x => x.line = line && x.live

/-- Replace a copy, or drop it. -/
def setCopy (x : RemoteLine) (y : Option RemoteLine) (d : Dp) : Dp :=
  { d with coh := { d.coh with remote := d.coh.remote.flatMap fun z => if z = x then y.toList else [z] } }

/-- What is left of a copy in a state; a write-back buffer that waited for one last FWD is freed by it. -/
def leftAs (x : RemoteLine) (st : Nat) : Option RemoteLine :=
  if x.state = 4 then none
  else if st = 0 && !x.writeback then none
  else some { x with state := st }

/-- A copy's data as a DATA message in answer to a snoop or FWD. -/
def copyData (m : Mgt) (q : Msg) (x : RemoteLine) : Msg :=
  { answerMsg q m.self 0x60 0 (x.poison.getD 0) x.data with poison := x.poison.isSome }

/-- Serve a FWD: the data to the requester, a shared line's also to its home, and SNP_ACK; INV_ACK where the line was dropped (R126, R132, R134). -/
def serveFwd (m : Mgt) (q : Msg) (d : Dp) : Dp :=
  match copyOf d (q.addr / 64) with
  | none => send m (answerMsg q m.self 0x50 0 0 []) d
  | some x =>
    let dat := copyData m q x
    let d := send m { dat with target := q.origin } d
    let d := if q.opcode = 0x40 && q.origin ≠ q.source && (x.state ≥ 3 || m.pkg.ownerOrdered) then send m { dat with txn := 0xFFFF } d else d
    let st := if q.opcode = 0x40 then 1 else if q.opcode = 0x41 then 0 else x.state
    send m (answerMsg q m.self 0x51 0 0 []) (setCopy x (leftAs x st) d)

/-- Serve a snoop: a dirty copy returns its data, SNP_CUR always does (R138, Table 6). -/
def serveSnoop (m : Mgt) (q : Msg) (d : Dp) : Dp :=
  match copyOf d (q.addr / 64) with
  | none => send m (answerMsg q m.self 0x50 0 0 []) d
  | some x =>
    let d := if x.state ≥ 3 || q.opcode = 0x4A then send m (copyData m q x) d else d
    match q.opcode with
    | 0x48 => send m (answerMsg q m.self 0x50 0 0 []) (setCopy x (leftAs x 0) d)
    | 0x49 => send m (answerMsg q m.self 0x51 0 0 []) (setCopy x (some { x with state := 1 }) d)
    | _ => send m (answerMsg q m.self 0x51 0 0 []) d

/-- Serve what an owner has queued for a line, in order of arrival (R134). -/
def serveQueued (m : Mgt) (qs : List Msg) (d : Dp) : Dp :=
  qs.foldl (fun d q => if q.opcode ≤ 0x42 then serveFwd m q d else serveSnoop m q d) d

/-- An owner-ordered READ_OWN of this package for a line, still without its data or its ACKS_DONE. -/
def owning (d : Dp) (line : Nat) : Option Txn := d.coh.txns.find? fun t => t.msg.opcode = 0x04 && t.msg.addr / 64 = line

/-- Change a transaction. -/
def modTxn (t : Txn) (f : Txn → Txn) (d : Dp) : Dp :=
  { d with coh := { d.coh with txns := modWhere d.coh.txns (· = t) f } }

/-- Forget a transaction. -/
def dropTxn (t : Txn) (d : Dp) : Dp := { d with coh := { d.coh with txns := d.coh.txns.erase t } }

/-- FWD (R132, R134): served at once, or queued by a package named owner before its data has come. -/
def execFwd (q : Msg) (s : State) : Host.Outcome State Fault Refusal :=
  liftDp (fun m d =>
    if q.opcode < 0x40 || 0x42 < q.opcode then d
    else
      let d := takeInbox q d
      let holds : Bool := (copyOf d (q.addr / 64)).any fun x => decide (x.state ≥ 2)
      match owning d (q.addr / 64) with
      | some t => if holds then settle m (serveFwd m q d) else modTxn t (fun t => { t with fwds := t.fwds ++ [q] }) d
      | none => settle m (serveFwd m q d)) s

/-- A snoop reaches this package: it is answered before the package's own request, unless the package has been told that it owns the line (R132, R134). -/
def takeSnoop (m : Mgt) (q : Msg) (d : Dp) : Dp :=
  match owning d (q.addr / 64) with
  | some t => if t.acks && t.data.isNone then modTxn t (fun t => { t with fwds := t.fwds ++ [q] }) d else settle m (serveSnoop m q d)
  | none => settle m (serveSnoop m q d)

/-- SNP_INV (R138). -/
def execSnpInv (q : Msg) (s : State) : Host.Outcome State Fault Refusal :=
  liftDp (fun m d => if q.opcode = 0x48 then takeSnoop m q (takeInbox q d) else d) s

/-- SNP_SHARE (R138). -/
def execSnpShare (q : Msg) (s : State) : Host.Outcome State Fault Refusal :=
  liftDp (fun m d => if q.opcode = 0x49 then takeSnoop m q (takeInbox q d) else d) s

/-- SNP_CUR (R138). -/
def execSnpCur (q : Msg) (s : State) : Host.Outcome State Fault Refusal :=
  liftDp (fun m d => if q.opcode = 0x4A then takeSnoop m q (takeInbox q d) else d) s

/-! ### Answers at the home (R128, R132, R137 to R141, R364) -/

/-- INV_ACK (R126, R128): the holder has no copy left. -/
def execInvAck (q : Msg) (s : State) : Host.Outcome State Fault Refusal :=
  liftDp (fun m d =>
    if q.opcode ≠ 0x50 then d
    else settle m (snoopAnswered m (lineOf q.addr) (.pkg q.source) true false (takeInbox q d))) s

/-- SNP_ACK (R128, R132): the holder keeps what its snoop left it; a FWD's owner has supplied the requester. -/
def execSnpAck (q : Msg) (s : State) : Host.Outcome State Fault Refusal :=
  liftDp (fun m d =>
    if q.opcode ≠ 0x51 then d
    else
      let d := takeInbox q d
      let line := lineOf q.addr
      match d.coh.trackers.find? fun t => t.line = line && t.snoops.any (·.holder = .pkg q.source) with
      | none => d
      | some t =>
        let fwd : Bool := t.snoops.any fun x => x.holder = .pkg q.source && x.kind = .fwd
        let gone : Bool := fwd && kindOf m t.via t.req = .own
        settle m (snoopAnswered m line (.pkg q.source) gone (fwd && t.via = .daras) d)) s

/-- COMPLETE (R132): the line is no longer busy. -/
def execComplete (q : Msg) (s : State) : Host.Outcome State Fault Refusal :=
  liftDp (fun m d =>
    if q.opcode ≠ 0x54 then d
    else
      let d := takeInbox q d
      let mine := fun (t : Tracker) => t.line = lineOf q.addr && t.complete.isSome && t.req.source = q.source && t.req.txn = q.txn
      settle m { d with coh := { d.coh with trackers := d.coh.trackers.filter fun t => !mine t } }) s

/-- COMPLETE_TIMEOUT (R364): the transaction is taken as completed. -/
def execCompleteTimeout (line : Nat) (s : State) : Host.Outcome State Fault Refusal :=
  liftDp (fun m d =>
    let due := fun (t : Tracker) => t.line = line && (match t.complete with | some since => decide (m.clk.ltb ≥ since + m.snoopTicks) | none => false)
    if d.coh.trackers.any due then settle m { d with coh := { d.coh with trackers := d.coh.trackers.filter fun t => !due t } } else d) s

/-- BIRSP (R139, R533): a host's answer, with the dirty data that came before it; a host that the home no longer waits for has made an ordinary write. -/
def execBirsp (port : Fin 2) (addr : BitVec 64) (dirty : Option Bytes) (poison : Bool) (s : State) : Host.Outcome State Fault Refusal :=
  liftDp (fun m d =>
    let line := lineOf addr.toNat
    match (d.coh.trackers.find? fun t => t.line = line && t.snoops.any fun x => x.holder = .host port && x.sent),  dirty with
    | some t, data =>
      let kind := ((t.snoops.find? (·.holder = .host port)).map (·.kind)).getD .inv
      let d := match data with | some b => takeData m line (fit 64 b) poison d | none => d
      settle m (snoopAnswered m line (.host port) (kind = .inv) false d)
    | none, some b =>
      let part := match storePlace m d addr.toNat with | some (r, _, _) => ((m.region r).map (·.partition)).getD 0 | none => 0
      settle m (arriveAt m (.host port) { m.newMsg 0x06 m.self part 0 (addr.toNat / 64 * 64) fullMask (fit 64 b) with poison := poison } d)
    | none, none => d) s

/-- SNOOP_TIMEOUT (R140, R141): snoops to clusters of the package are never timed. -/
def execSnoopTimeout (line : Nat) (holder : Holder) (s : State) : Host.Outcome State Fault Refusal :=
  liftDp (fun m d =>
    let timed : Bool := match holder with | .cluster _ => false | _ => true
    let due : Bool := d.coh.trackers.any fun t => t.line = line && t.snoops.any fun x => x.holder = holder && decide (m.clk.ltb ≥ x.since + m.snoopTicks)
    if timed && due then settle m (snoopEnds m line holder d) else d) s

/-! ### Lines arriving at a requester (R132 to R134, R144) -/

/-- A transaction's request as another message of the same transaction. -/
def Txn.reply (t : Txn) (opcode : Nat) (payload : Bytes) (poison : Option Nat) : Msg :=
  { t.msg with opcode := opcode, cls := classOf opcode, payload := payload, arg := poison.getD 0, poison := poison.isSome, combine := 0, redirected := false, status := 0 }

/-- A line that this package asked to hold has come with everything the request awaited: the request is performed, or its task is gone (R132, R134, R144). -/
def gotLine (m : Mgt) (t : Txn) (data : Bytes) (poison : Option Nat) (d : Dp) : Dp :=
  let line := t.msg.addr / 64
  let own : Bool := t.msg.opcode = 0x02 || t.msg.opcode = 0x04
  let d := dropTxn t d
  let d := if t.msg.opcode ≤ 0x02 then send m (t.reply 0x54 [] none) d else d
  let others := d.coh.remote.filter fun x => x.line ≠ line || x.writeback
  let d := { d with coh := { d.coh with remote := others } }
  let d :=
    if t.dead then
      if own then
        issue m (.task 0) (m.newMsg 0x08 (t.msg.addr / 2 ^ 50) t.msg.partition t.msg.bwClass (line * 64) 0 [])
          { d with coh := { d.coh with remote := ⟨line, 3, data, poison, true⟩ :: d.coh.remote } }
      else d
    else
      let stores : Bool := own && !t.msg.payload.isEmpty
      let x : RemoteLine :=
        if stores then ⟨line, 3, mergeMask data t.msg.payload t.msg.arg, if t.msg.arg = fullMask then none else poison, false⟩
        else ⟨line, if own then 2 else 1, data, poison, false⟩
      let d := { d with coh := { d.coh with remote := x :: d.coh.remote } }
      match t.via with
      | .task id => if stores then taskDone id 0 0 d else deliverTask id ⟨line, data, poison⟩ d
      | .host p => deliverHost m p.val line data poison d
      | .daras => d
  serveQueued m t.fwds d

/-- Data, or ownership alone, has come for a request to hold a line; owner ordering awaits ACKS_DONE too (R133). -/
def heldData (m : Mgt) (t : Txn) (data : Bytes) (poison : Option Nat) (d : Dp) : Dp :=
  if (t.msg.opcode = 0x03 || t.msg.opcode = 0x04) && !t.acks then modTxn t (fun t => { t with data := some data, poison := poison }) d
  else gotLine m t data poison d

/-- A host's read that another package refused (R319): the oldest that awaits the line. -/
def failHost (m : Mgt) (p line : Nat) (d : Dp) : Dp :=
  let wants := fun (h : HostRead) => h.port = p && !h.failed && h.addr / 64 ≤ line && line < ceilDiv (h.addr + h.bytes) 64 && !h.arrived.any (·.line = line)
  match d.hosts.hostReads.find? wants with
  | none => d
  | some h => closeHostReads m { d with hosts := { d.hosts with hostReads := d.hosts.hostReads.map fun x => if x = h then { h with failed := true } else x } }

/-- A read or a request to hold a line has been refused (R349). -/
def failRead (m : Mgt) (t : Txn) (status region : Nat) (d : Dp) : Dp :=
  let d := dropTxn t d
  if t.dead then d
  else match t.via with
    | .task id => taskDone id status region d
    | .host p => failHost m p.val (t.msg.addr / 64) d
    | .daras => d

/-- DATA at the requester. -/
def requesterData (m : Mgt) (t : Txn) (q : Msg) (d : Dp) : Dp :=
  let poison := if q.poison then some (bits q.arg 31 0) else none
  if q.status ≠ 0 then failRead m t q.status (bits q.arg 31 0) d
  else if t.msg.opcode = 0x05 then
    let d := dropTxn t d
    if t.dead then d
    else match t.via with
      | .task id => deliverTask id ⟨t.msg.addr / 64, q.payload, poison⟩ d
      | .host p => deliverHost m p.val (t.msg.addr / 64) q.payload poison d
      | .daras => d
  else heldData m t q.payload poison d

/-- DATA at the home: a write-back that WB_GO asked for, or what a snooped holder returns; a late one is discarded (R137, R138, R141). -/
def homeData (m : Mgt) (q : Msg) (d : Dp) : Dp :=
  let line := lineOf q.addr
  match d.coh.trackers.find? fun t => t.line = line && t.cause = 5 && t.owner = some q.source with
  | some t =>
    let d := { d with coh := { d.coh with trackers := d.coh.trackers.erase t, writebacks := d.coh.writebacks.filter (· ≠ (line, q.source)) } }
    send m (answerMsg t.req m.self 0x56 0 0 []) (takeData m line q.payload q.poison (removeHolder line (.pkg q.source) d))
  | none =>
    if d.coh.trackers.any fun t => t.line = line && t.snoops.any (·.holder = .pkg q.source) then takeData m line q.payload q.poison d else d

/-- Does a message come from the package that a request went to, or from one that serves it under a map held (R346, R400)? -/
def fromTarget (m : Mgt) (target : Nat) (q : Msg) : Bool :=
  q.source = target || m.comp.maps.any fun r => r.routes.any fun e => e.id = target && e.server = q.source

/-- The request of this package that a message answers: by source, port and index (R346). An owner to whom a home forwarded it sends its DATA in the home's stead, and is told by the line (R132). -/
def answered (m : Mgt) (d : Dp) (q : Msg) (p : Msg → Bool) : Option Txn :=
  d.coh.txns.find? fun t => t.txn = q.txn && p t.msg
    && (fromTarget m t.msg.target q || (q.opcode = 0x60 && lineOf t.msg.addr = lineOf q.addr))

/-- DATA (R347, R536). -/
def execData (q : Msg) (s : State) : Host.Outcome State Fault Refusal :=
  liftDp (fun m d =>
    if q.opcode ≠ 0x60 then d
    else
      let d := countIn q (takeInbox q d)
      settle m (match answered m d q fun r => r.opcode ≤ 0x05 with
        | some t => requesterData m t q d
        | none => homeData m q d)) s

/-- GRANT (R123, R128): ownership of a line this package holds in S. -/
def execGrant (q : Msg) (s : State) : Host.Outcome State Fault Refusal :=
  liftDp (fun m d =>
    if q.opcode ≠ 0x52 then d
    else
      let d := takeInbox q d
      match answered m d q fun r => r.opcode = 0x02 || r.opcode = 0x04 with
      | some t => match d.coh.remote.find? fun x => x.line = t.msg.addr / 64 && !x.writeback with
        | some x => settle m (heldData m t x.data x.poison d)
        | none => d
      | none => d) s

/-- ACKS_DONE (R133). -/
def execAcksDone (q : Msg) (s : State) : Host.Outcome State Fault Refusal :=
  liftDp (fun m d =>
    if q.opcode ≠ 0x53 then d
    else
      let d := takeInbox q d
      match answered m d q fun r => r.opcode = 0x03 || r.opcode = 0x04 with
      | some t => match t.data with
        | some b => settle m (gotLine m t b t.poison d)
        | none => modTxn t (fun t => { t with acks := true }) d
      | none => d) s

/-! ### Write-backs at the holder (R137) -/

/-- The write-back buffer of a line. -/
def bufferOf (d : Dp) (line : Nat) : Option RemoteLine := d.coh.remote.find? fun x => x.line = line && x.writeback

/-- WB_GO (R137): the holder sends its data. -/
def execWbGo (q : Msg) (s : State) : Host.Outcome State Fault Refusal :=
  liftDp (fun m d =>
    if q.opcode ≠ 0x55 then d
    else
      let d := takeInbox q d
      match answered m d q fun r => r.opcode = 0x08 with
      | some t => match bufferOf d (t.msg.addr / 64) with
        | some x => send m (t.reply 0x60 x.data x.poison) d
        | none => d
      | none => d) s

/-- WB_DONE (R137): the buffer is freed, once the counted FWD has been served. -/
def execWbDone (q : Msg) (s : State) : Host.Outcome State Fault Refusal :=
  liftDp (fun m d =>
    if q.opcode ≠ 0x56 then d
    else
      let d := takeInbox q d
      match answered m d q fun r => r.opcode = 0x08 with
      | some t =>
        let d := dropTxn t d
        settle m (match bufferOf d (t.msg.addr / 64) with
          | some x => if q.arg = 0 || x.state = 0 || x.state = 1 then setCopy x none d else setCopy x (some { x with state := 4 }) d
          | none => d)
      | none => d) s

/-! ### Other answers -/

/-- A record that could not be delivered after its task was gone: its slot stands in the record itself (R168, R171, R448, R451). -/
def lostRecord (m : Mgt) (q : Msg) (d : Dp) : Dp :=
  let r := if q.opcode = 0x07 then slice q.payload (q.addr % 64 + (((List.range 64).find? (bitAt q.arg)).getD 0)) 32 else q.payload
  undeliverable m q.partition (if q.opcode = 0x07 then fieldAt r 1 41 32 else fieldAt r 0 15 6) q.addr r d

/-- Strike an acknowledged guard write from its tracker; LOST fences the home (R393, R396). -/
def guardAnswered (m : Mgt) (q : Msg) (d : Dp) : Dp :=
  let d := { d with coh := { d.coh with trackers := d.coh.trackers.map fun t => { t with guards := t.guards.filter fun g => g.2.1 ≠ q.txn } } }
  let d := if q.status = 0x05 then enterFenced m d else d
  (d.coh.trackers.map (·.line)).eraseDups.foldl (fun d l => finishLine m l d) d

/-- A watch at another package could not be registered: no watch was free, and the task polls; or it may not wait there (R165, R349). -/
def watchAnswered (m : Mgt) (id status region : Nat) (d : Dp) : Dp :=
  match status with
  | 0x08 => modTask id (fun t => { t with polling := true, seen := m.clk.ltb }) d
  | 0x04 => failTask id 0x20 region d
  | 0x05 => failTask id 0x21 region d
  | 0x00 => d
  | _ => failTask id 0x24 0x06 d

/-- An ACK for a request of a task. -/
def ackTask (m : Mgt) (id : Nat) (t : Txn) (q : Msg) (d : Dp) : Dp :=
  let region := bits q.arg 31 0
  match t.msg.opcode with
  | 0x1B => watchAnswered m id q.status region d
  | 0x1C => d
  | 0x18 => modTask id (fun x => { x with outstanding := x.outstanding - 1, prog := { x.prog with asked := (t.msg.addr, q.status, q.arg) :: x.prog.asked.filter (·.1 ≠ t.msg.addr) } }) d
  | 0x19 => modTask id (fun x => { x with outstanding := x.outstanding - 1, prog := { x.prog with asked := (t.msg.addr, q.status, q.arg) :: x.prog.asked.filter (·.1 ≠ t.msg.addr) } }) d
  | _ =>
    if (d.task id).isNone then (if q.status = 0 then d else lostRecord m t.msg d)
    else taskDone id q.status (if q.status = 0x03 then 0xFFFFFFFF else region) d

/-- The segments of a forwarded operational message go out (R347, R474). -/
def sendForward (m : Mgt) (f : Forward) (d : Dp) : Dp :=
  let n := ceilDiv f.bytes.length 128
  (List.range n).foldl (fun d i =>
    let q := m.newMsg 0x29 f.target 0 m.pkg.hkClass (f.target * 2 ^ 50) (i * 2 ^ 16 + n) (slice f.bytes (128 * i) 128)
    send m { q with txn := f.txn, epoch := f.epoch, redirected := f.resent } d) d

/-- A forward is over: its MCTP request is answered (R474). -/
def endForward (f : Forward) (reason alive : Nat) (d : Dp) : Dp :=
  emit (.mctp f.endpoint 0x7E03 [BitVec.ofNat 8 reason, BitVec.ofNat 8 alive]) { d with fab := { d.fab with forwards := d.fab.forwards.erase f } }

/-- The target of a forwarded operational message has answered (R474). -/
def forwardAnswered (m : Mgt) (q : Msg) (d : Dp) : Dp :=
  match d.fab.forwards.find? fun f => f.txn = q.txn && fromTarget m f.target q with
  | some f => endForward f (bits q.arg 7 0) (bits q.arg 15 8) d
  | none => d

/-- A forward whose epoch this package now holds is sent again. -/
def releaseForwards (m : Mgt) (d : Dp) : Dp :=
  (d.fab.forwards.filter fun f => f.held && f.epoch ∈ m.epochs).foldl (fun d f =>
    let f' := { f with held := false }
    sendForward m f' { d with fab := { d.fab with forwards := d.fab.forwards.map fun x => if x = f then f' else x } }) d

/-- A segment of a forward has been redirected: the message is sent again once, under the epoch named; a second redirect ends it (R361). -/
def forwardRedirected (m : Mgt) (q : Msg) (d : Dp) : Dp :=
  match d.fab.forwards.find? fun f => f.txn = q.txn && f.epoch = q.epoch with
  | some f =>
    if f.resent then endForward f 0x48 0 d
    else releaseForwards m { d with fab := { d.fab with forwards := d.fab.forwards.map fun x => if x = f then { f with epoch := bits q.arg 7 0, resent := true, held := true } else x } }
  | none => d

/-- Forwards to a target that have not been answered within DAR.E2E_TIMEOUT of their first segment (R474). -/
def expireForwards (m : Mgt) (addr : Nat) (d : Dp) : Dp :=
  (d.fab.forwards.filter fun f => f.target * 2 ^ 50 = addr && decide (m.clk.ltb ≥ f.since + m.e2e)).foldl (fun d f => endForward f 0x48 0 d) d

/-- ACK (R347, R349, R396). -/
def execAck (q : Msg) (s : State) : Host.Outcome State Fault Refusal :=
  liftDp (fun m d =>
    if q.opcode ≠ 0x58 then d
    else
      let d := takeInbox q d
      match answered m d q fun r => 0x05 < r.opcode && r.opcode ≠ 0x08 with
      | none => forwardAnswered m q d
      | some t =>
        let d := dropTxn t d
        settle m (match t.via with
          | .daras => guardAnswered m q d
          | .host p => if t.msg.origin = 1 && !t.dead then hostAnswer m p.val 0 0 [] t.msg.partition t.msg.bwClass d else d
          | .task id => if t.dead then d else ackTask m id t q d)) s

/-- DATA_RET (R347): the returned bytes of an atomic; this package's own operations send none that await one, so only its status matters. -/
def execDataRet (q : Msg) (s : State) : Host.Outcome State Fault Refusal :=
  liftDp (fun m d =>
    if q.opcode ≠ 0x61 then d
    else
      let d := countIn q (takeInbox q d)
      match answered m d q fun r => r.opcode = 0x11 || r.opcode = 0x28 with
      | none => d
      | some t =>
        let d := dropTxn t d
        settle m (match t.via with
          | .task id => if t.dead then d else taskDone id (if q.poison then 0x04 else q.status) (bits q.arg 31 0) d
          | _ => d)) s

/-- WAKE (R165, R347). -/
def execWake (q : Msg) (s : State) : Host.Outcome State Fault Refusal :=
  liftDp (fun m d =>
    if q.opcode ≠ 0x59 then d
    else
      let d := takeInbox q d
      match answered m d q fun r => r.opcode = 0x1B with
      | none => d
      | some t =>
        let d := dropTxn t d
        match t.via with
        | .task id => if t.dead then d else settle m (wakeTask id q.arg d)
        | _ => d) s

/-! ### Redirects (R146, R361) -/

/-- A redirected request is held until its new epoch is, and then sent once more. -/
def resend (epoch : Nat) (t : Txn) (d : Dp) : Dp :=
  let q := { t.msg with redirected := true, epoch := epoch }
  let wire := if q.opcode = 0x02 || q.opcode = 0x04 then { q with payload := [], arg := 0 } else q
  { modTxn t (fun t => { t with msg := q }) d with
    coh := { (modTxn t (fun t => { t with msg := q }) d).coh with heldHome := (modTxn t (fun t => { t with msg := q }) d).coh.heldHome ++ [wire] } }

/-- A second REDIRECT ends the task (R361). -/
def giveUp (m : Mgt) (t : Txn) (d : Dp) : Dp :=
  let d := dropTxn t d
  if t.dead then d
  else match t.via with
    | .task id => abortTask id 0x02 (modTask id (fun x => { x with outstanding := x.outstanding - 1 }) d)
    | .host p => failHost m p.val (t.msg.addr / 64) d
    | .daras => d

/-- A snoop or FWD answered with REDIRECT is resent once; its timer keeps running (R146). -/
def resendSnoop (m : Mgt) (q : Msg) (d : Dp) : Dp :=
  let line := lineOf q.addr
  match d.coh.trackers.find? fun t => t.line = line && t.snoops.any fun x => x.sent && !x.resent && (match x.holder with | .pkg _ => true | _ => false) with
  | none => d
  | some t =>
    let named : Bool := t.snoops.any fun x => x.holder = .pkg q.source && !x.resent
    let again := fun (x : Snoop) => x.sent && !x.resent && (match x.holder with | .pkg k => !named || k = q.source | _ => false)
    let d := { d with coh := { d.coh with trackers := d.coh.trackers.map fun x => if x = t then { t with snoops := modWhere t.snoops again fun y => { y with resent := true } } else x } }
    (t.snoops.filter again).foldl (fun d x => sendSnoop m line t.req (t.via = .daras) x d) d

/-- REDIRECT (R146, R361). -/
def execRedirect (q : Msg) (s : State) : Host.Outcome State Fault Refusal :=
  liftDp (fun m d =>
    if q.opcode ≠ 0x57 then d
    else
      let d := takeInbox q d
      settle m (match d.coh.txns.find? fun t => t.txn = q.txn && (fromTarget m t.msg.target q || t.msg.addr = q.addr) with
        | some t =>
          if t.via ≠ .daras && t.msg.redirected then giveUp m t d
          else resend (bits q.arg 7 0) t d
        | none => if d.fab.forwards.any (·.txn = q.txn) then forwardRedirected m q d else resendSnoop m q d)) s

/-! ### The end-to-end timer (R363) -/

/-- A request of a task has waited for the end-to-end timeout: its task ends with FAIL_TIMEOUT, naming the package that did not answer. -/
def expireTxn (m : Mgt) (id addr : Nat) (d : Dp) : Dp :=
  let due := fun (t : Txn) => t.via = .task id && !t.dead && t.msg.addr / 64 = addr / 64 && t.msg.opcode ≠ 0x1B && t.msg.opcode ≠ 0x08 && decide (m.clk.ltb ≥ t.since + m.e2e)
  match d.coh.txns.find? due with
  | none => d
  | some t =>
    let d := modTxn t (fun t => { t with dead := true }) d
    if (d.task id).isNone then (if t.msg.opcode = 0x06 || t.msg.opcode = 0x07 then lostRecord m t.msg d else d)
    else failTask id 0x25 (addr / 2 ^ 50) (modTask id (fun x => { x with outstanding := x.outstanding - 1 }) d)

/-- The same for a request that waits at a home of this package: the home's transaction goes on. -/
def expireLocal (m : Mgt) (id addr : Nat) (d : Dp) : Dp :=
  if d.coh.stamps.any fun x => x.1 = id && x.2.1 = addr / 64 && decide (m.clk.ltb ≥ x.2.2 + m.e2e) then failTask id 0x25 m.self d else d

/-- The same for a translation or a read of host memory, at a page or line of host-mapped space (R66, R320, R324). -/
def expireHost (m : Mgt) (id addr : Nat) (d : Dp) : Dp :=
  match outWindow m addr with
  | none => d
  | some w =>
    let u := addr - w.poolBase + w.hostBase
    let page := u / w.pageBytes * w.pageBytes
    let req : Bool := d.hosts.reqs.any fun r => r.port = w.port && r.page = page && id ∈ r.tasks && decide (m.clk.ltb ≥ r.since + m.e2e)
    let read : Bool := d.hosts.reads.any fun r => r.task = id && (r.line = addr / 64 || r.flush) && decide (m.clk.ltb ≥ r.since + m.e2e)
    if !req && !read then d
    else
      let drop := fun (d : Dp) => { d with hosts := { d.hosts with reqs := d.hosts.reqs.map fun r => { r with tasks := r.tasks.filter (· ≠ id) } } }
      match d.task id with
      | none => d
      | some t =>
        if req && stageOf d id = 23 then removeTask m id (undeliverable m t.part t.slot (wordAt t.record 1) (taskCpl m d t) (drop d))
        else failTask id 0x25 m.self { drop d with hosts := { (drop d).hosts with reads := modWhere (drop d).hosts.reads (fun r => r.task = id && (r.line = addr / 64 || r.flush)) fun r => { r with drained := true, lost := false } } }

/-- What no task issued: a host's request to another package, and rejections whose completion waits for a translation (R171, R319). -/
def expireOther (m : Mgt) (addr : Nat) (d : Dp) : Dp :=
  let due := fun (t : Txn) => (match t.via with | .host _ => true | _ => false) && !t.dead && t.msg.addr / 64 = addr / 64 && decide (m.clk.ltb ≥ t.since + m.e2e)
  let d := (d.coh.txns.filter due).foldl (fun d t =>
    let d := modTxn t (fun t => { t with dead := true }) d
    match t.via with
    | .host p => if t.msg.opcode ≤ 0x05 then failHost m p.val (addr / 64) d
        else if t.msg.origin = 1 then hostAnswer m p.val 0 0 [] t.msg.partition t.msg.bwClass d else d
    | _ => d) d
  let late := d.tasks.due.filter fun x => x.2.2.1 / 64 = addr / 64 && (match outWindow m x.2.2.1 with
    | some w =>
      let page := (x.2.2.1 - w.poolBase + w.hostBase) / w.pageBytes * w.pageBytes
      d.hosts.reqs.any fun r => r.port = w.port && r.page = page && 0 ∈ r.tasks && decide (m.clk.ltb ≥ r.since + m.e2e)
    | none => false)
  late.foldl (fun d x => undeliverable m x.2.1 x.1 x.2.2.1 x.2.2.2 d)
    { d with tasks := { d.tasks with due := d.tasks.due.filter fun x => x ∉ late } }

/-- E2E_TIMEOUT (R319, R363): task 0 stands for requests that no task issued. -/
def execE2eTimeout (id : Nat) (addr : BitVec 64) (s : State) : Host.Outcome State Fault Refusal :=
  liftDp (fun m d =>
    let a := addr.toNat
    let d := expireTxn m id a d
    settle m (if id = 0 then expireForwards m a (expireOther m a d) else expireHost m id a (expireLocal m id a d))) s

end Sys2Proof.Machine
end

