-- ==== Sys2Proof/Machine/Image.lean ====
section
/-! DEFINITION. The Mesko image: its layout, the maps it may carry, and every check the loader makes, in order (chapter "The configuration image", R460 to R472). -/

namespace Sys2Proof.Machine

/-! ### Sections (R461 to R463) -/

/-- A section directory entry (R463, Table 2). -/
structure Section where
  type : Nat
  offset : Nat
  entries : Nat
  entryBytes : Nat
  reserved : Nat
  deriving DecidableEq, Repr

/-- The sixteen directory entries of a copy. -/
def sectionsOf (b : Bytes) : List Section :=
  (List.range 16).map fun i =>
    let e := slice b (128 + 16 * i) 16
    ⟨fieldAt e 0 63 56, fieldAt e 0 31 0, fieldAt e 1 63 32, fieldAt e 1 31 0, fieldAt e 0 55 32⟩

/-- Sections that the header counts. -/
def usedSections (b : Bytes) : List Section := (sectionsOf b).take (fieldAt b 0 7 0)

/-- Entry bytes, least and most entries, and whether a section type is required (R463, Table 3). -/
def sectionRule : Nat → Option (Nat × Nat × Nat × Bool)
  | 0x01 => some (128, 1, 1, true)
  | 0x02 => some (168, 1, 1, true)
  | 0x03 => some (32, 1, 64, true)
  | 0x04 => some (64, 0, 4096, false)
  | 0x05 => some (32, 0, 32, false)
  | 0x06 => some (32, 0, 1024, false)
  | 0x07 => some (32, 192, 192, true)
  | 0x08 => some (1040, 0, 16, false)
  | 0x09 => some (8, 12, 12, true)
  | 0x0A => some (32, 16, 16, false)
  | 0x0B => some (65664, 0, 1, false)
  | _ => none

/-- The entries of a section type, as bytes. -/
def entriesOf (b : Bytes) (type : Nat) : List Bytes :=
  match (usedSections b).find? (·.type = type) with
  | none => []
  | some s => (List.range s.entries).map fun i => slice b (s.offset + i * s.entryBytes) s.entryBytes

/-- Cause 0x01 (R471): header, directory and the places of the sections; `n` bytes of the copy were read. -/
def badLayout (b : Bytes) : Bool :=
  let n := fieldAt b 1 31 0
  let count := fieldAt b 0 7 0
  let ss := usedSections b
  let ends := fun (s : Section) => s.offset + s.entries * s.entryBytes
  fieldAt b 0 63 32 ≠ 0x4D534B31 || fieldAt b 0 31 24 ≠ 0x01
  || fieldAt b 0 14 8 ≠ 0 || wordAt b 2 ≠ 0 || wordAt b 3 ≠ 0 || (slice b 64 64).any (· ≠ 0)
  || count = 0 || count > 16 || n % 64 ≠ 0 || n > 0x2000000 || n < 448 || b.length ≠ n
  || ((sectionsOf b).drop count).any (fun s => s ≠ ⟨0, 0, 0, 0, 0⟩)
  || ss.any (fun s => s.reserved ≠ 0 || s.offset % 64 ≠ 0 || s.offset < 384 || ends s > n - 64
      || match sectionRule s.type with
        | none => true
        | some (size, lo, hi, _) => s.entryBytes ≠ size || s.entries < lo || hi < s.entries)
  || (List.range ss.length).any (fun i => (List.range i).any fun j =>
      match ss[i]?, ss[j]? with
      | some x, some y => x.type = y.type || (x.offset < ends y && y.offset < ends x)
      | _, _ => false)
  || ([1, 2, 3, 7, 9].any fun t => !ss.any (·.type = t))

/-! ### Reading the entries -/

/-- The PACKAGE entry (R464, Table 4). -/
def readPackage (e : Bytes) : PackageEntry where
  packageId := fieldAt e 0 63 50
  ownerOrdered := fieldAt e 0 49 48 = 2
  forerunner := fieldAt e 0 47 47 = 1
  debugStart := fieldAt e 0 46 46
  modeStart := fieldAt e 0 45 45
  obsEnable := fieldAt e 0 44 39
  hkClass := fieldAt e 0 38 36
  hkQueue := fieldAt e 0 35 30
  mrdimm := fieldAt e 0 29 28 = 2
  darPorts := fieldAt e 0 23 16
  hostModes := [fieldAt e 0 15 14, fieldAt e 0 13 12]
  loopId := fieldAt e 1 63 50
  loopEnable := fieldAt e 1 49 49 = 1
  subsysVendor := fieldAt e 1 47 32
  subsysId := fieldAt e 1 31 16
  frLimits := [fieldAt e 1 15 8, fieldAt e 1 7 0]
  farMtsCap := fieldAt e 2 63 48
  heatEpochMs := fieldAt e 2 47 37
  heatMargin := fieldAt e 2 36 29
  migrateBudget := fieldAt e 2 28 14
  scrubHours := fieldAt e 2 13 6
  guardReserveGib := fieldAt e 3 63 32
  rebuildGbps := fieldAt e 3 31 16
  resumeWaitMs := fieldAt e 3 15 0
  classDeadline := (List.range 8).map fun c => fieldAt e (4 + c / 4) (16 * (c % 4) + 15) (16 * (c % 4))

/-- The timers and observation fields of the PACKAGE entry. -/
def readTimers (e : Bytes) : TimerEntry where
  retryBudgetUs := fieldAt e 6 63 56
  snoopTimeoutMs := fieldAt e 6 55 48
  e2e10us := fieldAt e 6 47 32
  leaseLossMs := fieldAt e 6 31 16
  beat10us := fieldAt e 6 15 8
  silence10us := fieldAt e 7 63 48
  decide10us := fieldAt e 7 47 32
  idleDelayUs := fieldAt e 7 31 0
  colourAware := wordAt e 8
  yellowClasses := fieldAt e 9 63 56
  sampleTicks := fieldAt e 9 55 36
  logBase := fieldAt e 10 63 32
  logBytes := fieldAt e 10 31 0

/-- A PARTITIONS entry (R466, Table 6). -/
def readPart (e : Bytes) : PartEntry :=
  ⟨fieldAt e 0 63 58, fieldAt e 0 57 57 = 1, fieldAt e 0 56 56 = 1, fieldAt e 0 55 48, fieldAt e 0 47 32,
    fieldAt e 0 31 31 = 1, fieldAt e 0 30 28, (List.range 8).map fun c => fieldAt e 1 (8 * c + 7) (8 * c)⟩

/-- A region descriptor (R73, Table 1). -/
def readRegion (e : Bytes) : Region where
  id := fieldAt e 0 63 52
  kind := fieldAt e 0 51 48
  partition := fieldAt e 0 45 40
  sealed := fieldAt e 0 39 38 = 1
  tier := fieldAt e 0 37 36
  affinity := fieldAt e 0 35 34
  coarse := fieldAt e 0 33 32
  guard := fieldAt e 0 31 30
  cls := fieldAt e 0 29 27
  retain := fieldAt e 0 23 16
  views := fieldAt e 0 15 8
  drafts := fieldAt e 0 7 0
  base := wordAt e 1
  length := wordAt e 2
  viewBase := wordAt e 3
  kvLayers := fieldAt e 4 63 56
  kvHeads := fieldAt e 4 55 48
  kvDim16 := fieldAt e 4 47 40
  kvFormat := fieldAt e 4 39 32
  kvSessions := fieldAt e 4 31 16

/-- A window entry (R57, Table 1). -/
def readWindow (e : Bytes) : Window :=
  ⟨fieldAt e 0 63 56 = 2, fieldAt e 0 55 48, fieldAt e 0 45 40, fieldAt e 0 39 32, fieldAt e 0 31 0, wordAt e 1, wordAt e 2, fieldAt e 3 63 61⟩

/-- A SLOTS entry (R468, Table 7). -/
def readSlot (e : Bytes) : SlotEntry :=
  ⟨fieldAt e 0 63 54, fieldAt e 0 51 36, fieldAt e 0 35 30, fieldAt e 0 29 21, wordAt e 1⟩

/-- A queue entry (R367, Table 2). -/
def readQueue (e : Bytes) : QueueEntry :=
  ⟨fieldAt e 0 63 61, fieldAt e 0 60 60 = 1, fieldAt e 0 47 32, fieldAt e 0 19 0,
    fieldAt e 1 63 32, fieldAt e 1 31 0, fieldAt e 2 63 32, fieldAt e 2 31 0⟩

/-- A deal: gate masks and ticks (R374, Table 3). -/
def readDeal (e : Bytes) : Deal :=
  (List.range (fieldAt e 0 63 56)).map fun i => (wordAt e (2 + 2 * i), fieldAt e (3 + 2 * i) 63 32)

/-- A point entry (R374). -/
def readPoint (e : Bytes) : PointEntry := ⟨fieldAt e 0 63 59, fieldAt e 0 55 48, fieldAt e 0 47 40⟩

/-- A watch entry (R447, Table 7). -/
def readWatch (e : Bytes) : WatchEntry where
  layer := fieldAt e 0 63 48
  layerMask := fieldAt e 0 47 32
  operator := fieldAt e 0 31 16
  operatorMask := fieldAt e 0 15 0
  partition := fieldAt e 1 63 58
  kind := fieldAt e 1 57 56
  base := let b := fieldAt e 1 55 48; if b ≥ 128 then (b : Int) - 256 else b
  step := fieldAt e 1 47 44
  records := fieldAt e 1 31 0
  buffer := wordAt e 2
  number := fieldAt e 3 63 60

/-! ### Maps (R469, R470) -/

/-- The 4-byte word of a map at an offset. -/
def mapWord (b : Bytes) (off : Nat) : Nat := leNat (slice b off 4)

/-- A route entry of a map (R469, Table 10). -/
def readRoute (b : Bytes) (id : Nat) : RouteEntry :=
  let w := mapWord b (128 + 4 * id)
  ⟨id, bits w 31 24, bitAt w 23, bitAt w 22, bits w 13 0⟩

/-- A map as it is held: its non-zero entries. -/
def readMap (b : Bytes) : MapRec where
  epoch := fieldAt b 0 55 48
  lease := ((List.range 16).map fun i => let w := mapWord b (64 + 4 * i); (bits w 31 28, bits w 27 24, bits w 13 0)).filter (·.1 ≠ 0)
  routes := ((List.range 16384).filter fun i => mapWord b (128 + 4 * i) ≠ 0).map (readRoute b)
  raw := b

/-- A reserved bit or unlisted encoding of a map (R469, R471). -/
def mapReserved (b : Bytes) : Bool :=
  fieldAt b 0 63 56 ≠ 0x01 || fieldAt b 0 32 0 ≠ 0 || (slice b 8 56).any (· ≠ 0)
  || ((List.range 16).any fun i =>
      let w := mapWord b (64 + 4 * i)
      let role := bits w 31 28
      role > 4 || bits w 23 14 ≠ 0 || (role = 0 && w ≠ 0) || (if role = 2 || role = 4 then bits w 27 24 > 9 else bits w 27 24 ≠ 0))
  || ((List.range 16384).any fun i => bits (mapWord b (128 + 4 * i)) 21 14 ≠ 0)

/-- The reason for which a map is refused, if any (R470): `self`, COH.MODE, and the loop in service. -/
def mapRefusal (self : Nat) (ownerOrdered : Bool) (loop : Option Nat) (b : Bytes) : Option Nat :=
  let r := readMap b
  let composed := fieldAt b 0 47 33
  let entry := fun (k : Nat) => r.routes.find? (·.id = k)
  let members := (r.lease.filter (·.1 ≠ 4)).map (·.2.2)
  let own := r.lease.filter (·.1 = 4)
  let coding := (r.lease.filter fun e => e.1 = 2 || e.1 = 4).map (·.2.1)
  if !ownerOrdered && composed > 256 then some 0x02
  else if loop.any fun l => (entry l).any (·.composed) then some 0x03
  else if members.any (fun k => !((entry k).any fun e => e.composed && e.leasesMe))
    || r.routes.any (fun e => e.leasesMe && e.id ∉ members)
    || (r.lease.any (fun e => e.1 = 1 || e.1 = 2) && own.isEmpty)
    || own.any (·.2.2 ≠ self)
    || coding.length ≠ coding.eraseDups.length
    || !((entry self).any (·.composed))
    || composed ≠ (r.routes.filter (·.composed)).length then some 0x04
  else none

/-! ### The checks of Table 11 (R471) -/

/-- A number lies in a range. -/
def within (lo x hi : Nat) : Bool := lo ≤ x && x ≤ hi

/-- The data rates of a DIMM kind (R30, Table 1). -/
def kindRates (mrdimm : Bool) : List Nat := if mrdimm then [8000, 8800] else [4800, 5600, 6400]

/-- A list with repeats. -/
def repeats (l : List Nat) : Bool := l.length ≠ l.eraseDups.length

/-- The PACKAGE entry out of range, or with a reserved bit set. -/
def badPackage (e : Bytes) : Bool :=
  let p := readPackage e
  let t := readTimers e
  !within 1 (fieldAt e 0 49 48) 2 || !within 1 (fieldAt e 0 29 28) 2 || fieldAt e 0 27 24 ≠ 0 || fieldAt e 0 11 0 ≠ 0
  || p.hostModes.any (· > 2) || fieldAt e 1 48 48 ≠ 0 || p.frLimits.any (fun x => !within 1 x 60)
  || p.farMtsCap ∉ kindRates p.mrdimm || !within 1 p.heatEpochMs 1024 || !within 1 p.heatMargin 255
  || p.migrateBudget > 16384 || p.scrubHours > 168 || fieldAt e 2 5 0 ≠ 0
  || !within 10 p.rebuildGbps 1600 || !within 10 p.resumeWaitMs 10000 || p.classDeadline.any (fun x => !within 100 x 10000)
  || !within 10 t.retryBudgetUs 50 || !within 1 t.snoopTimeoutMs 128 || !within 20 t.e2e10us 6400
  || !within 3 t.leaseLossMs 1000 || !within 2 t.beat10us 100 || fieldAt e 6 7 0 ≠ 0
  || !within 25 t.silence10us 1600 || !within 10 t.decide10us 1600 || !within 10 t.idleDelayUs 100000
  || (t.sampleTicks ≠ 0 && !within 100 t.sampleTicks 1000000) || fieldAt e 9 35 0 ≠ 0
  || t.logBase % 65536 ≠ 0 || t.logBytes % 65536 ≠ 0 || (slice e 88 40).any (· ≠ 0)

/-- The KEYS entry out of range (R465): a reserved bit, a key where none is named, or no fabric manager key. -/
def badKeys (e : Bytes) : Bool :=
  let present := fun (n : Nat) => if n = 4 then bitAt (wordAt e 0) 59 else bitAt (wordAt e 0) (60 + n)
  fieldAt e 0 58 0 ≠ 0 || !(List.range 4).any present
  || (List.range 5).any fun n => !present n && (slice e (8 + 32 * n) 32).any (· ≠ 0)

/-- A PARTITIONS entry out of range. -/
def badPart (e : Bytes) : Bool :=
  let p := readPart e
  p.contexts > 1024 || (!p.dirReserve && p.dirWay ≠ 0) || fieldAt e 0 27 0 ≠ 0 || p.queues.any (· > 63) || (slice e 16 16).any (· ≠ 0)

/-- A SLOTS entry out of range. -/
def badSlot (e : Bytes) : Bool :=
  let s := readSlot e
  fieldAt e 0 53 52 ≠ 0 || fieldAt e 0 20 0 ≠ 0 || s.owner > 0x4001 || !within 1 s.depth 256 || s.rejectAddr % 2048 ≠ 0
  || (slice e 16 16).any (· ≠ 0)

/-- Cause 0x06: the timers break their order. -/
def badTimers (p : PackageEntry) (t : TimerEntry) : Bool :=
  4 * t.retryBudgetUs ≥ 10 * t.e2e10us || 10 * t.e2e10us ≥ 1000 * t.snoopTimeoutMs || t.snoopTimeoutMs ≥ t.leaseLossMs
  || 4 * t.beat10us > t.silence10us || 10 * t.silence10us ≤ 4 * t.retryBudgetUs || 1000 * p.resumeWaitMs ≤ 10 * t.e2e10us

/-- Two ranges of a start and a length overlap. -/
def overlap (a n b k : Nat) : Bool := a < b + k && b < a + n

/-- The coarse copies of a region, in bytes (R48). -/
def Region.coarseLen (r : Region) : Nat := match r.coarse with | 1 => r.length / 8 | 2 => r.length / 4 | 3 => r.length / 2 | _ => 0

/-- A region descriptor that breaks Table 1, R48, R74, R75, R350 or R392 on its own. -/
def badRegion (e : Bytes) : Bool :=
  let r := readRegion e
  let kvZero : Bool := wordAt e 4 = 0
  let snapZero : Bool := r.retain = 0 && r.views = 0 && r.drafts = 0 && r.viewBase = 0
  !within 1 r.kind 3 || fieldAt e 0 47 46 ≠ 0 || fieldAt e 0 39 38 > 1 || r.tier > 2 || r.affinity > 2 || r.guard > 2
  || fieldAt e 0 26 24 ≠ 0 || fieldAt e 4 15 0 ≠ 0 || (slice e 40 24).any (· ≠ 0)
  || r.base % 65536 ≠ 0 || r.length % 65536 ≠ 0 || r.base + r.length > 2 ^ 47
  || (r.coarse ≠ 0 && (r.sealed || r.kind = 3))
  || (r.kind ≠ 2 && !snapZero) || (r.kind ≠ 3 && !kvZero)
  || (r.kind = 2 && (r.retain > 15 || !within 1 r.views 64 || !within 1 r.drafts 16 || r.drafts > r.views
      || r.viewBase % 2 ^ 30 ≠ 0 || r.viewBase < 2 ^ 48 || r.viewBase + r.views * r.viewSize > 0x1FFFFFFC00000))
  || (r.kind = 3 && (r.base ≠ 0 || r.length ≠ 0 || !within 1 r.kvLayers 255 || !within 1 r.kvHeads 128
      || !within 2 r.kvDim16 16 || !within 1 r.kvFormat 4 || r.kvSessions = 0))

/-- Some two of a list's elements meet a test. -/
def anyTwo {α : Type} (p : α → α → Bool) : List α → Bool
  | [] => false
  | a :: as => as.any (p a) || anyTwo p as

/-- Cause 0x07. -/
def badRegions (es : List Bytes) : Bool :=
  let rs := es.map readRegion
  es.any badRegion
  || anyTwo (fun a b => overlap a.base a.length b.base b.length) rs
  || anyTwo (fun a b => a.kind = 2 && b.kind = 2 && overlap a.viewBase (a.views * a.viewSize) b.viewBase (b.views * b.viewSize)) rs
  || ((rs.map (·.coarseLen)).sum + ((rs.filter (·.tier = 1)).map (·.length)).sum > 496 * 2 ^ 30)

/-- Cause 0x08 (R57, R59). -/
def badWindows (self : Nat) (es : List Bytes) : Bool :=
  let ws := es.map readWindow
  let len := fun (w : Window) => w.lengthGib * 2 ^ 30
  let mapped := fun (a n : Nat) => overlap a n (self * 2 ^ 50 + 2 ^ 49) (2 ^ 49)
  let one := fun (e : Bytes) =>
    let w := readWindow e
    !within 1 (fieldAt e 0 63 56) 2 || w.port > 1 || fieldAt e 0 47 46 ≠ 0 || fieldAt e 3 60 0 ≠ 0
    || (if w.outbound then !within 1 w.page 2 else w.page ≠ 0) || w.lengthGib = 0
    || w.hostBase % 2 ^ 30 ≠ 0 || w.poolBase % 2 ^ 30 ≠ 0
    || (!w.outbound && mapped w.poolBase (len w))
    || (w.outbound && (w.poolBase < self * 2 ^ 50 + 2 ^ 49 || w.poolBase + len w > self * 2 ^ 50 + 2 ^ 50))
    || overlap w.hostBase (len w) w.poolBase (len w)
    || (w.cls ≠ 0 && (w.outbound || w.poolBase / 2 ^ 50 = self))
  es.any one
  || ([0, 1].any fun p => (ws.filter (·.port = p)).length > 16)
  || anyTwo (fun a b => a.port = b.port && a.outbound = b.outbound && overlap a.hostBase (len a) b.hostBase (len b)) ws
  || anyTwo (fun a b => a.outbound && b.outbound && overlap a.poolBase (len a) b.poolBase (len b)) ws

/-- Cause 0x09: a fallback area outside the PLAIN regions of its partition. -/
def badFallback (self : Nat) (rs : List Region) (s : SlotEntry) : Bool :=
  !rs.any fun r => r.kind = 1 && r.partition = s.partition && self * 2 ^ 50 + r.base ≤ s.rejectAddr
    && s.rejectAddr + 2048 ≤ self * 2 ^ 50 + r.base + r.length

/-- A queue entry that breaks R367. -/
def badQueue (e : Bytes) : Bool :=
  let q := readQueue e
  fieldAt e 0 59 48 ≠ 0 || fieldAt e 0 31 20 ≠ 0 || wordAt e 3 ≠ 0 || !within 16 q.limit 4096 || q.quantum < 1024
  || q.cir = 0 || q.pir < q.cir || !within 1024 q.cbs 16777216 || q.pbs < q.cbs

/-- A deal that breaks R374: `e` is its header and all the entries that follow. -/
def badDeal (e : Bytes) : Bool :=
  let n := fieldAt e 0 63 56
  !within 1 n 64 || fieldAt e 0 55 0 ≠ 0 || wordAt e 1 ≠ 0
  || (readDeal e).any (fun x => !within 1 x.2 1000000)
  || (List.range n).any (fun i => fieldAt e (3 + 2 * i) 31 0 ≠ 0)
  || (e.drop (16 + 16 * n)).any (· ≠ 0)

/-- The longest run of ticks for which a queue's gate is closed, over a list of entries. -/
def longestClosed (q : Nat) : Nat → Nat → Deal → Nat
  | _, best, [] => best
  | run, best, e :: es =>
    let run := if bitAt e.1 q then 0 else run + e.2
    longestClosed q run (max best run) es

/-- A deal that breaks R376: a named queue is open in no entry, or closed for a quarter of DAR.E2E_TIMEOUT, counted cyclically. -/
def starves (e2e10us : Nat) (named : List Nat) (l : Deal) : Bool :=
  named.any fun q => !l.any (fun e => bitAt e.1 q) || longestClosed q 0 0 (l ++ l) ≥ 250 * e2e10us

/-- The queues that some partition or the housekeeping class names. -/
def namedQueues (p : PackageEntry) (parts : List PartEntry) : List Nat := (p.hkQueue :: parts.flatMap (·.queues)).eraseDups

/-- Cause 0x0A (R366, R367, R374, R376). -/
def badScheduling (p : PackageEntry) (t : TimerEntry) (parts : List PartEntry) (qs ds ps : List Bytes) : Bool :=
  let q := qs.map readQueue
  let kind := fun (k : Nat) => (q.drop (64 * k)).take 64
  let named := namedQueues p parts
  qs.any badQueue
  || ([(0, 16384), (1, 4096), (2, 2048)].any fun x => ((kind x.1).map (·.limit)).sum > x.2)
  || ([0, 1, 2].any fun k =>
      ((kind k)[p.hkQueue]?.map (·.cls)) ≠ some p.hkClass
      || parts.any fun x => (List.range 8).any fun c => ((kind k)[x.queues.getD c 0]?.map (·.cls)) ≠ some c)
  || ps.any (fun e => let x := readPoint e
      (x.deal ≠ 0x1F && x.deal ≥ ds.length) || x.guard = 0 || fieldAt e 0 58 56 ≠ 0 || fieldAt e 0 39 0 ≠ 0)
  || ds.any badDeal || ds.any (fun e => starves t.e2e10us named (readDeal e))

/-- A partition is scheduled in isolation at a point (R378): its queues are its own, and the point's deal opens them alone. -/
def aloneAt (p : PackageEntry) (parts : List PartEntry) (x : PartEntry) (deal : Option Deal) : Bool :=
  let mine := x.queues.eraseDups
  let mask := fun (e : Nat × Nat) => (List.range 64).filter fun q => bitAt e.1 q
  p.hkQueue ∉ mine && !parts.any (fun y => y.id ≠ x.id && y.queues.any (· ∈ mine))
  && match deal with
    | none => false
    | some l => l.all (fun e => (mask e).all (· ∉ mine) || (mask e).all (· ∈ mine)) && l.any fun e => (mask e).any (· ∈ mine)

/-- Cause 0x0B (R426, Table 5; R467). -/
def badIsolation (p : PackageEntry) (parts : List PartEntry) (rs : List Region) (ws : List Window) (deals : List Deal) (points : List PointEntry) : Bool :=
  let iso := parts.filter (·.isolated)
  let one := fun (x : PartEntry) =>
    let mine := rs.filter (·.partition = x.id)
    let east := mine.any (·.affinity = 1)
    let west := mine.any (·.affinity = 2)
    points.any (fun e => !aloneAt p parts x (if e.deal = 0x1F then none else deals[e.deal]?))
    || mine.any (fun r => r.tier = 0 || r.affinity = 0)
    || x.clusters = 0 || (!mine.isEmpty && (setBits 8 x.clusters).any fun c => if c < 4 then !west else !east)
    || !x.dirReserve
    || ws.any (fun w => w.partition = x.id && ws.any fun v => v.port = w.port && v.partition ≠ x.id)
  iso.any one || iso.length > 4
  || repeats (parts.flatMap fun x => setBits 8 x.clusters)
  || repeats ((parts.filter (·.dirReserve)).map (·.dirWay))
  || ((parts.flatMap fun x => setBits 8 x.clusters).eraseDups.length = 8 && parts.any (·.clusters = 0))

/-- A watch entry that breaks R448 or its field map (R447). -/
def badWatch (self : Nat) (rs : List Region) (e : Bytes) : Bool :=
  let w := readWatch e
  let n := w.records * 128
  w.kind = 3 || fieldAt e 1 43 32 ≠ 0 || fieldAt e 3 59 0 ≠ 0
  || (w.kind ≠ 0 && (w.step = 0 || !within 1 w.records 65536 || w.buffer % 128 ≠ 0
      || !rs.any fun r => r.kind ≠ 3 && (r.kind = 1 || r.sealed) && r.partition = w.partition
        && self * 2 ^ 50 + r.base ≤ w.buffer && w.buffer + n ≤ self * 2 ^ 50 + r.base + r.length))

/-- Cause 0x05: a field of Tables 4 to 7 out of range, a repeat, or an undeclared partition. -/
def badEntries (b : Bytes) : Bool :=
  let parts := (entriesOf b 3).map readPart
  let ids := parts.map (·.id)
  (entriesOf b 1).any badPackage || (entriesOf b 2).any badKeys || (entriesOf b 3).any badPart || (entriesOf b 6).any badSlot
  || repeats ids || repeats ((entriesOf b 4).map fun e => (readRegion e).id) || repeats ((entriesOf b 6).map fun e => (readSlot e).number)
  || ((entriesOf b 4).any fun e => (readRegion e).partition ∉ ids)
  || ((entriesOf b 5).any fun e => (readWindow e).partition ∉ ids)
  || ((entriesOf b 6).any fun e => (readSlot e).partition ∉ ids)

/-- Cause 0x0D: the MAP section, the loop identifier, and the event log's place in a flash of a size. -/
def badMapSection (p : PackageEntry) (t : TimerEntry) (flashBytes : Nat) (maps : List Bytes) : Bool :=
  let loop := if p.loopEnable then some p.loopId else none
  maps.any (fun e => mapReserved e || fieldAt e 0 55 48 ≠ 0 || (mapRefusal p.packageId p.ownerOrdered loop e).isSome)
  || (p.loopEnable && p.loopId = p.packageId)
  || (t.logBytes ≠ 0 && (t.logBase < 0x04400000 || t.logBase + t.logBytes > flashBytes))

/-- The value of a thermometer counter: its burnt bits (R414). -/
def counterValue {n : Nat} (c : BitVec n) : Nat := popBits n c.toNat

/-- The first check of Table 11 that a copy fails, if any (R471). -/
def imageCause (f : Fuses) (flashBytes : Nat) (b : Bytes) : Option Nat :=
  let pe := (entriesOf b 1).headD []
  let p := readPackage pe
  let t := readTimers pe
  let parts := (entriesOf b 3).map readPart
  let rs := (entriesOf b 4).map readRegion
  let ds := (entriesOf b 8).map readDeal
  if badLayout b then some 0x01
  else if f.ownerHash ≠ some (sha512 (slice b 32 32)) then some 0x02
  else if !edVerify (slice b 32 32) (b.take (b.length - 64)) (b.drop (b.length - 64)) then some 0x03
  else if fieldAt b 0 23 16 < counterValue f.imageCounter then some 0x04
  else if badEntries b then some 0x05
  else if badTimers p t then some 0x06
  else if badRegions (entriesOf b 4) then some 0x07
  else if badWindows p.packageId (entriesOf b 5) then some 0x08
  else if ((entriesOf b 6).map readSlot).any (badFallback p.packageId rs) then some 0x09
  else if badScheduling p t parts (entriesOf b 7) (entriesOf b 8) (entriesOf b 9) then some 0x0A
  else if badIsolation p parts rs ((entriesOf b 5).map readWindow) ds ((entriesOf b 9).map readPoint) then some 0x0B
  else if (entriesOf b 0xA).any (badWatch p.packageId rs) then some 0x0C
  else if badMapSection p t flashBytes (entriesOf b 0xB) then some 0x0D
  else none

/-- A copy as it is held once it is accepted. -/
def readImage (copyB : Bool) (b : Bytes) : Image where
  copyB := copyB
  version := fieldAt b 1 63 32
  secver := fieldAt b 0 23 16
  commit := fieldAt b 0 15 15 = 1
  ownerKey := slice b 32 32
  pkg := readPackage ((entriesOf b 1).headD [])
  timers := readTimers ((entriesOf b 1).headD [])
  fmKeys := let k := (entriesOf b 2).headD []
    (List.range 4).map fun n => if bitAt (wordAt k 0) (60 + n) then some (slice k (8 + 32 * n) 32) else none
  debugKey := let k := (entriesOf b 2).headD []
    if bitAt (wordAt k 0) 59 then some (slice k 136 32) else none
  keysRaw := (entriesOf b 2).headD []
  parts := (entriesOf b 3).map readPart
  regions := (entriesOf b 4).map readRegion
  windows := (entriesOf b 5).map readWindow
  slots := (entriesOf b 6).map readSlot
  queues := (entriesOf b 7).map readQueue
  deals := (entriesOf b 8).map readDeal
  points := (entriesOf b 9).map readPoint
  watch := (entriesOf b 0xA).map readWatch
  map := (entriesOf b 0xB).head?.map readMap
  raw := b

/-- The flash offset of an image copy (R460). -/
def copyOffset (copyB : Bool) : Nat := if copyB then 0x02400000 else 0x00400000

/-- The bytes of an image copy in the flash: as many as its header gives, at most 32 MiB. -/
def copyBytes (n : Nvm) (copyB : Bool) : Bytes :=
  let o := copyOffset copyB
  flashRead n o (min (leNat (flashRead n (o + 8) 4)) 0x2000000)

/-- The flash is large enough and describes itself, quad reads included (R460). -/
def FlashChip.usable (c : FlashChip) : Bool := c.bytes ≥ 134217728 && c.described && c.quadRead

end Sys2Proof.Machine
end

