-- ==== Sys2Proof/Machine/Nvm.lean ====
section
/-! DEFINITION. Non-volatile writes: fuse burns, page programs and sector erases, one after another, and what a sag or a reset does to them (R414, R415, R455, R477, R485, R515 to R518). -/

namespace Sys2Proof.Machine

/-! ### What one write does -/

/-- A byte of a flash list replaced by what a function gives, over a range. -/
def flashFill (f : Nat → Byte) (a : Nat) : Nat → List Host.Cell → List Host.Cell
  | 0, m => m
  | n + 1, m => flashFill f (a + 1) n (cellSet 0xFF m a (f a))

/-- SEC.OWNER_HASH with one bit of one of its words burnt (R411). -/
def burnOwner (old : Option Bytes) (word bit : Nat) : Option Bytes :=
  let b := old.getD (zeros 64)
  some (b.take (8 * word) ++ natBytes 8 (wordAt b word ||| 2 ^ bit) ++ b.drop (8 * word + 8))

/-- A finished write takes effect. -/
def Nvm.apply (k : NvKind) (n : Nvm) : Nvm :=
  match k with
  | .burnFw b => { n with fuses := { n.fuses with fwCounter := n.fuses.fwCounter ||| BitVec.ofNat 64 (2 ^ b) } }
  | .burnImage b => { n with fuses := { n.fuses with imageCounter := n.fuses.imageCounter ||| BitVec.ofNat 128 (2 ^ b) } }
  | .burnFuse w b =>
    let n := { n with extra := setKey n.extra w ((assoc n.extra w).getD 0 ||| BitVec.ofNat 64 (2 ^ b)) }
    match Config.ownerHashWord w with
    | some i => { n with fuses := { n.fuses with ownerHash := burnOwner n.fuses.ownerHash i.val b } }
    | none => n
  | .program o b => { n with flash := cellWrite 0xFF n.flash o b }
  | .erase o => { n with flash := n.flash.filter fun c => c.1 < o || o + 65536 ≤ c.1 }

/-- An erase that a reset abandons leaves its sector undefined (R485). -/
def Nvm.cutShort (o : Nat) (n : Nvm) : Nvm := { n with flash := flashFill Config.cutErase o 65536 n.flash }

/-! ### The queue of writes -/

/-- May a write begin now: out of reset, and with no sag in force (R485, R516)? -/
def Mgt.mayWrite (m : Mgt) : Bool := !m.sag && m.clk.phase ≠ .inReset && m.clk.phase ≠ .off

/-- The write at the front begins, or a suspended erase resumes (R516, R517). -/
def nvStart (m : Mgt) : Mgt :=
  if !m.mayWrite then m
  else match m.nvm.ops with
    | [] => m
    | o :: rest => { m with nvm := { m.nvm with ops := { o with begun := true, suspended := false } :: rest } }

/-- Writes join the queue, and the first begins if it may. -/
def nvQueue (origin : NvOrigin) (ks : List NvKind) (m : Mgt) : Mgt :=
  nvStart { m with nvm := { m.nvm with ops := m.nvm.ops ++ ks.map fun k => ⟨k, origin, false, false⟩ } }

/-- The pages of a program, at most 256 bytes each and none across a page boundary. -/
def pagesOf (o : Nat) (b : Bytes) : List NvKind :=
  (List.range (ceilDiv b.length 256)).map fun i => .program (o + 256 * i) (slice b (256 * i) 256)

/-- The appends that error-log entries owe the flash log are queued: a sector is erased before it is used again (R455, R518). -/
def appendLog (m : Mgt) (d : Dp) : Mgt × Dp :=
  let one := fun (m : Mgt) (e : Nat × Bytes) =>
    let t := m.timers
    let o := t.logBase + m.nvm.logNext
    let ks : List NvKind := (if m.nvm.logWrapped && m.nvm.logNext % 65536 = 0 then [.erase o] else []) ++ [.program o e.2]
    let next := m.nvm.logNext + 64
    let wraps : Bool := next ≥ t.logBytes
    nvQueue (.log e.1) ks { m with nvm := { m.nvm with logNext := if wraps then 0 else next, logWrapped := m.nvm.logWrapped || wraps } }
  (d.obs.flashDue.foldl one m, { d with obs := { d.obs with flashDue := [] } })

/-- An error-log entry whose append has not begun loses its mark (R455). -/
def unflash (seqs : List Nat) (d : Dp) : Dp :=
  { d with obs := { d.obs with log := modWhere d.obs.log (fun e => decide (e.seq ∈ seqs)) fun e => { e with flash := false } } }

/-- The sequence number of a log append. -/
def NvOrigin.logSeq : NvOrigin → Option Nat
  | .log s => some s
  | _ => none

/-- Is a write kept when a sag begins: begun, a debug burn, or part of an IMAGE_WRITE that has begun (R517)? -/
def NvOp.staysInSag (o : NvOp) : Bool := o.begun || o.origin = .debug || o.origin = .imageWrite

/-- A sag has begun: an erase is suspended, counter burns and log appends not begun are dropped (R516, R517). -/
def nvSag (m : Mgt) (d : Dp) : Mgt × Dp :=
  let stop := fun (o : NvOp) => match o.kind with
    | .erase _ => { o with suspended := o.begun }
    | _ => o
  let lost := (m.nvm.ops.filter fun o => !o.staysInSag).filterMap (·.origin.logSeq)
  let kept := m.nvm.ops.filter fun o => o.staysInSag || (match o.kind with | .program _ _ => decide (o.origin.logSeq.any fun s => m.nvm.ops.any fun x => x.begun && x.origin = .log s) | _ => false)
  let lost := lost.filter fun s => !kept.any fun o => o.origin = .log s
  ({ m with nvm := { m.nvm with ops := kept.map stop } },
    { unflash (lost ++ d.obs.flashDue.map (·.1)) d with obs := { (unflash (lost ++ d.obs.flashDue.map (·.1)) d).obs with flashDue := [] } })

/-- RESET_N has fallen: a burn or a program already begun is finished, an erase already begun is abandoned, and nothing waits (R485, R516). -/
def Nvm.atReset (n : Nvm) : Nvm :=
  let n' := match n.ops with
    | o :: _ => if !o.begun then n else match o.kind with
      | .erase a => n.cutShort a
      | k => n.apply k
    | [] => n
  { n' with ops := [], writeAsker := none }

/-- The bits of a counter that a committed version asks to burn: the lowest unburnt ones, up to the counter's width (R414, R415). -/
def burnsFor {n : Nat} (c : BitVec n) (version : Nat) : List Nat :=
  ((List.range n).filter fun i => !bitAt c.toNat i).take (min version n - counterValue c)

/-- The counters are raised to the versions of committed firmware and image (R414). -/
def raiseCounters (m : Mgt) : Mgt :=
  let fw := if m.clk.fwCommit then burnsFor m.nvm.fuses.fwCounter m.clk.fwSecver else []
  let im := match m.image with | some i => if i.commit then burnsFor m.nvm.fuses.imageCounter i.secver else [] | none => []
  if m.sag then m else nvQueue .counter (fw.map .burnFw ++ im.map .burnImage) m

/-! ### Answers -/

/-- Answer an operational message: its reason, 0 where it was accepted, and the key's expected alive value (R474). -/
def answerOp (m : Mgt) (a : Asker) (reason alive : Nat) (d : Dp) : Dp :=
  match a with
  | .mctp e => emit (.mctp e 0x7E03 [BitVec.ofNat 8 reason, BitVec.ofNat 8 alive]) d
  | .daras q => reply m q 0x58 0 (reason + 256 * alive) [] d

/-- NONVOLATILE_WRITE_DONE (R415, R430, R455, R477, R516, R517): the write at the front ends and takes effect; whoever awaits its end is answered, and the next begins. -/
def execNonvolatileWriteDone (s : State) : Host.Outcome State Fault Refusal :=
  liftAll (fun m d => match m.nvm.ops with
    | o :: rest =>
      if !o.begun || o.suspended then (m, d)
      else
        let m := { m with nvm := { m.nvm.apply o.kind with ops := rest } }
        let more := rest.any (·.origin = o.origin)
        let m := nvStart m
        match o.origin with
        | .debug => if more then (m, d) else ({ m with sec := { m.sec with dbg := { m.sec.dbg with busy := false, done := true } } }, d)
        | .imageWrite =>
          if more then (m, d)
          else match m.nvm.writeAsker with
            | some (a, key) => ({ m with nvm := { m.nvm with writeAsker := none } }, answerOp m a 0 (m.sec.alive.getD key 0) d)
            | none => (m, d)
        | _ => (m, d)
    | [] => (m, d)) s

end Sys2Proof.Machine
end

