-- ==== Sys2Proof/Machine/Translation.lean ====
section
/-! DEFINITION. The translation agents of the host ports: ATS completions and invalidations, and the completions of outbound reads (R63 to R71, R324). -/

namespace Sys2Proof.Machine

/-- Requests that waited in an agent go out as far as R66 and R70 let them. -/
def sendWaiting (m : Mgt) (d : Dp) : Dp :=
  d.hosts.reqs.foldl (fun d r =>
    let free := (d.hosts.reqs.filter fun x => x.port = r.port && x.sent).length < 64
    if r.sent || !free || invalidating d r.port r.page r.bytes || (d.lease r.port).state = 2 then d
    else
      let _ := m
      emit (.atsRequest r.port r.page r.bytes) { d with hosts := { d.hosts with reqs := modWhere d.hosts.reqs (· = r) fun x => { x with sent := true } } }) d

/-- Tasks that asked for a page end with a cause of Table 2; one that has only its completion to write, and rejections that wait for the page, are logged (R68, R171). -/
def failPage (m : Mgt) (r : XltReq) (cause : Nat) (d : Dp) : Dp :=
  let d := r.tasks.foldl (fun d id => match d.task id with
    | none => d
    | some t =>
      if stageOf d id = 23 then removeTask m id (undeliverable m t.part t.slot (wordAt t.record 1) (taskCpl m d t) d)
      else failTask id 0x24 cause d) d
  let mine := fun (x : Nat × Nat × Nat × Bytes) => match outWindow m x.2.2.1 with
    | some w => decide (w.port = r.port ∧ (x.2.2.1 - w.poolBase + w.hostBase) / w.pageBytes * w.pageBytes = r.page)
    | none => false
  let late := d.tasks.due.filter mine
  late.foldl (fun d x => undeliverable m x.2.1 x.1 x.2.2.1 x.2.2.2 d)
    { d with tasks := { d.tasks with due := d.tasks.due.filter fun x => !mine x } }

/-- Put a translation into a cluster's cache; a full set gives up its least recently used entry (R65). -/
def fillCache (x : Xlt) (d : Dp) : Dp :=
  let set := fun (y : Xlt) => y.cluster = x.cluster && Config.xltSet y.page y.bytes = Config.xltSet x.page x.bytes
  let cs := d.hosts.caches.filter fun y => !(y.cluster = x.cluster && y.port = x.port && y.page = x.page && y.bytes = x.bytes)
  let cs := if (cs.filter set).length < 16 then cs else match minBy (·.used) (cs.filter set) with
    | some v => cs.erase v
    | none => cs
  { d with hosts := { d.hosts with caches := cs ++ [{ x with used := d.hosts.uses }], uses := d.hosts.uses + 1 } }

/-- TRANSLATION_COMPLETION (R66, R68, R70). -/
def execTranslationCompletion (port : Fin 2) (page : BitVec 64) (a : AtsAnswer) (s : State) : Host.Outcome State Fault Refusal :=
  liftDp (fun m d =>
    match d.hosts.reqs.find? fun r => r.port = port.val && r.page = page.toNat && r.sent with
    | none => d
    | some r =>
      if invalidating d r.port r.page r.bytes then
        { d with hosts := { d.hosts with reqs := modWhere d.hosts.reqs (· = r) fun x => { x with sent := false } } }
      else
        let d := { d with hosts := { d.hosts with reqs := d.hosts.reqs.erase r } }
        let d :=
          if a.error then failPage m r 0x03 d
          else if a.bytes < r.bytes then failPage m r 0x04 d
          else if !a.read && !a.write then failPage m r 0x02 d
          else r.clusters.foldl (fun d c => fillCache ⟨c, r.port, r.page, a.base / a.bytes * a.bytes + r.page % a.bytes, r.bytes, a.read, a.write, 0, false⟩ d) d
        settle m (sendWaiting m (retryDue m d))) s

/-- ATS_INVALIDATE_REQUEST (R69, R71): entries in the range are marked; at most 32 invalidations are processed at once. -/
def execAtsInvalidateRequest (port : Fin 2) (itag : Fin 32) (base : BitVec 64) (bytes : Nat) (s : State) : Host.Outcome State Fault Refusal :=
  liftDp (fun _ d =>
    if (d.hosts.invals.filter fun v => v.port = port.val && v.answer).length ≥ 32 then d
    else { d with hosts := { d.hosts with
      caches := modWhere d.hosts.caches (fun x => x.port = port.val && x.page < base.toNat + bytes && base.toNat < x.page + x.bytes) fun x => { x with invalidating := true }
      invals := d.hosts.invals ++ [⟨port.val, itag.val, base.toNat, bytes, true⟩] } }) s

/-- The page of an outbound read is one of its port's windows' pages. -/
def pageSize (m : Mgt) (port page : Nat) : Nat :=
  ((m.windows.find? fun w => w.outbound && w.port = port && w.hostBase ≤ page && page < w.hostBase + w.lengthGib * 2 ^ 30).map Window.pageBytes).getD (2 ^ 25)

/-- Transfers under translations within a range that have not drained (R69, step 2). -/
def underOld (m : Mgt) (d : Dp) (v : Inval) : Bool :=
  d.hosts.reads.any fun r => r.port = v.port && !r.drained && r.page < v.base + v.bytes && v.base < r.page + pageSize m r.port r.page

/-- INVALIDATE_DRAIN_END (R69, R70): the marked entries go, the host is answered, and stalled accesses ask again. -/
def execInvalidateDrainEnd (port : Fin 2) (itag : Fin 32) (s : State) : Host.Outcome State Fault Refusal :=
  liftDp (fun m d =>
    match d.hosts.invals.find? fun v => v.port = port.val && v.itag = itag.val with
    | none => d
    | some v =>
      if underOld m d v then d
      else
        let d := { d with hosts := { d.hosts with
          caches := d.hosts.caches.filter fun x => !(x.port = v.port && x.page < v.base + v.bytes && v.base < x.page + x.bytes)
          invals := d.hosts.invals.erase v } }
        sendWaiting m (if v.answer then emit (.atsInvalidated port.val itag.val) d else d)) s

/-- Set an uncorrectable error in a port's AER status (R324). -/
def aerUncorrectable (port bit : Nat) (d : Dp) : Dp := modPort port (fun p => { p with uncorrStatus := p.uncorrStatus ||| BitVec.ofNat 32 (2 ^ bit) }) d

/-- OUTBOUND_READ_COMPLETION (R63, R69, R113): data for the task that asked, or a flush; one without data leaves the read drained and its task under the end-to-end timer. -/
def execOutboundReadCompletion (port : Fin 2) (tag : Nat) (data : Option Bytes) (s : State) : Host.Outcome State Fault Refusal :=
  liftDp (fun _ d =>
    match d.hosts.reads.find? fun r => r.port = port.val && r.tag = tag with
    | none => aerUncorrectable port.val 16 d
    | some r =>
      let gone := { d with hosts := { d.hosts with reads := d.hosts.reads.erase r } }
      if r.lost then aerUncorrectable port.val 16 gone
      else match data with
        | none =>
          if r.drained then gone
          else { d with hosts := { d.hosts with reads := modWhere d.hosts.reads (· = r) fun x => { x with drained := true, lost := true } } }
        | some b =>
          if r.drained || r.flush then gone
          else modTask r.task (fun t => { t with arrived := ⟨r.line, fit 64 b, none⟩ :: t.arrived.filter (·.line ≠ r.line) }) gone) s

/-- OUTBOUND_COMPLETION_TIMEOUT (R324): reported, and treated as never answered. -/
def execOutboundCompletionTimeout (port : Fin 2) (tag : Nat) (s : State) : Host.Outcome State Fault Refusal :=
  liftDp (fun m d =>
    let due := fun (r : OutRead) => r.port = port.val && r.tag = tag && !r.lost && decide (m.clk.ltb ≥ r.since + 100 * (d.hostPort port.val).timeoutUs)
    if d.hosts.reads.any due then
      aerUncorrectable port.val 14 { d with hosts := { d.hosts with reads := modWhere d.hosts.reads due fun r => { r with lost := true } } }
    else d) s

/-- UNEXPECTED_COMPLETION (R324): reported and discarded. -/
def execUnexpectedCompletion (port : Fin 2) (tag : Nat) (s : State) : Host.Outcome State Fault Refusal :=
  liftDp (fun _ d =>
    aerUncorrectable port.val 16 { d with hosts := { d.hosts with reads := d.hosts.reads.filter fun r => !(r.port = port.val && r.tag = tag && r.lost && r.drained) } }) s

end Sys2Proof.Machine
end

