-- ==== Sys2Proof/Machine/Tier.lean ====
section
/-! DEFINITION. The two tiers at work: scrubbing, recalibration, failed devices, heat, migration and its flip (R28, R34 to R47, R398). -/

namespace Sys2Proof.Machine

/-! ### Failed devices (R34, R47, R398) -/

/-- The region that a physical frame serves: by its own offset, by a version's or draft's frame map, or by a KV page. -/
def ownerRegion (m : Mgt) (d : Dp) (f : Nat) : Option Region :=
  match frameRegion m f with
  | some r => some r
  | none =>
    let maps := fun (s : SnapRegion) => s.versions.map (·.map) ++ s.views.filterMap fun v => match v.shown with | .draft dr => some dr.map | .version _ => none
    match d.snaps.regions.find? fun s => (maps s).any fun mp => mp.any (·.2 = f) with
    | some s => m.region s.region
    | none =>
      match d.snaps.pages.find? fun x => (x.data ≤ f && f < x.data + ((m.region x.region).map (·.kvFrames)).getD 0) || x.summaryAt / 65536 = f with
      | some x => m.region x.region
      | none => none

/-- Positions of the coding group that are lost. -/
def lostPositions (m : Mgt) (d : Dp) : Nat :=
  ((List.range 10).filter fun p => match m.atPosition p with | some k => k ≠ m.self && decide (k ∈ d.fab.whist.degraded) | none => false).length

/-- Has a guarded region lost what would replace a failed frame (R398)? -/
def unguarded (m : Mgt) (d : Dp) (r : Region) : Bool :=
  match r.guard with
  | 1 => match m.partner with | some p => decide (p ∈ d.fab.whist.degraded) | none => true
  | 2 => lostPositions m d ≥ 2
  | _ => false

/-- A guarded region with a failed frame that nothing replaces is lost whole (R398, R402). -/
def loseRegions (m : Mgt) (d : Dp) : Dp :=
  d.store.frames.foldl (fun d f =>
    if frameFailed m d f.frame then
      match ownerRegion m d f.frame with
      | some r => if unguarded m d r then { d with store := { d.store with lostRegions := addNew d.store.lostRegions r.id } } else d
      | none => d
    else d) d

/-- A DIMM or stack is declared failed: its frames are failed, and their moves end (R47). -/
def failDevice (m : Mgt) (far : Bool) (dev : Nat) (d : Dp) : Dp :=
  if (far, dev) ∈ d.store.failed then d
  else
    let d := { d with store := { d.store with failed := d.store.failed ++ [(far, dev)] } }
    let d := { d with store := { d.store with moves := d.store.moves.filter fun v => !frameFailed m d v.frame && !(v.swap.any (frameFailed m d)) && !locFailed m d v.frame v.dest } }
    loseRegions m (logEvent m 4 7 5 none 0 0 0 [dev] d)

/-- An uncorrectable error of a row: eight different rows of one DIMM, or of one pseudo-channel of a stack, within 1 ms fail the device (R47). -/
def badRow (m : Mgt) (f rank bank row : Nat) (d : Dp) : Dp :=
  let l := (frameRec m d f).loc
  let dev := deviceOf m f l
  let key := if l.far then dev else 64 + dev + 8 * rank
  let rows := (key, rank * 2 ^ 48 + bank * 2 ^ 40 + row, m.clk.ltb) :: d.store.badRows.filter fun x => m.clk.ltb < x.2.2 + 100000
  let d := { d with store := { d.store with badRows := rows } }
  if ((rows.filter (·.1 = key)).map (·.2.1)).eraseDups.length ≥ 8 then failDevice m l.far dev d else d

/-- PATROL_SCRUB (R33 to R35): a corrected error is logged and written back; an uncorrectable one poisons its line. -/
def execPatrolScrub (line : Nat) (e : LineError) (s : State) : Host.Outcome State Fault Refusal :=
  liftDp (fun m d =>
    let f := line / 1024
    if m.pkg.scrubHours = 0 || frameFailed m d f then d
    else
      let dev := deviceOf m f (frameRec m d f).loc
      let addr := m.homeId * 2 ^ 50 + line * 64
      match e with
      | .none => d
      | .corrected rank bank row => logEvent m 2 7 3 none 0 0 addr [dev, rank, bank, row] d
      | .uncorrectable rank bank row => badRow m f rank bank row (logEvent m 3 7 4 none 0 0 addr [dev, rank, bank, row] (poisonLine (line * 64) d))) s

/-- CHANNEL_RECALIBRATION (R34, R47): the third failure in a row fails the channel's DIMMs. -/
def execChannelRecalibration (channel : Fin 16) (ok : Bool) (s : State) : Host.Outcome State Fault Refusal :=
  liftDp (fun m d =>
    let slots := (m.far.trained.filter (·.channel = channel.val)).map (·.slot)
    if slots.isEmpty then d
    else if ok then { d with store := { d.store with recalFails := dropKey d.store.recalFails channel.val } }
    else
      let n := (assoc d.store.recalFails channel.val).getD 0 + 1
      let d := { d with store := { d.store with recalFails := setKey d.store.recalFails channel.val n } }
      if n ≥ 3 then slots.foldl (fun d s => failDevice m true (2 * channel.val + s) d) d else d) s

/-! ### Heat and moves (R28, R36 to R39) -/

/-- Total heat of a frame. -/
def FrameRec.heat (r : FrameRec) : Nat := r.heatW + r.heatE

/-- A move is already under way for a frame. -/
def moving (d : Dp) (f : Nat) : Bool := d.store.moves.any (·.covers f)

/-- The first number from a start, of so many, that meets a test. -/
def findUp (p : Nat → Bool) (start : Nat) : Nat → Option Nat
  | 0 => none
  | n + 1 => if p start then some start else findUp p (start + 1) n

/-- An untouched near frame of a TIERED region in a half: its heat is zero. -/
def untouchedNear (m : Mgt) (d : Dp) (half : Nat) (taken : List Nat) : Option Nat :=
  (m.regions.filter fun r => r.tier = 0 && r.kind ≠ 3).findSome? fun r =>
    findUp (fun f => !(d.store.frames.any (·.frame = f)) && f ∉ taken && firstHalf m f = half && !firstFar m f && !frameFailed m d f) (r.base / 65536) (r.length / 65536)

/-- The coldest tiered near frame of a half that no move has taken, with its heat (R37, R39). -/
def coldest (m : Mgt) (d : Dp) (half : Nat) : Option (Nat × Nat) :=
  let taken := d.store.moves.flatMap fun v => v.frame :: v.swap.toList
  match untouchedNear m d half taken with
  | some f => some (f, 0)
  | none =>
    let near := d.store.frames.filter fun r => !r.loc.far && r.loc.half = half && r.frame ∉ taken && ((ownerRegion m d r.frame).map (·.tier)) = some 0 && !frameFailed m d r.frame
    (minBy FrameRec.heat near).map fun r => (r.frame, r.heat)

/-- The next device of a half and tier, in turn (R28). -/
def nextDevice (m : Mgt) (half : Nat) (far : Bool) (d : Dp) : Nat × Dp :=
  let i := 2 * half + (if far then 1 else 0)
  let n := d.store.nextDevice.getD i 0
  let dev := if far then (halfChannels m half).getD (n % max 1 (halfChannels m half).length) (8 * half) else 4 * half + n % 4
  (dev, { d with store := { d.store with nextDevice := modAt d.store.nextDevice i (· + 1) } })

/-- What a migrator would do with a frame. -/
inductive Plan where
  | promote
  | cross
  deriving DecidableEq, Repr

/-- The plan for a frame of a half, where it qualifies for one (R37, R39). -/
def planFor (m : Mgt) (d : Dp) (half : Nat) (r : FrameRec) : Option Plan :=
  match ownerRegion m d r.frame with
  | none => none
  | some g =>
    if r.loc.half ≠ half || frameFailed m d r.frame || moving d r.frame then none
    else
      let cold := coldest m d half
      let own := if half = 0 then r.heatW else r.heatE
      let other := if half = 0 then r.heatE else r.heatW
      let free := Config.tierFree half false m.clk.ltb 0
      if r.loc.far && g.tier = 0 && (match cold with | some c => decide (r.heat ≥ c.2 + m.pkg.heatMargin) | none => free) then some .promote
      else if g.affinity = 0 && other ≥ 2 * own + m.pkg.heatMargin then some .cross
      else none

/-- Begin a move. -/
def beginMove (f : Nat) (dest : Loc) (swap : Option Nat) (d : Dp) : Dp :=
  { d with store := { d.store with moves := d.store.moves ++ [⟨f, dest, swap, 1, [], false⟩] } }

/-- Begin what a migrator has planned: the n-th move of the half's epoch. -/
def carryOut (m : Mgt) (half n : Nat) (r : FrameRec) (p : Plan) (d : Dp) : Dp :=
  match p with
  | .promote =>
    if Config.tierFree half false m.clk.ltb n then
      let x := nextDevice m half false d
      beginMove r.frame ⟨false, half, x.1⟩ none x.2
    else match coldest m d half with
      | some c => if r.heat ≥ c.2 + m.pkg.heatMargin then beginMove r.frame (frameRec m d c.1).loc (some c.1) d else d
      | none => d
  | .cross =>
    let other := 1 - half
    let tier := ((ownerRegion m d r.frame).map (·.tier)).getD 0
    if Config.tierFree other r.loc.far m.clk.ltb n && (!r.loc.far || halfHasFar m other) then
      let x := nextDevice m other r.loc.far d
      beginMove r.frame ⟨r.loc.far, other, x.1⟩ none x.2
    else if tier = 1 || !halfHasFar m other then d
    else
      let x := nextDevice m other true d
      beginMove r.frame ⟨true, other, x.1⟩ none x.2

/-- One half's migrator acts on the counts: the hottest first, within the budget (R37). -/
def migrate (m : Mgt) (half : Nat) (d : Dp) : Dp :=
  let plans := d.store.frames.filterMap fun r => (planFor m d half r).map fun p => (r, p)
  let ordered := sortBy (fun (a b : FrameRec × Plan) => decide (a.1.heat > b.1.heat)) plans
  ((ordered.take m.pkg.migrateBudget).zipIdx).foldl (fun d x => carryOut m half x.2 x.1.1 x.1.2 d) d

/-- Failed frames that a guard replaces are rebuilt into fresh frames of their half (R398). -/
def rebuildFailed (m : Mgt) (d : Dp) : Dp :=
  d.store.frames.foldl (fun d r =>
    if frameFailed m d r.frame && ((ownerRegion m d r.frame).map (·.guard)).getD 0 ≠ 0 && !regionDead m d (((ownerRegion m d r.frame).map (·.id)).getD 0xFFFFFFFF) then
      let x := nextDevice m r.loc.half r.loc.far d
      setFrame { frameRec m x.2 r.frame with loc := ⟨r.loc.far, r.loc.half, x.1⟩ } x.2
    else d) d

/-- HEAT_EPOCH_END (R37): the migrators act, and every heat counter is halved. -/
def execHeatEpochEnd (s : State) : Host.Outcome State Fault Refusal :=
  liftDp (fun m d =>
    if !m.running || m.clk.ltb < d.store.heatTick + m.pkg.heatEpochMs * 100000 then d
    else
      let d := rebuildFailed m (migrate m 1 (migrate m 0 d))
      { d with store := { d.store with
          frames := d.store.frames.map fun r => { r with heatW := r.heatW / 2, heatE := r.heatE / 2 }
          heatTick := m.clk.ltb } }) s

/-! ### Copy passes and the flip (R40 to R45) -/

/-- Apply an entry of the side buffer to the copy that stands: other holders of its line are snooped first. -/
def applySide (m : Mgt) (e : AddEntry) (d : Dp) : Dp :=
  let d := { d with store := { d.store with side := d.store.side.erase e } }
  let via := Via.host (Fin.ofNat 2 (homeSlice (lineOf e.pool)))
  if e.format = 0 then
    (e.sums.map fun x => x.1 / 2).eraseDups.foldl (fun d w =>
      let v := ((assoc e.sums (2 * w)).getD 0).toNat + ((assoc e.sums (2 * w + 1)).getD 0).toNat * 2 ^ 32
      arriveAt m via (m.newMsg 0x12 m.self 0 0 (e.pool + 8 * w) v []) d) d
  else applyEntry m e { d with store := { d.store with combine := d.store.combine ++ [e] } }

/-- Held adds of the frames of a move are replayed, once the move is over (R44, R45). -/
def replayAdds (m : Mgt) (v : Move) (d : Dp) : Dp :=
  (d.store.side.filter fun e => v.covers (e.line / 1024)).foldl (fun d e => applySide m e d) d

/-- MIGRATION_PASS_END (R40, R45): the move flips, starts another pass, or is abandoned after the fourth. -/
def execMigrationPassEnd (frame : Nat) (s : State) : Host.Outcome State Fault Refusal :=
  liftDp (fun m d => match d.store.moves.find? (·.frame = frame) with
    | none => d
    | some v =>
      if v.flipping then d
      else if v.dirty.length ≤ 64 then { d with store := { d.store with moves := modWhere d.store.moves (· = v) fun x => { x with flipping := true } } }
      else if v.pass ≥ 4 then
        settle m (replayAdds m v (countNamed 4 { d with store := { d.store with moves := d.store.moves.erase v } }))
      else { d with store := { d.store with moves := modWhere d.store.moves (· = v) fun x => { x with pass := x.pass + 1, dirty := [] } } }) s

/-- MIGRATION_FLIP_END (R41 to R44): the entry switches, held adds are replayed, and what waited is released. -/
def execMigrationFlipEnd (frame : Nat) (s : State) : Host.Outcome State Fault Refusal :=
  liftDp (fun m d => match d.store.moves.find? fun v => v.frame = frame && v.flipping with
    | none => d
    | some v =>
      let from_ := (frameRec m d v.frame).loc
      let d := { d with store := { d.store with moves := d.store.moves.erase v } }
      let d := setFrame { frameRec m d v.frame with loc := v.dest } d
      let d := match v.swap with
        | some g => setFrame { frameRec m d g with loc := from_ } d
        | none => d
      settle m (replayAdds m v (countNamed 3 d))) s

end Sys2Proof.Machine
end

