-- ==== Sys2Proof/Machine/HostPort.lean ====
section
/-! DEFINITION. The two host ports: training and resets, inbound windows, host reads and writes, HDM decoders, configuration, mailbox and DOE, and the lease of a host (R101, R118, R138, R139, R143, R311 to R331, R391, R504, R533 to R535). -/

namespace Sys2Proof.Machine

/-! ### Training and resets (R311 to R313, R325, R504, R535) -/

/-- The image's mode for a port: 0 disabled, 1 CXL, 2 PCIe. -/
def imagePortMode (m : Mgt) (p : Nat) : Nat := m.pkg.hostModes.getD p 0

/-- The first ITag below 32 that no invalidation of a port uses. -/
def freeItag (d : Dp) (p : Nat) : Nat := ((List.range 32).find? fun i => !d.hosts.invals.any fun v => v.port = p && v.itag = i).getD 0

/-- Translation entries of a port's outbound windows are removed once their transfers have drained, with no Invalidate Completion (R325, step 2). -/
def dropTranslations (m : Mgt) (p : Nat) (sel : Window → Bool) (d : Dp) : Dp :=
  (m.windows.filter fun w => w.outbound && w.port = p && sel w).foldl (fun d w =>
    let bytes := w.lengthGib * 2 ^ 30
    { d with hosts := { d.hosts with
      caches := modWhere d.hosts.caches (fun x => x.port = p && x.page < w.hostBase + bytes && w.hostBase < x.page + x.bytes) fun x => { x with invalidating := true }
      invals := d.hosts.invals ++ [⟨p, freeItag d p, w.hostBase, bytes, false⟩] } }) d

/-- The configuration returns to its reset values, sticky bits apart: AER status, masks and severities are sticky (R325, step 1). -/
def resetFunction (m : Mgt) (p : Nat) (d : Dp) : Dp :=
  let d := modPort p (fun h => { HostPort.reset with
    mode := h.mode, width := h.width, speed := h.speed, perst := h.perst, resetting := h.resetting
    corrMask := h.corrMask, uncorrMask := h.uncorrMask, severity := h.severity, corrStatus := h.corrStatus, uncorrStatus := h.uncorrStatus
    nextTag := h.nextTag, bytesNow := h.bytesNow, bytesLast := h.bytesLast }) d
  let d := { d with hosts := { d.hosts with hostReads := d.hosts.hostReads.filter (·.port ≠ p) } }
  dropTranslations m p (fun _ => true) d

/-- The link of a port is gone. -/
def linkGone (p : Nat) (d : Dp) : Dp := modPort p (fun h => { h with mode := 0, width := 0, speed := 0, resetting := false }) d

/-- HOST_LINK_TRAINED (R311 to R313): only after an image has been accepted, never on a DISABLED port or one whose PERST_N is low; a PCIE port never offers CXL. -/
def execHostLinkTrained (port : Fin 2) (cxl : Bool) (width speed : Nat) (s : State) : Host.Outcome State Fault Refusal :=
  liftDp (fun m d =>
    let h := d.hostPort port.val
    let mode := imagePortMode m port.val
    if m.image.isNone || mode = 0 || h.perst || h.mode ≠ 0 || m.sec.power = .retain || m.hostTesting port.val then d
    else if width ∉ [1, 2, 4, 8] || speed ∉ [0x02, 0x05, 0x08, 0x10, 0x20, 0x40] then d
    else modPort port.val (fun h => { h with mode := if cxl && mode = 1 then 1 else 2, width := width, speed := speed, resetting := false }) d) s

/-- HOST_LINK_DOWN (R325). -/
def execHostLinkDown (port : Fin 2) (s : State) : Host.Outcome State Fault Refusal :=
  liftDp (fun m d => if (d.hostPort port.val).mode = 0 then d else linkGone port.val (resetFunction m port.val d)) s

/-- The function is reset, and answers with retry status and Unsupported Request until the reset completes (R535). -/
def beginReset (m : Mgt) (p : Nat) (d : Dp) : Dp := modPort p (fun h => { h with resetting := true }) (resetFunction m p d)

/-- HOT_RESET (R325, R535). -/
def execHotReset (port : Fin 2) (s : State) : Host.Outcome State Fault Refusal :=
  liftDp (fun m d => if (d.hostPort port.val).mode = 0 then d else beginReset m port.val d) s

/-- FUNCTION_LEVEL_RESET (R325, R535). -/
def execFunctionLevelReset (port : Fin 2) (s : State) : Host.Outcome State Fault Refusal :=
  liftDp (fun m d => if (d.hostPort port.val).mode = 0 then d else beginReset m port.val d) s

/-- FUNCTION_RESET_DONE (R535). -/
def execFunctionResetDone (port : Fin 2) (s : State) : Host.Outcome State Fault Refusal :=
  liftDp (fun _ d => modPort port.val (fun h => { h with resetting := false }) d) s

/-- PERST_N_FALL (R504): electrical idle, and the port acts as for a Hot Reset. -/
def execPerstNFall (port : Fin 2) (s : State) : Host.Outcome State Fault Refusal :=
  liftDp (fun m d => modPort port.val (fun h => { h with perst := true }) (linkGone port.val (resetFunction m port.val d))) s

/-- PERST_N_RISE (R504): the port may train, which HOST_LINK_TRAINED ends. -/
def execPerstNRise (port : Fin 2) (s : State) : Host.Outcome State Fault Refusal :=
  liftDp (fun _ d => modPort port.val (fun h => { h with perst := false }) d) s

/-! ### Inbound windows (R57 to R60, R317 to R319) -/

/-- The inbound windows of a port. -/
def inWindows (m : Mgt) (p : Nat) : List Window := m.windows.filter fun w => !w.outbound && w.port = p

/-- B and E of R317: the lowest host base, and the highest end. -/
def barSpan (m : Mgt) (p : Nat) : Nat × Nat :=
  let ws := inWindows m p
  ((minBy (·.hostBase) ws).map (·.hostBase) |>.getD 0, (ws.map fun w => w.hostBase + w.lengthGib * 2 ^ 30).foldl max 0)

/-- The size that BAR4 requests: the smallest power of two that is at least E − B and at least 1 GiB; 0 for a port with no inbound window (R314, R317). -/
def barSize (m : Mgt) (p : Nat) : Nat :=
  if (inWindows m p).isEmpty then 0
  else
    let n := (barSpan m p).2 - (barSpan m p).1
    max (2 ^ 30) (if n ≤ 1 then 1 else 2 ^ (log2 (n - 1) + 1))

/-- The inbound window of a host address, with its place among the image's windows. -/
def windowAt (m : Mgt) (p host : Nat) : Option (Nat × Window) :=
  (m.windows.zipIdx.find? fun x => !x.1.outbound && x.1.port = p && x.1.hostBase ≤ host && host < x.1.hostBase + x.1.lengthGib * 2 ^ 30).map fun x => (x.2, x.1)

/-- What an inbound access meets (R76, R77, R319, R350, R392, R537). -/
inductive Inbound where
  | served (region : Nat)
  | refused
  | badView (region : Nat)
  | away
  deriving DecidableEq, Repr

/-- The judgement of an inbound access through a window at a pool address. -/
def inbound (m : Mgt) (d : Dp) (w : Window) (addr : Nat) (write : Bool) : Inbound :=
  if d.fab.whist.fenced || !m.running || m.attach w.partition ≠ 1 then .refused
  else match place m d addr with
    | .remote _ => .away
    | .store r reach a =>
      if m.pkg.loopEnable && addr / 2 ^ 50 = m.pkg.loopId then .away
      else if (m.region r).map (·.partition) ≠ some w.partition || regionDead m d r || deadFrame m d r a then .refused
      else match reach with
        | .plain => .served r
        | .head => if write then .badView r else .served r
        | .view s => if viewClosing d r s || (write && !viewWritable d r s) then .badView r else .served r
    | .freeView r => if (m.region r).map (·.partition) ≠ some w.partition then .refused else .badView r
    | .beyondView r => if (m.region r).map (·.partition) ≠ some w.partition then .refused else .badView r
    | _ => .refused

/-- A host access to a view that is not open to it is logged (R76, R77, R537). -/
def logView (m : Mgt) (part addr region port : Nat) (d : Dp) : Dp := logEvent m 1 7 6 (some part) 0 0 addr [region, port] d

/-- The bandwidth class of a host access (R100). -/
def hostClass (m : Mgt) (w : Window) : Inbound → Nat
  | .served r => ((m.region r).map (·.cls)).getD 0
  | .away => w.cls
  | _ => 0

/-! ### Host reads -/

/-- A refused read: Unsupported Request over PCIe and CXL.io, poisoned data over CXL.mem (R319, Table 2). -/
def refuseRead (m : Mgt) (p tag bytes : Nat) (cxl : Bool) (part : Option Nat) (addr window : Nat) (d : Dp) : Dp :=
  let d := logRefused m part addr window 0 d
  if cxl then hostAnswer m p tag 2 (zeros bytes) (part.getD 0) 0 d
  else hostAnswer m p tag 1 [] (part.getD 0) 0 (aerUncorrectable p 20 d)

/-- A host read at a host address that a window or decoder may hold. `code` is the request it enters as (R123). -/
def hostRead (m : Mgt) (p : Fin 2) (host bytes tag : Nat) (cxl : Bool) (code : Nat) (d : Dp) : Dp :=
  match windowAt m p.val host with
  | none => refuseRead m p.val tag bytes cxl none 0 255 d
  | some (i, w) =>
    let addr := host - w.hostBase + w.poolBase
    let v := inbound m d w addr false
    let cls := hostClass m w v
    let note := fun (d : Dp) => { d with hosts := { d.hosts with hostReads := d.hosts.hostReads ++ [⟨p.val, tag, addr, bytes, cxl, cls, m.clk.ltb, w.partition, [], false⟩] } }
    match v with
    | .refused => refuseRead m p.val tag bytes cxl (some w.partition) addr i d
    | .badView r => hostAnswer m p.val tag 2 (zeros bytes) w.partition 0 (logView m w.partition addr r p.val d)
    | .served _ =>
      closeHostReads m ((linesOf addr bytes).foldl (fun d l =>
        arriveAt m (.host p) { m.newMsg code m.self w.partition cls l 0 [] with origin := if cxl then 1 else 0, txn := tag } d) (note d))
    | .away =>
      closeHostReads m ((linesOf addr bytes).foldl (fun d l =>
        issue m (.host p) (m.newMsg 0x05 (addr / 2 ^ 50) w.partition cls l 0 []) d) (note d))

/-! ### Host writes -/

/-- A host write at a host address: every line it touches is written, poisoned where the write was (R324). -/
def hostWrite (m : Mgt) (p : Fin 2) (host : Nat) (ps : Nat → List (Nat × Bytes × Nat)) (poison cxl : Bool) (d : Dp) : Dp :=
  let done := fun (part cls : Nat) (d : Dp) => if cxl then hostAnswer m p.val 0 0 [] part cls d else d
  match windowAt m p.val host with
  | none => done 0 0 (logRefused m none 0 255 1 d)
  | some (i, w) =>
    let addr := host - w.hostBase + w.poolBase
    let v := inbound m d w addr true
    let cls := hostClass m w v
    let msg := fun (x : Nat × Bytes × Nat) (tgt : Nat) =>
      { m.newMsg (if x.2.2 = fullMask then 0x06 else 0x07) tgt w.partition cls x.1 x.2.2 x.2.1 with poison := poison, origin := if cxl then 1 else 0 }
    match v with
    | .refused => done w.partition 0 (logRefused m (some w.partition) addr i 1 d)
    | .badView r => done w.partition 0 (logView m w.partition addr r p.val d)
    | .served _ => (ps addr).foldl (fun d x => arriveAt m (.host p) (msg x m.self) (hostMoved p.val w.partition cls (popBits 64 x.2.2) d)) d
    | .away => (ps addr).foldl (fun d x => issue m (.host p) (msg x (addr / 2 ^ 50)) (hostMoved p.val w.partition cls (popBits 64 x.2.2) d)) d

/-! ### Host requests in the order of their port (R101, R118, R327) -/

/-- The host address that a committed decoder passes on (R318). -/
def decoded (h : HostPort) (addr : Nat) : Bool := h.decoders.any fun x => x.committed && x.base ≤ addr && addr < x.base + x.size

/-- A host reaches CXL.mem of a port. -/
def HostPort.memOpen (h : HostPort) (addr : Nat) : Bool := h.mode = 1 && !h.d3 && !h.perst && decoded h addr

/-- A CXL.mem read enters as the request that its cache state asks for (R123). -/
def cxlCode (m : Mgt) (a : CacheAsk) : Nat :=
  match a with
  | .shared => if m.pkg.ownerOrdered then 0x03 else 0x01
  | .any => if m.pkg.ownerOrdered then 0x04 else 0x02
  | .invalid => 0x05

/-- A snoop of a line to a host port has not been answered: data that comes for it is the snoop's (R139). -/
def snooping (d : Dp) (line : Nat) (p : Fin 2) : Bool := d.coh.trackers.any fun t => t.line = line && t.snoops.any fun x => x.holder = .host p && x.sent

/-- The pool address of a host address of CXL.mem. -/
def cxlPool (m : Mgt) (p host : Nat) : Nat := ((windowAt m p host).map fun x => host - x.2.hostBase + x.2.poolBase).getD 0

/-- Carry out a host request whose turn has come. -/
def hostServe (m : Mgt) (c : Instr) (d : Dp) : Dp :=
  match c with
  | .taskRecordWrite p off b => hostRecord m p.val off b (hostBytes p.val b.length d)
  | .hostMemoryRead p off n tag => hostRead m p ((barSpan m p.val).1 + off.toNat) n tag false 0x05 d
  | .hostMemoryWrite p off b ep =>
    let d := if ep then aerUncorrectable p.val 12 d else d
    hostWrite m p ((barSpan m p.val).1 + off.toNat) (fun a => pieces a b) ep false d
  | .cxlMemRead p addr ask tag =>
    let a := addr.toNat / 64 * 64
    if (d.hostPort p.val).memOpen a then hostRead m p a 64 tag true (cxlCode m ask) d
    else refuseRead m p.val tag 64 true none 0 255 d
  | .cxlMemWrite p addr b mask poison =>
    let a := addr.toNat / 64 * 64
    if !(d.hostPort p.val).memOpen a then hostAnswer m p.val 0 0 [] 0 0 (logRefused m none 0 255 1 d)
    else hostWrite m p a (fun x => [(x, fit 64 b, mask.toNat)]) poison true d
  | .slotTableRead p off => hostAnswer m p.val 0 0 (natBytes 8 (statusWord m d (some p.val) off)) 0 0 d
  | _ => d

/-- Must a request wait for what came earlier on its port? Records wait for every earlier write, and writes for one another (R118); every request waits out a window that has carried its limit (R101). -/
def mustWait (m : Mgt) (d : Dp) (p : Nat) (c : Instr) : Bool :=
  let ordered : Bool := match c with
    | .taskRecordWrite _ _ _ => true
    | .hostMemoryWrite _ _ _ _ => true
    | .cxlMemWrite _ _ _ _ _ => true
    | _ => false
  overLimit m d p || !(d.lease p).held.isEmpty || (ordered && portWrites d p)

/-- A host request arrives at its port: it is served, or waits its turn. -/
def hostSubmit (m : Mgt) (p : Nat) (c : Instr) (d : Dp) : Dp :=
  if mustWait m d p c then modLease p (fun l => { l with held := l.held ++ [c] }) d else hostServe m c d

/-- Requests that waited at a port try again, in order of arrival. -/
def releasePort (m : Mgt) (p : Nat) (d : Dp) : Dp :=
  (d.lease p).held.foldl (fun d c => hostSubmit m p c d) (modLease p (fun l => { l with held := [] }) d)

/-- A memory request to a port whose BARs are not decoded: Unsupported Request (R316, R535); nothing where there is no link. -/
def undecoded (m : Mgt) (p tag : Nat) (d : Dp) : Dp :=
  if (d.hostPort p).mode = 0 || (d.hostPort p).perst then d else hostAnswer m p tag 1 [] 0 0 (aerUncorrectable p 20 d)

/-- HOST_MEMORY_READ (R317, R319). -/
def execHostMemoryRead (port : Fin 2) (offset : BitVec 64) (bytes tag : Nat) (s : State) : Host.Outcome State Fault Refusal :=
  liftDp (fun m d =>
    if !(d.hostPort port.val).decodes || offset.toNat ≥ barSize m port.val then undecoded m port.val tag d
    else settle m (hostSubmit m port.val (.hostMemoryRead port offset bytes tag) d)) s

/-- HOST_MEMORY_WRITE (R317, R319, R324). -/
def execHostMemoryWrite (port : Fin 2) (offset : BitVec 64) (b : Bytes) (ep : Bool) (s : State) : Host.Outcome State Fault Refusal :=
  liftDp (fun m d =>
    if !(d.hostPort port.val).decodes || offset.toNat ≥ barSize m port.val then d
    else settle m (hostSubmit m port.val (.hostMemoryWrite port offset b ep) d)) s

/-- CXL_MEM_READ (R123, R138, R318). -/
def execCxlMemRead (port : Fin 2) (addr : BitVec 64) (ask : CacheAsk) (tag : Nat) (s : State) : Host.Outcome State Fault Refusal :=
  liftDp (fun m d =>
    if (d.hostPort port.val).mode ≠ 1 then d
    else settle m (hostSubmit m port.val (.cxlMemRead port addr ask tag) d)) s

/-- CXL_MEM_WRITE (R139, R533): data for a snooped line is the snoop's answer, and never waits. -/
def execCxlMemWrite (port : Fin 2) (addr : BitVec 64) (b : Bytes) (mask : BitVec 64) (poison : Bool) (s : State) : Host.Outcome State Fault Refusal :=
  liftDp (fun m d =>
    let h := d.hostPort port.val
    let pool := cxlPool m port.val (addr.toNat / 64 * 64)
    if h.mode ≠ 1 then d
    else if h.memOpen (addr.toNat / 64 * 64) && pool / 2 ^ 50 = m.self && snooping d (lineOf pool) port then
      match storePlace m d pool with
      | some (r, _, a) =>
        settle m (hostAnswer m port.val 0 0 [] 0 0 (takeData m (lineOf pool) (mergeMask (readLine m d r a).1 (fit 64 b) mask.toNat) poison d))
      | none => hostAnswer m port.val 0 0 [] 0 0 d
    else settle m (hostSubmit m port.val (.cxlMemWrite port addr b mask poison) d)) s

/-- SLOT_TABLE_READ (R327, R535): held until every record that arrived earlier on the port has been decided; Unsupported Request where the BARs are not decoded. -/
def execSlotTableRead (port : Fin 2) (offset : Nat) (s : State) : Host.Outcome State Fault Refusal :=
  liftDp (fun m d =>
    if !(d.hostPort port.val).decodes then undecoded m port.val 0 d
    else if offset < 0x800 || 0x1000 ≤ offset then d
    else hostSubmit m port.val (.slotTableRead port offset) d) s

/-- FORERUNNER_WINDOW_END (R101): each port's count restarts, and held requests go on. -/
def execForerunnerWindowEnd (s : State) : Host.Outcome State Fault Refusal :=
  liftDp (fun m d =>
    if !m.forerunner || m.clk.ltb < d.hosts.windowAt + 1000 then d
    else
      let d := { d with hosts := { d.hosts with windowAt := m.clk.ltb, ports := d.hosts.ports.map fun h => { h with bytesLast := h.bytesNow, bytesNow := 0 } } }
      settle m (releasePort m 1 (releasePort m 0 d))) s

/-! ### Decoders and configuration (R318, R323) -/

/-- The decoder of an index as it stands. -/
def HostPort.hdm (h : HostPort) (i : Nat) : Hdm := (h.decoders.find? (·.index = i)).getD ⟨i, 0, 0, false, false, false⟩

/-- Replace a decoder. -/
def setHdm (p : Nat) (x : Hdm) (d : Dp) : Dp := modPort p (fun h => { h with decoders := x :: h.decoders.filter (·.index ≠ x.index) }) d

/-- HDM_DECODER_COMMIT (R318): a locked decoder stays as it is. -/
def execHdmDecoderCommit (port : Fin 2) (index : Fin 16) (c : HdmCommit) (s : State) : Host.Outcome State Fault Refusal :=
  liftDp (fun m d =>
    let h := d.hostPort port.val
    let old := h.hdm index.val
    if h.mode ≠ 1 || h.resetting || h.d3 || (old.committed && old.locked) then d
    else
      let fits : Bool := (inWindows m port.val).any fun w => w.hostBase = c.base && w.lengthGib * 2 ^ 30 = c.size
      let taken : Bool := h.decoders.any fun x => x.index ≠ index.val && x.committed && x.base = c.base
      if fits && !taken && c.ways = 1 && c.dpaSkip = 0 && h.bi then
        setHdm port.val ⟨index.val, c.base, c.size, true, c.lockOnCommit, false⟩ d
      else
        logEvent m 1 0xA 2 none 0 0 0 [index.val] (setHdm port.val ⟨index.val, c.base, c.size, false, false, true⟩ d)) s

/-- A payload or request size that the port takes. -/
def sizeOr (old v top : Nat) : Nat := if v ∈ [128, 256, 512, 1024, 2048, 4096] && v ≤ top then v else old

/-- Write one configuration field (R323). AER status bits are cleared by writing ones: 31:0 uncorrectable, 63:32 correctable. -/
def setField (m : Mgt) (p : Nat) (f : CfgField) (v : BitVec 64) (h : HostPort) : HostPort :=
  let n := v.toNat
  match f with
  | .memorySpace => { h with memEnable := bitAt n 0 }
  | .busMaster => { h with busMaster := bitAt n 0 }
  | .bar0 => { h with bar0 := n / 2 ^ 18 * 2 ^ 18 }
  | .bar2 => { h with bar2 := n / 2 ^ 22 * 2 ^ 22 }
  | .bar4 => { h with bar4 := if barSize m p = 0 then 0 else n / barSize m p * barSize m p }
  | .atsEnable => { h with ats := bitAt n 0 }
  | .biEnable => { h with bi := h.mode = 1 && bitAt n 0 }
  | .d3hot => { h with d3 := bitAt n 0 }
  | .completionTimeoutUs => { h with timeoutUs := n }
  | .aerCorrectableMask => { h with corrMask := BitVec.ofNat 32 n }
  | .aerUncorrectableMask => { h with uncorrMask := BitVec.ofNat 32 n }
  | .aerSeverity => { h with severity := BitVec.ofNat 32 n }
  | .aerStatusClear => { h with uncorrStatus := h.uncorrStatus &&& ~~~ (BitVec.ofNat 32 n), corrStatus := h.corrStatus &&& ~~~ (BitVec.ofNat 32 (n / 2 ^ 32)) }
  | .maxPayload => { h with maxPayload := sizeOr h.maxPayload n 512 }
  | .maxReadRequest => { h with maxRead := sizeOr h.maxRead n 4096 }

/-- CONFIG_WRITE (R323, R535): while a reset runs, every configuration request is answered with Configuration Request Retry Status, 3. -/
def execConfigWrite (port : Fin 2) (field : CfgField) (value : BitVec 64) (s : State) : Host.Outcome State Fault Refusal :=
  liftDp (fun m d =>
    let h := d.hostPort port.val
    if h.mode = 0 || h.perst then d
    else if h.resetting then emit (.host port.val 0 3 []) d
    else emit (.host port.val 0 0 []) (modPort port.val (setField m port.val field value) d)) s

/-! ### Mailbox and DOE (R322, R323) -/

/-- Is the Primary Mailbox within reach? It stands among the CXL device registers. -/
def mailboxOpen (d : Dp) (p : Nat) : Bool := (d.hostPort p).mode = 1 && (d.hostPort p).decodes

/-- Answer a mailbox command. -/
def mailbox (port : Fin 2) (code : Nat) (data : Mgt → Bytes) (s : State) : Host.Outcome State Fault Refusal :=
  liftDp (fun m d => if mailboxOpen d port.val then emit (.mailbox port.val code (data m)) d else d) s

/-- IDENTIFY (R314, R323): the identifiers of Table 1, then what the CXL specification adds. -/
def execIdentify (port : Fin 2) (s : State) : Host.Outcome State Fault Refusal :=
  mailbox port 0 (fun m => natBytes 2 0x1F3D ++ natBytes 2 0x0960 ++ natBytes 2 m.pkg.subsysVendor ++ natBytes 2 m.pkg.subsysId
    ++ natBytes 8 m.nvm.fuses.serial ++ Config.standardBody 0 0) s

/-- GET_EVENT_RECORDS (R323): no records. -/
def execGetEventRecords (port : Fin 2) (s : State) : Host.Outcome State Fault Refusal := mailbox port 0 (fun _ => zeros 32) s

/-- GET_TIMESTAMP (R323): local time in nanoseconds since RESET_N. -/
def execGetTimestamp (port : Fin 2) (s : State) : Host.Outcome State Fault Refusal := mailbox port 0 (fun m => natBytes 8 (10 * m.clk.ltb)) s

/-- GET_SUPPORTED_LOGS (R323). -/
def execGetSupportedLogs (port : Fin 2) (s : State) : Host.Outcome State Fault Refusal := mailbox port 0 (fun _ => Config.standardBody 1 0) s

/-- GET_LOG (R323): the Command Effects Log only. -/
def execGetLog (port : Fin 2) (effectsLog : Bool) (s : State) : Host.Outcome State Fault Refusal :=
  mailbox port (if effectsLog then 0 else 3) (fun _ => if effectsLog then Config.standardBody 2 0 else []) s

/-- The sum of a port's inbound window lengths, Range 1, in bytes (R322). -/
def range1 (m : Mgt) (p : Nat) : Nat := ((inWindows m p).map fun w => w.lengthGib * 2 ^ 30).sum

/-- IDENTIFY_MEMORY_DEVICE (R323): volatile capacity equal to Range 1 in units of 256 MiB, persistent capacity 0. -/
def execIdentifyMemoryDevice (port : Fin 2) (s : State) : Host.Outcome State Fault Refusal :=
  mailbox port 0 (fun m => fit 16 (Config.standardBody 3 0) ++ natBytes 8 (range1 m port.val / 2 ^ 28) ++ natBytes 8 (range1 m port.val / 2 ^ 28)
    ++ natBytes 8 0 ++ Config.standardBody 3 1) s

/-- GET_HEALTH_INFO (R323). -/
def execGetHealthInfo (port : Fin 2) (s : State) : Host.Outcome State Fault Refusal := mailbox port 0 (fun _ => Config.standardBody 4 0) s

/-- The opcodes that the mailbox serves (R323). -/
def mailboxCodes : List Nat := [0x0001, 0x0100, 0x0300, 0x0400, 0x0401, 0x4000, 0x4200]

/-- MAILBOX_UNSUPPORTED (R323): return code 3 is the CXL specification's Unsupported. -/
def execMailboxUnsupported (port : Fin 2) (opcode : Nat) (s : State) : Host.Outcome State Fault Refusal :=
  if opcode ∈ mailboxCodes then .next s else mailbox port 3 (fun _ => []) s

/-- DOE_DISCOVERY (R322): the Discovery and CXL Table Access protocols only. -/
def execDoeDiscovery (port : Fin 2) (index : Nat) (s : State) : Host.Outcome State Fault Refusal :=
  liftDp (fun _ d =>
    let h := d.hostPort port.val
    if h.mode = 0 || h.resetting || h.perst then d
    else emit (.doe port.val (match index with
      | 0 => natBytes 2 0x0001 ++ [0x00, 0x01]
      | 1 => natBytes 2 0x1E98 ++ [0x02, 0x00]
      | _ => natBytes 2 0xFFFF ++ [0x00, 0x00])) d) s

/-- CDAT_TABLE_ACCESS (R322): the bytes of the CDAT, whose layout its own specification gives. -/
def execCdatTableAccess (port : Fin 2) (handle : Nat) (s : State) : Host.Outcome State Fault Refusal :=
  liftDp (fun _ d =>
    let h := d.hostPort port.val
    if h.mode = 0 || h.resetting || h.perst then d else emit (.doe port.val (Config.standardBody 5 handle)) d) s

/-! ### The host's lease (R143, R391) -/

/-- Translation requests of a port are abandoned: tasks of other slots that wait on them end as if their timer had expired (R391). -/
def abandonRequests (m : Mgt) (p : Nat) (d : Dp) : Dp :=
  let rs := d.hosts.reqs.filter (·.port = p)
  let d := { d with hosts := { d.hosts with reqs := d.hosts.reqs.filter (·.port ≠ p) } }
  rs.foldl (fun d r =>
    let d := r.tasks.foldl (fun d id => match d.task id with
      | none => d
      | some t =>
        if stageOf d id = 23 then removeTask m id (undeliverable m t.part t.slot (wordAt t.record 1) (taskCpl m d t) d)
        else failTask id 0x25 m.self d) d
    failPage m { r with tasks := [] } 0 d) d

/-- Snoops to a host port end at once (R143). -/
def endHostSnoops (m : Mgt) (p : Fin 2) (d : Dp) : Dp :=
  (d.coh.trackers.filter fun t => t.snoops.any (·.holder = .host p)).foldl (fun d t => snoopEnds m t.line (.host p) d) d

/-- HOST_LEASE_EXPIRY (R143, R391): the walk's outcome is reached at once for every line; DIRECTORY_WALK_END tells when it has ended. -/
def execHostLeaseExpiry (port : Fin 2) (s : State) : Host.Outcome State Fault Refusal :=
  liftDp (fun m d =>
    let l := d.lease port.val
    if l.state ≠ 1 || m.clk.ltb < l.renewed + m.timers.leaseLossMs * 100000 then d
    else
      let d := modLease port.val (fun l => { l with state := 2 }) d
      let d := { d with coh := { d.coh with walk := modAt d.coh.walk port.val fun _ => true } }
      let d := endHostSnoops m port d
      let d := (d.coh.dir.filter fun e => e.hosts.getLsb port).foldl (fun d e => walkLine m e.line port d) d
      let slots := ((m.image.map (·.slots)).getD []).filter (·.owner = 0x4000 + port.val)
      let d := slots.foldl (fun d e => shutSlot m e.number 0x04 d) d
      settle m (abandonRequests m port.val d)) s

/-- DIRECTORY_WALK_END (R143, R390). -/
def execDirectoryWalkEnd (port : Fin 2) (s : State) : Host.Outcome State Fault Refusal :=
  liftDp (fun _ d => { d with coh := { d.coh with walk := modAt d.coh.walk port.val fun _ => false } }) s

end Sys2Proof.Machine
end

