-- ==== Sys2Proof/Machine/Link.lean ====
section
/-! DEFINITION. The Daras link: flits, link retry, lane sparing, port states and what they carry (R332 to R348). -/

namespace Sys2Proof.Machine

/-! ### Messages and flits (R338, R339, R346) -/

/-- The four words of a transaction header (R346, Table 4). -/
def msgWords (q : Msg) : List Nat :=
  [q.opcode * 2 ^ 56 + q.cls * 2 ^ 53 + q.bwClass * 2 ^ 50 + q.hops * 2 ^ 48 + q.partition * 2 ^ 42 + q.epoch * 2 ^ 34
     + q.source * 2 ^ 20 + q.target * 2 ^ 6 + q.poison.toNat * 2 ^ 5 + q.redirected.toNat * 2 ^ 4 + ceilDiv q.payload.length 16,
   q.txn * 2 ^ 48 + q.combine * 2 ^ 32 + q.status * 2 ^ 24 + q.slot * 2 ^ 14 + q.origin, q.addr, q.arg]

/-- The bytes of a message: its header, then its payload in 16-byte units (R339). -/
def msgBytes (q : Msg) : Bytes := wordsBytes (msgWords q) ++ fit (16 * ceilDiv q.payload.length 16) q.payload

/-- The message that bytes spell. -/
def msgOfBytes (b : Bytes) : Msg where
  opcode := fieldAt b 0 63 56
  cls := fieldAt b 0 55 53
  bwClass := fieldAt b 0 52 50
  hops := fieldAt b 0 49 48
  partition := fieldAt b 0 47 42
  epoch := fieldAt b 0 41 34
  source := fieldAt b 0 33 20
  target := fieldAt b 0 19 6
  poison := bitAt (wordAt b 0) 5
  redirected := bitAt (wordAt b 0) 4
  txn := fieldAt b 1 63 48
  combine := fieldAt b 1 47 32
  status := fieldAt b 1 31 24
  slot := fieldAt b 1 23 14
  origin := fieldAt b 1 13 0
  addr := wordAt b 2
  arg := wordAt b 3
  payload := b.drop 32

/-- A flit: its header word, 240 bytes of payload units, and the CRC-64 over both (R338). -/
def flitOf (header : Nat) (payload : Bytes) : Bytes :=
  let b := natBytes 8 header ++ fit 240 payload
  b ++ natBytes 8 (crc 0x03 b)

/-- A flit passes its CRC (R338). -/
def flitSound (f : Bytes) : Bool := f.length = 256 && wordAt f 31 = crc 0x03 (f.take 248)

/-- The header word of a flit (R338, Table 2). -/
def flitHeader (type seq ack cls credits first : Nat) : Nat :=
  type * 2 ^ 60 + seq * 2 ^ 48 + ack * 2 ^ 36 + cls * 2 ^ 32 + credits * 2 ^ 16 + first * 2 ^ 12

/-- A port sends a flit: it acknowledges what came in order and returns the credits of one class. A PAYLOAD flit is kept for replay (R338, R340). -/
def sendFlit (m : Mgt) (p type seq first : Nat) (payload : Bytes) (d : Dp) : Dp :=
  let x := d.darPort p
  let c := ((List.range 5).find? fun c => x.returned.getD c 0 > 0).getD 0xF
  let f := flitOf (flitHeader type seq ((x.rxSeq + 4095) % 4096) c (if c = 0xF then 0 else x.returned.getD c 0) first) payload
  emit (.flit p f) (modDar p (fun x => { x with
    ackDue := false
    returned := if c = 0xF then x.returned else x.returned.set c 0
    replayBuf := if type = 1 then x.replayBuf ++ [(seq, m.clk.ltb, f)] else x.replayBuf }) d)

/-- The payload of a link flit whose layout the spec leaves open. -/
def linkPayload (type : Nat) (vals : List Nat) : Bytes := (List.range 240).map (Config.linkByte type vals)

/-- The state a port serves in once nothing disturbs it: SELF on a loop, UP elsewhere (R343, R344). -/
def DarPort.service (x : DarPort) : PortState := if x.loop then .self else .up

/-- No episode is left: a port in REPLAY goes back to service (R341, R343). -/
def calm (p : Nat) (d : Dp) : Dp :=
  modDar p (fun x => if x.state = .replay && x.rxEpisode.isNone && x.txEpisode.isNone then { x with state := x.service } else x) d

/-- A replay episode begins: the port counts it, and enters REPLAY from service (R341, R343). -/
def beginEpisode (p : Nat) (d : Dp) : Dp :=
  countNamed 13 (modDar p (fun x => { x with
    episodes := x.episodes + 1
    state := if x.state = .up || x.state = .self then .replay else x.state }) d)

/-! ### Taking flits (R339, R340, R348) -/

/-- The least and the most payload units of an opcode, where it is listed (R347, Table 5); a TASK_POST of any length goes to acceptance (R348). -/
def unitsOf (op : Nat) : Option (Nat × Nat) :=
  if op = 0x06 || op = 0x07 || op = 0x60 then some (4, 4)
  else if op = 0x10 then some (4, 8)
  else if op = 0x11 then some (1, 1)
  else if op = 0x20 then some (0, 15)
  else if op = 0x21 || op = 0x61 then some (1, 8)
  else if op = 0x29 then some (0, 8)
  else if op ∈ [0x01, 0x02, 0x03, 0x04, 0x05, 0x08, 0x12, 0x18, 0x19, 0x1A, 0x1B, 0x1C, 0x28, 0x40, 0x41, 0x42, 0x48, 0x49, 0x4A]
    || (0x50 ≤ op && op ≤ 0x59) then some (0, 0)
  else none

/-- Does an opcode's message carry an answer's status (R346)? -/
def isAnswer (op : Nat) : Bool := 0x50 ≤ op

/-- A message that a receiver discards (R348): unlisted, of another class, of a wrong length, or with a field set that is otherwise zero. -/
def malformed (q : Msg) : Bool :=
  let n := q.payload.length / 16
  match unitsOf q.opcode with
  | none => true
  | some (lo, hi) =>
    q.cls ≠ classOf q.opcode || n < lo || hi < n || (q.opcode = 0x10 && n ≠ 4 && n ≠ 8)
    || (!isAnswer q.opcode && q.status ≠ 0) || (q.opcode ≠ 0x20 && q.slot ≠ 0)
    || (!(0x40 ≤ q.opcode && q.opcode ≤ 0x42) && q.origin ≠ 0)

/-- Split payload units into whole messages and what is left of one that goes on in the next flit; a zero unit between messages is padding. -/
def splitUnits : Nat → List Bytes → List Bytes × List Bytes
  | 0, us => ([], us)
  | n + 1, us => match us with
    | [] => ([], [])
    | a :: rest =>
      if a.all (· = 0) then splitUnits n rest
      else
        let len := 1 + leNat a % 16
        if rest.length < len then ([], us)
        else
          let r := splitUnits n (rest.drop len)
          ((a ++ (rest.take len).flatten) :: r.1, r.2)

/-- One message has come whole: discarded and logged where it is malformed, otherwise delivered. What comes by a loop for the loop's identifier comes from that identifier (R345, R348). -/
def deliverMsg (m : Mgt) (p : Nat) (b : Bytes) (d : Dp) : Dp :=
  let q := msgOfBytes b
  if malformed q then
    let d := countNamed 12 (logEvent m 3 9 1 none q.source 0 q.addr ((List.range 4).map (wordAt b)) d)
    modDar p (fun x => { x with returned := modAt x.returned q.cls (· + 1) }) d
  else
    let q := if m.pkg.loopEnable && (d.darPort p).loop && q.target = m.pkg.loopId then { q with source := m.pkg.loopId } else q
    { d with fab := { d.fab with inbox := d.fab.inbox ++ [(p, q)] } }

/-- What a flit's header acknowledges and returns (R338, R340, R341). -/
def takeHeader (p h : Nat) (d : Dp) : Dp :=
  let ack := bits h 47 36
  let c := bits h 35 32
  let drop := fun (l : List (Nat × Nat × Bytes)) => if l.any (·.1 = ack) then (l.dropWhile (·.1 ≠ ack)).drop 1 else l
  calm p (modDar p (fun x =>
    let left := drop x.replayBuf
    { x with
      replayBuf := left
      txEpisode := x.txEpisode.filter fun e => left.any (·.1 = e.1)
      credits := if c < 5 then modAt x.credits c fun n => min (n + bits h 31 16) ([512, 256, 256, 1024, 1024].getD c 0) else x.credits }) d)

/-- PAYLOAD_FLIT (R340): taken when its CRC passes and its number is the one expected; otherwise discarded, with one NAK. -/
def execPayloadFlit (port : Fin 8) (flit : Bytes) (s : State) : Host.Outcome State Fault Refusal :=
  liftDp (fun m d =>
    let p := port.val
    let x := d.darPort p
    let h := wordAt flit 0
    if !x.state.carries then d
    else if flitSound flit && bits h 63 60 ≠ 1 then d
    else if !flitSound flit || bits h 59 48 ≠ x.rxSeq then
      if x.rxEpisode.isSome then d
      else sendFlit m p 2 x.rxSeq 0xF [] (beginEpisode p (modDar p (fun x => { x with rxEpisode := some (x.rxSeq, m.clk.ltb) }) d))
    else
      let units := (List.range 15).map fun i => slice flit (8 + 16 * i) 16
      let fresh := if x.rxUnits.isEmpty then units.drop (bits h 15 12) else units
      let r := splitUnits 64 (x.rxUnits ++ fresh)
      let d := modDar p (fun x => { x with
        rxSeq := (x.rxSeq + 1) % 4096
        ackDue := true
        rxUnits := r.2
        rxEpisode := x.rxEpisode.filter fun e => e.1 ≠ x.rxSeq }) d
      r.1.foldl (fun d b => deliverMsg m p b d) (takeHeader p h d)) s

/-- IDLE_FLIT (R338): its header acknowledges flits and returns credits. -/
def execIdleFlit (port : Fin 8) (flit : Bytes) (s : State) : Host.Outcome State Fault Refusal :=
  liftDp (fun _ d =>
    if (d.darPort port.val).state.carries && flitSound flit && fieldAt flit 0 63 60 = 0 then takeHeader port.val (wordAt flit 0) d else d) s

/-! ### Replay (R340, R341, R342) -/

/-- Send every kept flit again, byte for byte, in the original order. -/
def replayAll (m : Mgt) (p : Nat) (d : Dp) : Dp :=
  let d := ((d.darPort p).replayBuf).foldl (fun d f => emit (.flit p f.2.2) d) d
  modDar p (fun x => { x with replayBuf := x.replayBuf.map fun f => (f.1, m.clk.ltb, f.2.2) }) d

/-- NAK (R340): everything before the named number has come, and everything from it goes again; while lane 8 takes over, when that is done. -/
def execNak (port : Fin 8) (seq : Fin 4096) (s : State) : Host.Outcome State Fault Refusal :=
  liftDp (fun m d =>
    let p := port.val
    let x := d.darPort p
    if !x.state.carries || !x.replayBuf.any (·.1 = seq.val) then d
    else
      let d := modDar p (fun x => { x with
        replayBuf := x.replayBuf.dropWhile (·.1 ≠ seq.val)
        txEpisode := some (seq.val, (x.txEpisode.map (·.2)).getD m.clk.ltb)
        state := if x.state = .up || x.state = .self then .replay else x.state }) d
      if x.state = .sparing then d else replayAll m p d) s

/-- REPLAY_TIMER (R340, R341): a flit unacknowledged for 4 µs goes again, with all that follow it. -/
def execReplayTimer (port : Fin 8) (s : State) : Host.Outcome State Fault Refusal :=
  liftDp (fun m d =>
    let p := port.val
    let x := d.darPort p
    match x.replayBuf.head? with
    | none => d
    | some f =>
      if !x.state.carries || x.state = .sparing || m.clk.ltb < f.2.1 + 400 then d
      else if x.txEpisode.isSome then replayAll m p d
      else replayAll m p (beginEpisode p (modDar p (fun x => { x with txEpisode := some (f.1, m.clk.ltb) }) d))) s

/-- A link goes DOWN (R341, R342): what its unacknowledged flits carry is lost, and what waits in its egress queues moves, in order, to the queues of the same number at the ports that the map gives. -/
def goDown (m : Mgt) (p : Nat) (d : Dp) : Dp :=
  let d := modDar p (fun x => { x with
    state := .down, since := m.clk.ltb, replayBuf := [], rxUnits := [], rxEpisode := none, txEpisode := none, ackDue := false }) d
  let pt := d.fab.points.getD (2 + p) Point.reset
  let waiting := pt.queues.flatMap fun q => q.items.map fun i => (q.number, i)
  let stays := fun (i : QItem) => (portFor m d i.msg).isNone
  let d := { d with fab := { d.fab with points := modAt d.fab.points (2 + p) fun t =>
    { t with queues := t.queues.map fun q => { q with items := q.items.filter stays, deficit := 0 } } } }
  waiting.foldl (fun d x => match portFor m d x.2.msg with
    | some k => enqueue m (2 + k) x.1 { x.2 with tick := m.clk.ltb } d
    | none => d) d

/-- RETRY_BUDGET_EXPIRY (R341): an episode has lasted longer than DAR.RETRY_BUDGET. -/
def execRetryBudgetExpiry (port : Fin 8) (s : State) : Host.Outcome State Fault Refusal :=
  liftDp (fun m d =>
    let x := d.darPort port.val
    let late := fun (e : Option (Nat × Nat)) => e.any fun e => m.clk.ltb > e.2 + m.timers.retryBudgetUs * 100
    if x.state.carries && (late x.rxEpisode || late x.txEpisode) then settle m (goDown m port.val d) else d) s

/-! ### Lanes (R336, R337) -/

/-- The lanes that carry traffic: the lowest of those that trained (R336, R337). -/
def DarPort.active (x : DarPort) : List Nat := x.trained.take x.width

/-- LANE_FAILED (R336, R337): the first failed lane of a direction is named to the far end and lane 8 takes over; with no spare left the link goes DOWN. -/
def execLaneFailed (port : Fin 8) (lane : Fin 9) (s : State) : Host.Outcome State Fault Refusal :=
  liftDp (fun m d =>
    let p := port.val
    let x := d.darPort p
    if !x.state.carries || lane.val ∉ x.trained || x.spared = some lane.val then d
    else if lane.val ∈ x.active || (lane.val = 8 && x.spared.isSome) then
      if x.spared.isSome || 8 ∉ x.trained || 8 ∈ x.active then settle m (goDown m p d)
      else
        let d := logEvent m 2 9 3 none 0 0 0 [p, lane.val, x.width] (countNamed 15 d)
        let d := modDar p (fun x => { x with spared := some lane.val, mapAwaited := true, state := .sparing }) d
        sendFlit m p 4 0 0xF (linkPayload 4 [lane.val]) d
    else modDar p (fun x => { x with trained := x.trained.filter (· ≠ lane.val) }) d) s

/-- LANE_MAP (R336): the far receiver names a failed lane, and this end answers with the number of its first flit on the spare; or the far end so answers. -/
def execLaneMap (port : Fin 8) (lane : Fin 9) (s : State) : Host.Outcome State Fault Refusal :=
  liftDp (fun m d =>
    let p := port.val
    let x := d.darPort p
    if !x.state.carries then d
    else if x.mapAwaited && x.spared = some lane.val then modDar p (fun x => { x with mapAwaited := false }) d
    else if x.txSpared.isSome then d
    else sendFlit m p 4 x.txSeq 0xF (linkPayload 4 [lane.val])
      (modDar p (fun x => { x with txSpared := some lane.val, state := .sparing }) d)) s

/-- SPARING_DONE (R336, R343): the port leaves SPARING, back to the replay that runs or to service. -/
def execSparingDone (port : Fin 8) (s : State) : Host.Outcome State Fault Refusal :=
  liftDp (fun m d =>
    let p := port.val
    let x := d.darPort p
    if x.state ≠ .sparing then d
    else
      let d := modDar p (fun x => { x with
        mapAwaited := false, state := if x.rxEpisode.isSome || x.txEpisode.isSome then .replay else x.service }) d
      if x.txEpisode.isSome then replayAll m p d else d) s

/-! ### Training (R337, R343, R344) -/

/-- SIGNAL_FOUND (R343, R522): a far-end signal on at least four lanes, none of the port under test. -/
def execSignalFound (port : Fin 8) (lanes : Nat) (s : State) : Host.Outcome State Fault Refusal :=
  liftDp (fun m d =>
    if (d.darPort port.val).state = .detect && lanes ≥ 4 && !m.darTesting port.val then modDar port.val (fun x => { x with state := .train, since := m.clk.ltb }) d else d) s

/-- TRAIN_LOCK (R337, R343): eight lanes of nine, otherwise the four lowest; sequence numbers start at 0, credits are as advertised, and IDENT is sent. -/
def execTrainLock (port : Fin 8) (lanes : BitVec 9) (s : State) : Host.Outcome State Fault Refusal :=
  liftDp (fun m d =>
    let p := port.val
    let locked := setBits 9 lanes.toNat
    if (d.darPort p).state ≠ .train || locked.length < 4 then d
    else
      let width := if locked.length ≥ 8 then 8 else 4
      let d := if width = 4 then
          logEvent m 2 9 3 none 0 0 0 [p, ((List.range 9).find? (· ∉ locked)).getD 0, width] d else d
      let d := modDar p (fun x => { x with
        state := .align, since := m.clk.ltb, width := width, trained := locked, spared := none, txSpared := none
        mapAwaited := false, disagreed := false, txSeq := 0, rxSeq := 0, ackDue := false, replayBuf := [], rxUnits := []
        rxEpisode := none, txEpisode := none, loop := false
        credits := [512, 256, 256, 1024, 1024], returned := [0, 0, 0, 0, 0] }) d
      let d := { d with fab := { d.fab with inbox := d.fab.inbox.map fun x => if x.1 = p then (8, x.2) else x } }
      sendFlit m p 3 0 0xF (linkPayload 3 ([0, m.self, p, if m.pkg.ownerOrdered then 2 else 1] ++ m.epochs)) d) s

/-- TRAIN_TIMEOUT (R343): 500 ms without lock. -/
def execTrainTimeout (port : Fin 8) (s : State) : Host.Outcome State Fault Refusal :=
  liftDp (fun m d =>
    let x := d.darPort port.val
    if x.state = .train && m.clk.ltb ≥ x.since + 50000000 then modDar port.val (fun x => { x with state := .detect, since := m.clk.ltb }) d else d) s

/-- The detail of an IDENT's log entry: far kind, identifier and port. -/
def identDetail (i : Ident) : List Nat := [i.switch.toNat, i.id, i.port]

/-- IDENT (R343, R344): agreement leads to UP, or to SELF where the far end is this package; anything else is logged. A far end that has changed is logged too. -/
def execIdent (port : Fin 8) (i : Ident) (s : State) : Host.Outcome State Fault Refusal :=
  liftDp (fun m d =>
    let p := port.val
    let x := d.darPort p
    let mode := if m.pkg.ownerOrdered then 2 else 1
    if x.state ≠ .align || x.disagreed then d
    else if Config.identAgrees i.switch i.id i.port i.cohMode m.self mode then
      let changed : Bool := match x.far with | some f => identDetail f ≠ identDetail i | none => false
      let d := if changed then logEvent m 1 9 5 none i.id 0 0 (identDetail i) d else d
      let own : Bool := !i.switch && i.id = m.self
      settle m (modDar p (fun x => { x with state := if own then .self else .up, loop := own, far := some i, since := m.clk.ltb }) d)
    else logEvent m 1 9 5 none i.id 0 0 (identDetail i) (modDar p (fun x => { x with disagreed := true, since := m.clk.ltb }) d)) s

/-- ALIGN_RETRY_EXPIRY (R343): 1 ms after an IDENT disagreed. -/
def execAlignRetryExpiry (port : Fin 8) (s : State) : Host.Outcome State Fault Refusal :=
  liftDp (fun m d =>
    let x := d.darPort port.val
    if x.state = .align && x.disagreed && m.clk.ltb ≥ x.since + 100000 then
      modDar port.val (fun x => { x with state := .detect, disagreed := false, since := m.clk.ltb }) d else d) s

/-- DOWN_TIMER (R343): 1 ms after a port went DOWN. -/
def execDownTimer (port : Fin 8) (s : State) : Host.Outcome State Fault Refusal :=
  liftDp (fun m d =>
    let x := d.darPort port.val
    if x.state = .down && m.sec.power ≠ .retain && m.clk.ltb ≥ x.since + 100000 then
      modDar port.val (fun x => { x with state := .detect, since := m.clk.ltb }) d else d) s

end Sys2Proof.Machine
end

