-- ==== Sys2Proof/Machine/Schedule.lean ====
section
/-! DEFINITION. Scheduling points: gates, meters, deficit round robin, deals and samples (R365 to R381). -/

namespace Sys2Proof.Machine

/-- The queue entry of a point's kind (R367): memory front ends, Daras egress, host egress. -/
def Mgt.queueEntry (m : Mgt) (point queue : Nat) : QueueEntry :=
  ((m.image.map (·.queues)).getD []).getD (64 * (if point < 2 then 0 else if point < 10 then 1 else 2) + queue) default

/-- An item has room downstream: a credit of its class at a Daras egress (R130, R368). -/
def hasRoom (d : Dp) (point : Nat) (i : QItem) : Bool :=
  if 2 ≤ point && point < 10 then (d.darPort (point - 2)).credits.getD i.coh 0 > 0 else true

/-- The resource of a point can take a message: a Daras port that carries new flits and can keep one for replay (R340, R343), or a host link that is up. -/
def canTake (d : Dp) (point : Nat) : Bool :=
  if point < 2 then false
  else if point < 10 then
    let x := d.darPort (point - 2)
    x.state.carries && x.state ≠ .sparing && x.replayBuf.length < 2048
  else (d.hostPort (point - 10)).mode ≠ 0 && !(d.hostPort (point - 10)).perst

/-- The gate mask and the end of the present entry of a point's deal, and the mask that follows it, a takeover that comes first included (R374, R375, R377). -/
def entryEnd (p : Point) : Option (Nat × Nat) :=
  match p.deal with
  | none => p.takeover.map fun t => (t.1, (t.2.getD 0 (0, 0)).1)
  | some l =>
    let stop := p.entryStart + (l.getD p.entry (0, 0)).2
    match p.takeover with
    | some t => if t.1 ≤ stop then some (t.1, (t.2.getD 0 (0, 0)).1) else some (stop, (l.getD ((p.entry + 1) % l.length) (0, 0)).1)
    | none => some (stop, (l.getD ((p.entry + 1) % l.length) (0, 0)).1)

/-- A queue may be granted now: its gate is open, and does not close within the guard (R369). -/
def mayGo (m : Mgt) (point : Nat) (p : Point) (q : Nat) : Bool :=
  gateOpen p q && match entryEnd p with
    | none => true
    | some (stop, next) => bitAt next q || m.clk.ltb + (m.pointEntry point).guard ≤ stop

/-! ### Meters (R370 to R372) -/

/-- The colour of a head, 1 green, 2 yellow, 0 red, and what is taken from the committed and the peak bucket, in 1/256 B. A head keeps the colour it has (R371, R372). -/
def colour (m : Mgt) (point : Nat) (q : Queue) (i : QItem) : Nat × Nat × Nat :=
  let e := m.queueEntry point q.number
  let b := 256 * countedLen m point i
  if i.colour ≠ 0 then (i.colour, 0, 0)
  else if m.forerunner || !e.metered || i.coh ≠ 0 then (1, 0, 0)
  else
    let peak : Bool := q.pb + b ≤ 256 * e.pbs
    let committed : Bool := q.cb + b ≤ 256 * e.cbs
    if bitAt m.timers.colourAware i.part && bitAt m.timers.yellowClasses i.cls && peak then (2, 0, b)
    else if !peak then (0, 0, 0)
    else if !committed then (2, 0, b)
    else (1, b, b)

/-- What a bucket gains at a tick, in 1/256 B, at a rate in MB/s: the ticks of 10 ns share the fractions evenly (R370). -/
def fillOf (rate tick : Nat) : Nat := 256 * rate * tick / 100 - 256 * rate * (tick - 1) / 100

/-- Both buckets of every metered queue fill at a tick (R370). -/
def fillMeters (m : Mgt) (d : Dp) : Dp :=
  let fill := fun (point : Nat) (q : Queue) =>
    let e := m.queueEntry point q.number
    { q with cb := q.cb - fillOf e.cir m.clk.ltb, pb := q.pb - fillOf e.pir m.clk.ltb }
  { d with fab := { d.fab with points := d.fab.points.mapIdx fun i p => { p with queues := p.queues.map (fill i) } } }

/-! ### A grant (R369, R373) -/

/-- A candidate of deficit round robin: queue, counted length of its head, quantum and deficit. -/
structure Cand where
  queue : Nat
  len : Nat
  quantum : Nat
  deficit : Nat
  deriving DecidableEq, Repr

/-- Visits in turn: a queue whose deficit falls short gains its quantum and is passed; the first that covers its head is granted (R373). -/
def visit : Nat → List Cand → List Cand → Option (Nat × List Cand)
  | 0, _, _ => none
  | n + 1, [], done => visit n done.reverse []
  | n + 1, c :: cs, done =>
    if c.len ≤ c.deficit then some (c.queue, { c with deficit := c.deficit - c.len } :: cs ++ done)
    else visit n cs ({ c with deficit := c.deficit + c.quantum } :: done)

/-- Candidates in the order of their visits: increasing numbers, going on with the visit of the queue last granted, which passes on only when its deficit falls short (DEDUCED from the worked example of R373). -/
def visitOrder (last : Nat) (l : List Cand) : List Cand :=
  let s := sortBy (fun a b => a.queue < b.queue) l
  s.filter (fun c => last ≤ c.queue) ++ s.filter fun c => c.queue < last

/-- The queue that deficit round robin grants, and the deficits it leaves. In forerunner mode only queue 0 is there, and quanta are ignored (R381). -/
def choose (m : Mgt) (last : Nat) (l : List Cand) : Option (Nat × List Cand) :=
  if m.forerunner then l.head?.map fun c => (c.queue, [])
  else if l.isEmpty then none
  else
    let most := (l.map (·.len)).foldl max 0
    visit ((l.length + 1) * (most / 1024 + 3)) (visitOrder last l) []

/-- The head of a queue: its oldest item with room downstream (R368). -/
def headOf (d : Dp) (point : Nat) (q : Queue) : Option QItem := q.items.find? (hasRoom d point)

/-- Give the head of every candidate queue its colour, taking from its buckets. -/
def colourHeads (m : Mgt) (d : Dp) (point : Nat) (p : Point) : Point :=
  { p with queues := p.queues.map fun q =>
      if mayGo m point p q.number then
        match headOf d point q with
        | none => q
        | some i =>
          let c := colour m point q i
          { q with
            cb := q.cb + c.2.1, pb := q.pb + c.2.2
            items := q.items.map fun x => if x = i then { x with colour := c.1 } else x }
      else q }

/-- Send a granted item onto its resource. -/
def sendItem (m : Mgt) (point : Nat) (i : QItem) (d : Dp) : Dp :=
  if point < 10 then
    let p := point - 2
    let seq := (d.darPort p).txSeq
    let d := modDar p (fun x => { x with txSeq := (x.txSeq + 1) % 4096, credits := modAt x.credits i.coh (· - 1) }) d
    sendFlit m p 1 seq 0 (msgBytes i.msg) (countAt 2 (0x050000 + 8 * (64 * i.part + 8 * i.cls + 5)) i.bytes d)
  else match i.host with
    | some (tag, data) => emit (.host (point - 10) tag i.msg.status data) d
    | none => d

/-- SCHEDULING_GRANT (R369): the candidates with green heads share by deficit round robin, then those with yellow ones; the chosen head goes whole. -/
def execSchedulingGrant (point : Fin 12) (s : State) : Host.Outcome State Fault Refusal :=
  liftDp (fun m d =>
    let t := point.val
    if !canTake d t then d
    else
      let p := colourHeads m d t (d.fab.points.getD t Point.reset)
      let d := { d with fab := { d.fab with points := d.fab.points.set t p } }
      let heads := p.queues.filterMap fun q =>
        if mayGo m t p q.number then (headOf d t q).map fun i => (q, i) else none
      let cands := fun (c : Nat) => (heads.filter fun x => x.2.colour = c).map fun x =>
        (⟨x.1.number, countedLen m t x.2, (m.queueEntry t x.1.number).quantum, x.1.deficit⟩ : Cand)
      match choose m p.last (if heads.any (·.2.colour = 1) then cands 1 else cands 2) with
      | none => d
      | some (n, left) =>
        match (heads.find? (·.1.number = n)).map (·.2) with
        | none => d
        | some i =>
          let upd := fun (q : Queue) =>
            let q := { q with deficit := ((left.find? (·.queue = q.number)).map (·.deficit)).getD q.deficit }
            if q.number = n then
              let items := q.items.erase i
              { q with items := items, deficit := if items.isEmpty then 0 else q.deficit, delayMax := max q.delayMax (m.clk.ltb - i.tick) }
            else q
          let d := { d with fab := { d.fab with points := d.fab.points.set t { p with queues := p.queues.map upd, last := n } } }
          sendItem m t i d) s

/-! ### Deals (R374 to R377) -/

/-- Queues whose gates are closed have no deficit (R373). -/
def closeGates (p : Point) : Point :=
  { p with queues := p.queues.map fun q => if gateOpen p q.number then q else { q with deficit := 0 } }

/-- DEAL_ENTRY_END (R375): the next entry begins at the tick the present one ends. -/
def execDealEntryEnd (point : Fin 12) (s : State) : Host.Outcome State Fault Refusal :=
  liftDp (fun m d =>
    let step := fun (p : Point) => match p.deal with
      | none => p
      | some l =>
        let ticks := (l.getD p.entry (0, 0)).2
        if l.isEmpty || m.clk.ltb < p.entryStart + ticks then p
        else closeGates { p with entry := (p.entry + 1) % l.length, entryStart := p.entryStart + ticks }
    { d with fab := { d.fab with points := modAt d.fab.points point.val step } }) s

/-- DEAL_TAKEOVER (R377): at its tick the new deal begins its entry 0. -/
def execDealTakeover (point : Fin 12) (s : State) : Host.Outcome State Fault Refusal :=
  liftDp (fun m d =>
    let step := fun (p : Point) => match p.takeover with
      | none => p
      | some (t, l) => if m.clk.ltb < t then p
        else closeGates { p with deal := some l, entry := 0, entryStart := t, takeover := none }
    { d with fab := { d.fab with points := modAt d.fab.points point.val step } }) s

/-! ### Samples (R379, R380) -/

/-- QUEUE_SAMPLE (R379): depth and head delay of every queue, and their greatest values since the last sample. -/
def execQueueSample (s : State) : Host.Outcome State Fault Refusal :=
  liftDp (fun m d =>
    if d.fab.sampleTicks = 0 || m.clk.ltb < d.fab.sampleAt + d.fab.sampleTicks then d
    else
      let sat := fun (n : Nat) => min n (2 ^ 32 - 1)
      let sample := fun (point : Nat) (q : Queue) =>
        let depth := q.depth m point
        let delay := ((q.items.head?).map fun i => m.clk.ltb - i.tick).getD 0
        { q with sample := (sat depth, sat delay, sat (max q.depthMax depth), sat (max q.delayMax delay)), depthMax := depth, delayMax := 0 }
      { d with fab := { d.fab with
          sampleAt := m.clk.ltb
          points := d.fab.points.mapIdx fun i p => { p with queues := p.queues.map (sample i) } } }) s

end Sys2Proof.Machine
end

