-- ==== Sys2Proof/Machine/Resilience.lean ====
section
/-! DEFINITION. Whist: beats, suspicions, verdicts and fencing; guard timers, alias holds and the resumption of tasks (R382 to R389, R395, R396, R403, R145, R499). -/

namespace Sys2Proof.Machine

/-! ### Whist messages (R383) -/

/-- The 64 bytes of a Whist message (R383, Table 1). -/
def whistBytes (w : Whist) : Bytes :=
  let entry := fun (i : Nat) => match w.set[i]? with | some k => 2 ^ 15 + k | none => 0
  wordsBytes ([w.kind * 2 ^ 60 + w.epoch * 2 ^ 52 + w.source * 2 ^ 38 + w.subject * 2 ^ 24 + w.seq % 2 ^ 24,
    w.target * 2 ^ 50 + w.broadcast.toNat * 2 ^ 49, w.ltb, 0]
    ++ (List.range 4).map fun k => ((List.range 4).map fun j => entry (4 * k + j) * 2 ^ (16 * j)).sum)

/-- Send a Whist message in a LEASE flit on a port; a FENCED package sends none (R383, R386). -/
def sendWhist (m : Mgt) (p : Nat) (w : Whist) (d : Dp) : Dp :=
  if d.fab.whist.fenced then d else sendFlit m p 5 0 0xF (whistBytes w) d

/-- The ports in UP or SELF that the map gives as routes towards a package (R383). -/
def whistPorts (m : Mgt) (d : Dp) (k : Nat) : List Nat :=
  (List.range 8).filter fun i =>
    ((d.darPort i).state = .up || (d.darPort i).state = .self) && bitAt (((m.route k).map (·.ports)).getD 0) i

/-- A Whist message of this package. -/
def whistMsg (m : Mgt) (kind subject seq target : Nat) (broadcast : Bool) (set : List Nat) : Whist :=
  ⟨kind, m.comp.stamp, m.self, subject, seq, target, broadcast, m.clk.ltb, set⟩

/-- Send SUSPECT naming a member to every other member of its lease set (R384). -/
def sendSuspects (m : Mgt) (x : Member) (d : Dp) : Dp :=
  (x.set.filter (· ≠ m.self)).foldl (fun d k =>
    (whistPorts m d k).foldl (fun d p => sendWhist m p (whistMsg m 2 x.id 0 k false []) d) d) d

/-- Change a member of the lease set. -/
def modMember (k : Nat) (f : Member → Member) (d : Dp) : Dp :=
  { d with fab := { d.fab with whist := { d.fab.whist with members := modWhere d.fab.whist.members (·.id = k) f } } }

/-- A member of the lease set. -/
def Dp.member (d : Dp) (k : Nat) : Option Member := d.fab.whist.members.find? (·.id = k)

/-- The members follow the lease set of the map in force (R382); what is known of a member that stays is kept. -/
def syncMembers (m : Mgt) (d : Dp) : Dp :=
  let old := d.fab.whist.members
  let keep := fun (k : Nat) => (old.find? (·.id = k)).getD ⟨k, 0, none, m.clk.ltb, none, false, [], 0⟩
  { d with fab := { d.fab with whist := { d.fab.whist with members := m.leaseSet.eraseDups.map keep } } }

/-- Every held SUSPECT of a package is dropped. -/
def dropSuspicions (k : Nat) (d : Dp) : Dp :=
  { d with fab := { d.fab with whist := { d.fab.whist with suspicions := d.fab.whist.suspicions.filter (·.1 ≠ k) } } }

/-! ### A package named lost (R145, R387) -/

/-- A directory entry loses a lost package: an owned line is poisoned, a sharer's pointer dropped (R145). -/
def purgePackage (m : Mgt) (k : Nat) (d : Dp) : Dp :=
  (d.coh.dir.filter fun e => k ∈ e.ptrs).foldl (fun d e =>
    let d := removeHolder e.line (.pkg k) d
    if !e.owned then d
    else match storePlace m d (e.line * 64) with
      | some (r, _, a) => (applyChange m r a (readLine m d r a).1 true (((m.region r).map (·.partition)).getD 0) 0 d).2
      | none => d) d

/-- This package's copies of lines homed in a lost package: clean ones are dropped, M ones wait in write-back buffers until another package serves the home (R145). -/
def keepModified (m : Mgt) (k : Nat) (d : Dp) : Dp :=
  let mine := fun (x : RemoteLine) => x.line / 2 ^ 44 = k
  let dirty := d.coh.remote.filter fun x => mine x && !x.writeback && x.state = 3
  let kept := d.coh.remote.filterMap fun x => if mine x && !x.writeback then (if x.state = 3 then some { x with writeback := true } else none) else some x
  let again := (d.coh.txns.filter fun t => t.msg.opcode = 0x08 && t.msg.target = k && !d.coh.heldHome.any (·.txn = t.txn)).map (·.msg)
  let d := { d with coh := { d.coh with remote := kept, heldHome := d.coh.heldHome ++ again } }
  dirty.foldl (fun d x => issue m .daras (m.newMsg 0x08 k 0 0 (x.line * 64) 0 []) d) d

/-- The ROUTE phase that a resubmission must start from, and whether the task resumes by itself (R403, Table 6): stage 0 is SELECT, stage 6 COMBINE. -/
def resumption (t : Task) : Bool × Nat :=
  if t.prog.stage = 0 && t.phase ≠ 2 then (true, 0) else if t.prog.stage = 6 then (true, 2) else (false, 0)

/-- A ROUTE goes back to its last phase boundary and waits there without a context (R403). -/
def waitForServer (m : Mgt) (k : Nat) (t : Task) (d : Dp) : Dp :=
  modTask t.id (fun t => { t with
    state := .waitResume, waitPackage := k, waitValue := m.clk.ltb, arrived := []
    prog := if t.prog.stage = 6 then t.prog else { t.prog with pairs := [], asked := [], pend := [], retry := [] } }) (freeCtx m t.id d)

/-- A task's request to a lost package ends (R232, R387, R403). -/
def loseRequest (m : Mgt) (k : Nat) (x : Txn) (id : Nat) (d : Dp) : Dp :=
  let d := { dropTxn x d with coh := { (dropTxn x d).coh with heldHome := (dropTxn x d).coh.heldHome.filter (·.txn ≠ x.txn) } }
  match d.task id with
  | none => d
  | some t =>
    let d := modTask id (fun t => { t with outstanding := t.outstanding - 1 }) d
    if t.result.isSome || t.state = .waitResume then d
    else if t.opcode ≠ 0x30 then failTask id 0x25 k d
    else
      let o := routeOps t.record
      let r := resumption t
      if Config.remoteGuarded x.msg.addr then
        if r.1 then waitForServer m k t d else failTask id 0x27 r.2 d
      else if o.work / 2 ^ 50 = x.msg.addr / 2 ^ 50 then failTask id 0x27 0 d
      else failTask id 0x25 k d

/-- What no surviving copy can replace any more is lost: failed frames, and all of a guarded region while its spare rebuilds it (R398, R402). -/
def loseUnguarded (m : Mgt) (d : Dp) : Dp :=
  let gone := if m.comp.rebuilding then (m.regions.filter fun r => r.guard ≠ 0 && unguarded m d r).map (·.id) else []
  let d := loseRegions m d
  { d with store := { d.store with lostRegions := gone.foldl addNew d.store.lostRegions } }

/-- Guard writes to a lost holder are not waited for, and the guard is DEGRADED (R396). -/
def degrade (m : Mgt) (k : Nat) (d : Dp) : Dp :=
  let guards : Bool := m.partner = some k || m.atPosition 8 = some k || m.atPosition 9 = some k
  if !guards then d
  else
    let w := d.fab.whist
    let guardTxn := fun (x : Txn) => x.via = .daras && x.msg.opcode = 0x06 && x.msg.target = k
    let gone := (d.coh.txns.filter guardTxn).map (·.txn)
    let trackers := d.coh.trackers.map fun t => { t with guards := t.guards.filter (·.1 ≠ k) }
    let txns := d.coh.txns.filter fun t => !guardTxn t
    let held := d.coh.heldHome.filter (·.txn ∉ gone)
    let d := { d with
      fab := { d.fab with whist := { w with degraded := addNew w.degraded k } }
      coh := { d.coh with trackers := trackers, txns := txns, heldHome := held } }
    loseUnguarded m ((d.coh.trackers.map (·.line)).eraseDups.foldl (fun d l => finishLine m l d) d)

/-- What every home and requester does about a package that has stopped for good (R145, R387). -/
def losePackage (m : Mgt) (k : Nat) (d : Dp) : Dp :=
  let lines := (d.coh.trackers.filter fun t => t.snoops.any (·.holder = .pkg k)).map (·.line)
  let d := lines.foldl (fun d l => snoopEnds m l (.pkg k) d) d
  let d := keepModified m k (purgePackage m k d)
  let mine := d.coh.txns.filter fun t => t.msg.target = k && !t.dead
  let d := mine.foldl (fun d x => match x.via with | .task id => if id < groupBase then loseRequest m k x id d else d | _ => d) d
  let d := (((m.image.map (·.slots)).getD []).filter (·.owner = k)).foldl (fun d e => shutSlot m e.number 0x04 d) d
  degrade m k (modMember k (fun x => { x with lease := 2, suspectedAt := none }) d)

/-- A VERDICT is taken: the first on a subject under each epoch acts, the rest are discarded; one that names this package fences it (R384, R386, R387). -/
def takeVerdict (m : Mgt) (k : Nat) (d : Dp) : Dp :=
  if lostPkg m d k then d
  else
    let d := logEvent m 4 9 6 none k 0 0 [k, 3] d
    if k = m.self then settle m (enterFenced m d)
    else
      let d := dropSuspicions k { d with fab := { d.fab with whist := { d.fab.whist with verdicts := (k, m.comp.stamp) :: d.fab.whist.verdicts } } }
      settle m (losePackage m k d)

/-- A member that holds suspicions from more than half of a lease set, its own included, broadcasts a VERDICT and acts on it (R384). -/
def tryVerdict (m : Mgt) (k : Nat) (d : Dp) : Dp :=
  match d.member k with
  | none => d
  | some x =>
    let own : Bool := x.suspectedAt.isSome && m.self ∈ x.set
    let others := ((d.fab.whist.suspicions.filter fun s => s.1 = k && s.2.1 ∈ x.set).map (·.2.1)).eraseDups
    if own && !lostPkg m d k && !d.fab.whist.fenced && 2 * (others.length + 1) > x.set.length then
      let ports := (List.range 8).filter fun i => (d.darPort i).state = .up || (d.darPort i).state = .self
      takeVerdict m k (ports.foldl (fun d p => sendWhist m p (whistMsg m 3 k 0 0 true []) d) d)
    else d

/-! ### The rows of Whist -/

/-- BEAT_SEND (R383, R384, R499): once per DAR.WHIST_BEAT a BEAT to every member, and SUSPECT again for every suspected one. -/
def execBeatSend (s : State) : Host.Outcome State Fault Refusal :=
  liftDp (fun m d =>
    let w := d.fab.whist
    if !m.running || w.fenced || m.clk.ltb < w.lastBeatSend + m.timers.beat10us * 1000 then d
    else
      let n := (w.beats + 1) % 2 ^ 24
      let d := { d with fab := { d.fab with whist := { w with beats := n, lastBeatSend := m.clk.ltb } } }
      let d := m.leaseSet.foldl (fun d k =>
        (whistPorts m d k).foldl (fun d p => sendWhist m p (whistMsg m 1 m.self n k false m.leaseSet) d) d) d
      (d.fab.whist.members.filter (·.suspectedAt.isSome)).foldl (fun d x =>
        modMember x.id (fun x => { x with sent := m.clk.ltb }) (sendSuspects m x d)) d) s

/-- The tick from which fencing applies: a BEAT has been taken from more than half of the lease set (R499). -/
def armFence (m : Mgt) (d : Dp) : Dp :=
  let heard := d.fab.whist.members.filter (·.lastBeat.isSome)
  if d.fab.whist.armed.isNone && 2 * heard.length > d.fab.whist.members.length then
    { d with fab := { d.fab with whist := { d.fab.whist with armed := some m.clk.ltb } } }
  else d

/-- BEAT (R383, R384, R389): silence starts anew, suspicions of the sender are dropped, and its lease is HELD again unless it stands lost under the epoch stamped. -/
def execBeat (port : Fin 8) (w : Whist) (s : State) : Host.Outcome State Fault Refusal :=
  liftDp (fun m d =>
    if w.kind ≠ 1 || w.target ≠ m.self || !(d.darPort port.val).state.carries then d
    else match d.member w.source with
      | none => d
      | some x =>
        let back : Bool := x.lease ≠ 2 || (!lostPkg m d w.source && m.composed w.source)
        let d := modMember w.source (fun x => { x with
          lastBeat := some m.clk.ltb, suspectedAt := none, logged := false, set := w.set.take 16, lease := if back then 0 else 2 }) d
        let wh := d.fab.whist
        let d := if back then { d with fab := { d.fab with whist := { wh with verdicts := wh.verdicts.filter (·.1 ≠ w.source) } } } else d
        armFence m (dropSuspicions w.source d)) s

/-- SUSPECT (R384): held for two beats where its sender belongs to the subject's lease set as this member holds it. -/
def execSuspect (port : Fin 8) (w : Whist) (s : State) : Host.Outcome State Fault Refusal :=
  liftDp (fun m d =>
    if w.kind ≠ 2 || w.target ≠ m.self || !(d.darPort port.val).state.carries then d
    else match d.member w.subject with
      | none => d
      | some x =>
        if w.source ∉ x.set || x.lease = 2 then d
        else
          let wh := d.fab.whist
          let held := (w.subject, w.source, m.clk.ltb) :: wh.suspicions.filter fun y => !(y.1 = w.subject && y.2.1 = w.source)
          tryVerdict m w.subject { d with fab := { d.fab with whist := { wh with suspicions := held } } }) s

/-- SUSPECT_HOLD_EXPIRY (R384): a held SUSPECT not renewed within two beats is dropped. -/
def execSuspectHoldExpiry (subject sender : Nat) (s : State) : Host.Outcome State Fault Refusal :=
  liftDp (fun m d =>
    let wh := d.fab.whist
    let stale := fun (y : Nat × Nat × Nat) => y.1 = subject && y.2.1 = sender && decide (m.clk.ltb ≥ y.2.2 + 2 * m.timers.beat10us * 1000)
    { d with fab := { d.fab with whist := { wh with suspicions := wh.suspicions.filter fun y => !stale y } } }) s

/-- WHIST_SILENCE_EXPIRY (R384, R389, R499): silence from a member heard before has reached DAR.WHIST_SILENCE. -/
def execWhistSilenceExpiry (member : Nat) (s : State) : Host.Outcome State Fault Refusal :=
  liftDp (fun m d => match d.member member with
    | none => d
    | some x => match x.lastBeat with
      | none => d
      | some t =>
        if x.lease ≠ 0 || m.clk.ltb < t + m.timers.silence10us * 1000 then d
        else
          let d := modMember member (fun x => { x with lease := 1, suspectedAt := some m.clk.ltb, sent := m.clk.ltb }) d
          tryVerdict m member (sendSuspects m x d)) s

/-- WHIST_DECIDE_EXPIRY (R384): no majority within DAR.WHIST_DECIDE of the suspicion; the subject is logged once as isolated. -/
def execWhistDecideExpiry (member : Nat) (s : State) : Host.Outcome State Fault Refusal :=
  liftDp (fun m d => match d.member member with
    | none => d
    | some x => match x.suspectedAt with
      | none => d
      | some t =>
        if x.logged || m.clk.ltb < t + m.timers.decide10us * 1000 then d
        else modMember member (fun x => { x with logged := true }) (logEvent m 4 9 6 none member 0 0 [member, 2] d)) s

/-- VERDICT (R384 to R387). -/
def execVerdict (port : Fin 8) (w : Whist) (s : State) : Host.Outcome State Fault Refusal :=
  liftDp (fun m d => if w.kind = 3 && (d.darPort port.val).state.carries then takeVerdict m w.subject d else d) s

/-- Members from which no BEAT has come for three quarters of DAR.WHIST_SILENCE; one never heard counts from the tick at which fencing began to apply, or from its joining the set if that is later (R386, R499). -/
def silentMembers (m : Mgt) (d : Dp) (armed : Nat) : List Member :=
  d.fab.whist.members.filter fun x => 4 * (m.clk.ltb - x.lastBeat.getD (max armed x.since)) ≥ 3 * (m.timers.silence10us * 1000)

/-- SELF_FENCE (R386): no BEAT from at least half of the lease set for three quarters of the silence, or a verdict on itself. -/
def execSelfFence (s : State) : Host.Outcome State Fault Refusal :=
  liftDp (fun m d =>
    let quiet : Bool := match d.fab.whist.armed with
      | some a => !d.fab.whist.members.isEmpty && decide (2 * (silentMembers m d a).length ≥ d.fab.whist.members.length)
      | none => false
    if quiet then settle m (enterFenced m d) else d) s

/-! ### Guards, holds and resumption (R395, R396, R403) -/

/-- GUARD_WRITE_TIMEOUT (R396): the writer's task ends with FAIL_TIMEOUT and the guard write is sent again; the line stays busy. -/
def execGuardWriteTimeout (line : Nat) (s : State) : Host.Outcome State Fault Refusal :=
  liftDp (fun m d =>
    let late := fun (g : Nat × Nat × Bytes × Nat) => decide (m.clk.ltb ≥ g.2.2.2 + m.e2e)
    let ts := d.coh.trackers.filter fun t => t.line = line && t.guards.any late
    ts.foldl (fun d t =>
      let due := t.guards.filter late
      let d := due.foldl (fun d g => logEvent m 3 9 7 none g.1 0 (m.self * 2 ^ 50 + line * 64) [g.1] d) d
      let d := due.foldl (fun d g => match d.coh.txns.find? (·.txn = g.2.1) with
        | some x => if d.coh.heldHome.any (·.txn = g.2.1) then d else send m x.msg d
        | none => d) d
      let holder := (due.head?.map (·.1)).getD 0
      let ends : Option Nat := match t.via with | .task id => if t.cause = 4 && id < groupBase then some id else none | _ => none
      let t' := { t with guards := t.guards.map fun g => if late g then (g.1, g.2.1, g.2.2.1, m.clk.ltb) else g, cause := if ends.isSome then 6 else t.cause }
      let d := { d with coh := { d.coh with trackers := d.coh.trackers.map fun x => if x = t then t' else x } }
      match ends with
      | some id => failTask id 0x25 holder (modTask id (fun x => { x with outstanding := x.outstanding - 1 }) d)
      | none => d) d) s

/-- ALIAS_HOLD_LAPSE (R395): a hold not released within 50 µs lapses. -/
def execAliasHoldLapse (frame : Nat) (s : State) : Host.Outcome State Fault Refusal :=
  liftDp (fun m d =>
    let w := d.fab.whist
    let lapsed := fun (h : Nat × Nat × Nat) => h.1 = frame && decide (m.clk.ltb ≥ h.2.2 + 5000)
    if w.holds.any lapsed then settle m { d with fab := { d.fab with whist := { w with holds := w.holds.filter fun h => !lapsed h } } } else d) s

/-- Tasks that wait for an identifier go on once the package stamps an epoch under which some package serves it (R403). -/
def resumeTasks (m : Mgt) (d : Dp) : Dp :=
  (d.tasks.tasks.filter fun t => t.state = .waitResume && t.result.isNone && !lostPkg m d t.waitPackage && m.composed t.waitPackage).foldl
    (fun d t => modTask t.id (fun t => { t with state := .waitContext }) d) d

/-- RESUME_WAIT_EXPIRY (R403): the identifier was not served again within TIE.RESUME_WAIT. -/
def execResumeWaitExpiry (task : Nat) (s : State) : Host.Outcome State Fault Refusal :=
  liftDp (fun m d => match d.task task with
    | some t =>
      if t.state = .waitResume && t.result.isNone && m.clk.ltb ≥ t.waitValue + m.pkg.resumeWaitMs * 100000 then failTask task 0x27 (resumption t).2 d else d
    | none => d) s

end Sys2Proof.Machine
end

