-- ==== Sys2Proof/Machine/Messages.lean ====
section
/-! DEFINITION. Operational messages: their form, the checks every one passes, their acceptance and refusal, and how they come, by MCTP or in Daras segments (R407, R428, R433, R434, R446, R473 to R477). -/

namespace Sys2Proof.Machine

/-! ### Form (R473, R476) -/

/-- The message codes (R476, Table 14). -/
def opCodes : List Nat := [0x10, 0x11, 0x12, 0x18, 0x19, 0x20, 0x21, 0x30, 0x31, 0x32, 0x40, 0x41, 0x50, 0x60]

/-- Has a key index authority for a code: the debug key for DEBUG_SET, the owner key for IMAGE_WRITE, a fabric manager key otherwise (R476)? -/
def keyServes (code key : Nat) : Bool := if code = 0x30 then key = 4 else if code = 0x60 then key = 5 else key ≤ 3

/-- The public key of an index (R465). -/
def Mgt.keyOf (m : Mgt) (key : Nat) : Option Bytes :=
  match m.image with
  | none => none
  | some i => if key = 5 then some i.ownerKey else if key = 4 then i.debugKey else if key < 4 then (i.fmKeys[key]?).join else none

/-- The body of a message. -/
def opBody (b : Bytes) : Bytes := slice b 64 (fieldAt b 1 63 32)

/-- Does a body fit its code, with every reserved bit zero and every encoding listed (R7, R8, R476)? -/
def bodyFits (code : Nat) (body : Bytes) : Bool :=
  let n := body.length
  let zero := fun (i hi lo : Nat) => decide (fieldAt body i hi lo = 0)
  match code with
  | 0x10 => n = 65664 && !mapReserved body
  | 0x11 => n = 8 && zero 0 55 0
  | 0x12 => n = 8 && zero 0 55 0
  | 0x18 => n = 8 && zero 0 57 0
  | 0x19 => n = 8 && zero 0 57 0
  | 0x20 => n = 8 && zero 0 21 0
  | 0x30 => n = 8 && zero 0 61 0 && fieldAt body 0 63 62 ≤ 2
  | 0x40 => n = 32 && zero 0 63 60 && zero 0 41 20 && zero 1 63 0 && zero 2 63 0 && zero 3 63 0
  | 0x41 => n = 32 && zero 1 43 32 && zero 3 59 0 && fieldAt body 1 57 56 ≤ 2
  | 0x50 => n ≥ 32 && n = 32 + 16 * fieldAt body 2 63 56 && zero 0 51 0 && zero 2 55 0 && zero 3 63 0
      && (List.range (fieldAt body 2 63 56)).all fun i => zero (5 + 2 * i) 31 0
  | 0x60 => zero 0 62 32 && zero 1 31 0 && within 1 (fieldAt body 1 63 32) 65536 && fieldAt body 0 31 0 % 65536 = 0
      && n = 16 + roundUp (fieldAt body 1 63 32) 8
  | _ => n = 0

/-- Step 2 of Table 13: format, lengths, reserved bits and body. -/
def opFormed (b : Bytes) : Bool :=
  let n := fieldAt b 1 63 32
  b.length ≥ 128 && fieldAt b 0 55 48 = 0x01 && n % 8 = 0 && n ≤ 1048448 && b.length = 128 + n
  && fieldAt b 0 14 0 = 0 && fieldAt b 1 31 0 = 0 && (slice b 16 48).all (· = 0)
  && bodyFits (fieldAt b 0 63 56) (opBody b)

/-! ### The conditions of each message (step 9) -/

/-- A region of a partition that is not DETACHED is in service (R399). -/
def Mgt.inService (m : Mgt) : Bool := m.regions.any fun r => m.attach r.partition ≠ 0

/-- Is a takeover, or the rebuild that follows it, under way (R400, R401)? -/
def Mgt.takingOver (m : Mgt) : Bool := m.comp.engaged.isSome && (!m.comp.engageReady || m.comp.rebuilding)

/-- Does a condition of R434 fail? -/
def retainBarred (m : Mgt) (d : Dp) : Bool :=
  m.regions.any (fun r => m.attach r.partition ≠ 0) || d.tasks.slots.any (·.state ≠ .unbound)
  || d.hosts.leases.any (·.state = 1) || !m.leaseSet.isEmpty

/-- The deal that a DEAL_SET carries. -/
def dealBody (body : Bytes) : Bytes := body.drop 16

/-- The points that a DEAL_SET names. -/
def dealPoints (body : Bytes) : List Nat := (List.range 12).filter fun t => bitAt (wordAt body 0) (52 + t)

/-- Why DEAL_SET is refused (R377, Table 15). -/
def dealReason (m : Mgt) (d : Dp) (body : Bytes) : Option Nat :=
  let t := wordAt body 1
  let e := dealBody body
  if t < m.clk.ltb + 10000 then some 0x30
  else if t > m.clk.ltb + 2 ^ 40 then some 0x31
  else if (dealPoints body).any fun p => (d.fab.points.getD p Point.reset).takeover.isSome then some 0x32
  else if (dealPoints body).isEmpty || badDeal e
      || starves m.timers.e2e10us (namedQueues m.pkg ((m.image.map (·.parts)).getD [])) (readDeal e) then some 0x33
  else none

/-- Why IMAGE_WRITE is refused (R477, R517, R518, Table 15). -/
def imageWriteReason (m : Mgt) (body : Bytes) : Option Nat :=
  let copyB := bitAt (wordAt body 0) 63
  if (m.image.map (·.copyB)) = some copyB then some 0x60
  else if fieldAt body 0 31 0 + fieldAt body 1 63 32 > 0x2000000 then some 0x61
  else if m.sag || !m.nvm.chip.eraseSuspend then some 0x62
  else none

/-- Step 9 of Table 13: the condition of the message's own chapter that fails, if any. -/
def opReason (m : Mgt) (d : Dp) (code : Nat) (body : Bytes) : Option Nat :=
  let next := (m.comp.stamp + 1) % 256
  let last := (m.comp.stamp + 255) % 256
  let part := fieldAt body 0 63 58
  match code with
  | 0x10 =>
    if m.epochs.length > 1 || fieldAt body 0 55 48 ≠ next then some 0x01
    else mapRefusal m.self m.pkg.ownerOrdered (if m.pkg.loopEnable then some m.pkg.loopId else none) body
  | 0x11 => if fieldAt body 0 63 56 = next && m.comp.maps.any (·.epoch = next) then none else some 0x01
  | 0x12 => if fieldAt body 0 63 56 = last && m.comp.switched then none else some 0x01
  | 0x18 => if (m.part part).isSome && m.attach part = 0 then none else some 0x06
  | 0x19 => if (m.part part).isSome && m.attach part = 1 then none else some 0x06
  | 0x20 =>
    if m.takingOver then some 0x07
    else if fieldAt body 0 63 50 ≠ m.self || m.inService || !m.composed (fieldAt body 0 35 22) then some 0x05
    else none
  | 0x21 => if m.takingOver || m.comp.resyncing then some 0x07 else none
  | 0x30 => if (m.sec.level = .opened || m.sec.opening) && fieldAt body 0 63 62 ≠ 2 then some 0x10 else none
  | 0x31 => if retainBarred m d then some 0x11 else none
  | 0x40 =>
    if bitAt (wordAt body 0) 58 && (fieldAt body 0 43 42 = 1 || fieldAt body 0 43 42 = 2 || d.obs.mode = 1 || d.obs.mode = 2) then some 0x20
    else if bitAt (wordAt body 0) 59 && fieldAt body 0 19 0 ≠ 0 && !within 100 (fieldAt body 0 19 0) 1000000 then some 0x21
    else none
  | 0x41 => if badWatch m.self m.regions body then some 0x22 else none
  | 0x50 => dealReason m d body
  | 0x60 => imageWriteReason m body
  | _ => none

/-! ### The checks of Table 13 (R475) -/

/-- Did a message come over the I3C bus? -/
def Asker.i3c : Asker → Bool
  | .mctp e => e = 2
  | .daras _ => false

/-- Does the power state forbid a message (R433)? -/
def powerBars (m : Mgt) (code : Nat) (a : Asker) : Bool :=
  m.sec.retaining
  || (m.sec.power = .retain && !((code = 0x30 || (code = 0x32 && !m.sec.waking)) && a.i3c))
  || (code = 0x32 && m.sec.power ≠ .retain)

/-- The reason for which a message is refused, if any (R475, Table 13). -/
def opCheck (m : Mgt) (d : Dp) (a : Asker) (b : Bytes) : Option Nat :=
  let code := fieldAt b 0 63 56
  let key := fieldAt b 0 39 37
  if code ∉ opCodes then some 0x47
  else if !opFormed b then some 0x40
  else if m.image.isSome && fieldAt b 0 36 23 ≠ m.self then some 0x43
  else match m.keyOf key with
    | none => some 0x41
    | some k =>
      if !edVerify k (b.take (b.length - 64)) (b.drop (b.length - 64)) then some 0x41
      else if !keyServes code key then some 0x42
      else if fieldAt b 0 22 15 ≠ m.comp.stamp then some 0x44
      else match aliveClass (fieldAt b 0 47 40) (m.sec.alive.getD key 0) with
        | .repeat_ => some 0x45
        | .gap => some 0x46
        | .passes => if powerBars m code a then some 0x12 else opReason m d code (opBody b)

/-- The expected alive value that an answer carries (R474): that of a present key of the message, 0 otherwise. -/
def aliveShown (m : Mgt) (b : Bytes) : Nat :=
  let key := fieldAt b 0 39 37
  if (m.keyOf key).isSome then m.sec.alive.getD key 0 else 0

/-- A measurement register extended by an item (R413). -/
def extendMeas (old item : Bytes) : Bytes := sha512 (old ++ sha512 item)

/-- A message is refused: answered and logged, with no other effect (R475). -/
def opRefuse (m : Mgt) (a : Asker) (b : Bytes) (reason : Nat) (d : Dp) : Dp :=
  answerOp m a reason (aliveShown m b) (logEvent m 1 0xD 3 none (match a with | .daras q => q.source | _ => 0) 0 0 [fieldAt b 0 63 56, reason] d)

/-- A message is accepted: its key's value advances, measurement 5 is extended, and its sender is answered (R474, R475). -/
def opTake (m : Mgt) (b : Bytes) : Mgt :=
  { m with sec := { m.sec with
    alive := modAt m.sec.alive (fieldAt b 0 39 37) fun x => (x + 1) % 256
    meas5 := extendMeas m.sec.meas5 b } }

/-- A message has come whole. While another waits to be acted on it waits unchecked; an IMAGE_WRITE is accepted once it begins (R475, R477). -/
def opReceive (a : Asker) (b : Bytes) (x : Mgt × Dp) : Mgt × Dp :=
  let m := x.1
  let d := x.2
  if m.comp.accepted.isSome then ({ m with comp := { m.comp with waiting := m.comp.waiting ++ [(a, b)] } }, d)
  else match opCheck m d a b with
    | some r => (m, opRefuse m a b r d)
    | none =>
      let code := fieldAt b 0 63 56
      if code = 0x60 then ({ m with comp := { m.comp with accepted := some ⟨code, b, a, m.clk.ltb⟩ } }, d)
      else
        let m := opTake m b
        ({ m with comp := { m.comp with accepted := some ⟨code, opBody b, a, m.clk.ltb⟩ } }, answerOp m a 0 (aliveShown m b) d)

/-- Messages that waited for the one acted on are checked, in their order. -/
def opPump (x : Mgt × Dp) : Mgt × Dp :=
  let m := { x.1 with comp := { x.1.comp with waiting := [] } }
  x.1.comp.waiting.foldl (fun x w => opReceive w.1 w.2 x) (m, x.2)

/-- Act on the accepted message, where it has a code and a test allows it; then the next is checked. -/
def opAct (code : Nat) (ready : Mgt → Dp → Accepted → Bool) (f : Accepted → Mgt → Dp → Mgt × Dp) (m : Mgt) (d : Dp) : Mgt × Dp :=
  match m.comp.accepted with
  | some a => if a.code = code && ready m d a then opPump (f a { m with comp := { m.comp with accepted := none } } d) else (m, d)
  | none => (m, d)

/-! ### MCTP (R416, R418, R474, R492, R516) -/

/-- Does an endpoint serve: I3C from the moment firmware runs, a host port's while its link is trained and the package is out of Retain (R416, R436, R491, R492)? -/
def mctpServes (m : Mgt) (d : Dp) (e : Nat) : Bool :=
  if e = 2 then m.clk.phase = .image || m.clk.phase = .loading || m.clk.phase = .running || m.clk.phase = .held
  else (m.clk.phase = .loading || m.clk.phase = .running) && m.sec.power ≠ .retain && (d.hostPort e).mode ≠ 0

/-- An operational message comes by MCTP: checked here, or sent on to its target where the map composes it (R474). -/
def mctpMessage (e : Nat) (b : Bytes) (m : Mgt) (d : Dp) : Mgt × Dp :=
  let target := fieldAt b 0 36 23
  if m.image.isNone || target = m.self then opReceive (.mctp e) b (m, d)
  else if !m.composed target then (m, emit (.mctp e 0x7E03 [0x48, 0]) d)
  else
    let f : Forward := ⟨freshTxn m (m.newMsg 0x29 target 0 m.pkg.hkClass (target * 2 ^ 50) 0 []) d, e, target, m.clk.ltb, m.comp.stamp, false, false, b⟩
    (m, sendForward m f { d with fab := { d.fab with forwards := d.fab.forwards ++ [f] } })

/-! ### Daras segments (R474) -/

/-- A message whose segments have all come, without the padding of its last payload unit. -/
def joinSegments (count : Nat) (parts : List (Nat × Bytes)) : Bytes :=
  let b := (List.range count).flatMap fun i => (assoc parts i).getD []
  let n := 128 + fieldAt b 1 63 32
  if b.length = roundUp n 16 then b.take n else b

/-- A segment joins its source's partial message; one of another count discards what was held. The completing one submits the message. -/
def takeSegment (m : Mgt) (d : Dp) (q : Msg) : Mgt × Dp :=
  let i := bits q.arg 31 16
  let n := bits q.arg 15 0
  let held := m.comp.partials.filter fun p => !lostPkg m d p.source
  let mine : Partial := match held.find? fun p => p.source = q.source && p.count = n with
    | some p => { p with parts := setKey p.parts i q.payload }
    | none => ⟨q.source, n, m.clk.ltb, [(i, q.payload)]⟩
  let rest := held.filter (·.source ≠ q.source)
  if i ≥ n then ({ m with comp := { m.comp with partials := held.filter fun p => p.source ≠ q.source || p.count = n } }, d)
  else if (List.range n).all fun i => mine.parts.any (·.1 = i) then
    opReceive (.daras q) (joinSegments n mine.parts) ({ m with comp := { m.comp with partials := rest } }, d)
  else ({ m with comp := { m.comp with partials := mine :: rest } }, d)

/-- OP_MESSAGE (R361, R386, R474). -/
def execOpMessage (q : Msg) (s : State) : Host.Outcome State Fault Refusal :=
  liftAll (fun m d =>
    if q.opcode ≠ 0x29 then (m, d)
    else
      let d := takeInbox q d
      if d.fab.whist.fenced then (m, refuse m q 0x58 0x05 0xFFFFFFFF d)
      else if q.epoch ∉ m.epochs then (m, reply m q 0x57 0 m.comp.stamp [] d)
      else takeSegment m d q) s

/-- OP_MESSAGE_PARTIAL_TIMEOUT (R474): a partial message not completed within DAR.E2E_TIMEOUT of its first segment is discarded. -/
def execOpMessagePartialTimeout (source : Nat) (s : State) : Host.Outcome State Fault Refusal :=
  liftAll (fun m d =>
    let late := fun (p : Partial) => p.source = source && decide (m.clk.ltb ≥ p.since + m.e2e)
    ({ m with comp := { m.comp with partials := m.comp.partials.filter fun p => !late p } }, d)) s

end Sys2Proof.Machine
end

