-- ==== Sys2Proof/Machine/Compose.lean ====
section
/-! DEFINITION. Composition messages: epochs, partitions, spares and the rebuilding of guards (R145, R146, R359, R399 to R406, R413, R423). -/

namespace Sys2Proof.Machine

/-! ### Epochs (R146, R359) -/

/-- MAP_PREPARE acts: the new epoch is held beside the present one, and requests that waited for it go on. -/
def prepareMap (a : Accepted) (m : Mgt) (d : Dp) : Mgt × Dp :=
  let m := { m with comp := { m.comp with maps := m.comp.maps ++ [readMap a.body] } }
  (m, settle m (releaseForwards m d))

/-- MAP_PREPARE (R359, step 1). -/
def execMapPrepare (s : State) : Host.Outcome State Fault Refusal := liftAll (opAct 0x10 (fun _ _ _ => true) prepareMap) s

/-- Slots whose owning package the map in force no longer composes close (R151). -/
def shutUncomposed (m : Mgt) (d : Dp) : Dp :=
  (((m.image.map (·.slots)).getD []).filter fun e => e.owner < 0x4000 && !m.composed e.owner).foldl (fun d e => shutSlot m e.number 0x04 d) d

/-- MAP_SWITCH acts: the new epoch is stamped and measured, and the lease set, the slots and what waited for the new map follow it (R359, R382, R387, R403, R413). -/
def switchMap (a : Accepted) (m : Mgt) (d : Dp) : Mgt × Dp :=
  let e := fieldAt a.body 0 63 56
  let raw := ((m.comp.maps.find? (·.epoch = e)).map (·.raw)).getD []
  let m := { m with
    comp := { m.comp with stamp := e, switched := true }
    sec := { m.sec with meas6 := extendMeas m.sec.meas6 raw } }
  let d := syncMembers m (shutUncomposed m d)
  let d := openSlots m (fun x => x.owner < 0x4000) d
  (m, settle m (resumeTasks m (releaseForwards m d)))

/-- MAP_SWITCH (R359, step 2). -/
def execMapSwitch (s : State) : Host.Outcome State Fault Refusal := liftAll (opAct 0x11 (fun _ _ _ => true) switchMap) s

/-- A package that the new map no longer composes is treated as lost at the homes (R145, R146). -/
def dropHolder (m : Mgt) (k : Nat) (d : Dp) : Dp :=
  let lines := (d.coh.trackers.filter fun t => t.snoops.any (·.holder = .pkg k)).map (·.line)
  keepModified m k (purgePackage m k (lines.foldl (fun d l => snoopEnds m l (.pkg k) d) d))

/-- MAP_RETIRE acts: only the epoch stamped is held. -/
def retireMap (_ : Accepted) (m : Mgt) (d : Dp) : Mgt × Dp :=
  let old := (m.comp.maps.filter (·.epoch ≠ m.comp.stamp)).flatMap fun r => (r.routes.filter (·.composed)).map (·.id)
  let m := { m with comp := { m.comp with maps := m.comp.maps.filter (·.epoch = m.comp.stamp), switched := false } }
  (m, settle m ((old.filter fun k => !m.composed k).foldl (fun d k => dropHolder m k d) d))

/-- MAP_RETIRE (R146; R359, step 3). -/
def execMapRetire (s : State) : Host.Outcome State Fault Refusal := liftAll (opAct 0x12 (fun _ _ _ => true) retireMap) s

/-! ### Partitions (R404, R405) -/

/-- The slots of a partition. -/
def partSlots (m : Mgt) (p : Nat) : List SlotEntry := ((m.image.map (·.slots)).getD []).filter (·.partition = p)

/-- PART_ATTACH acts: the partition is in service, and its slots whose owners are bound open (R404). -/
def attachPart (a : Accepted) (m : Mgt) (d : Dp) : Mgt × Dp :=
  let p := fieldAt a.body 0 63 58
  let m := { m with parts := setKey m.parts p 1 }
  (m, openSlots m (fun e => e.partition = p) d)

/-- PART_ATTACH (R404). -/
def execPartAttach (s : State) : Host.Outcome State Fault Refusal := liftAll (opAct 0x18 (fun _ _ _ => true) attachPart) s

/-- PART_DETACH acts: slots close, tasks end, translations go, and only requests received before are served (R405). -/
def detachPart (a : Accepted) (m : Mgt) (d : Dp) : Mgt × Dp :=
  let p := fieldAt a.body 0 63 58
  let early := (d.fab.inbox.map (·.2)).filter (·.partition = p)
  let m := { m with parts := setKey m.parts p 2 }
  let d := (partSlots m p).foldl (fun d e => shutSlot m e.number 0x01 d) d
  let d := { d with fab := { d.fab with early := d.fab.early ++ early } }
  let d := dropTranslations m 1 (fun w => w.partition = p) (dropTranslations m 0 (fun w => w.partition = p) d)
  (m, settle m d)

/-- PART_DETACH (R405). -/
def execPartDetach (s : State) : Host.Outcome State Fault Refusal := liftAll (opAct 0x19 (fun _ _ _ => true) detachPart) s

/-- Have all accesses of a partition been answered, its translations removed and its views closed (R405)? -/
def drained (m : Mgt) (d : Dp) (p : Nat) : Bool :=
  let ports := m.windows.filter fun w => w.outbound && w.partition = p
  !d.tasks.tasks.any (·.part = p)
  && !d.coh.txns.any (fun t => t.msg.partition = p && !t.dead)
  && !d.coh.waiting.any (·.2.partition = p)
  && !d.coh.trackers.any (fun t => t.req.partition = p && t.cause ≠ 2 && t.cause ≠ 3)
  && !d.fab.early.any (fun q => q.partition = p && d.fab.inbox.any (·.2 = q))
  && !d.hosts.invals.any (fun v => ports.any fun w => w.port = v.port && overlap w.hostBase (w.lengthGib * 2 ^ 30) v.base v.bytes)
  && !d.hosts.hostReads.any (·.part = p)
  && !d.snaps.regions.any (fun s => (m.region s.region).any (·.partition = p) && !s.views.isEmpty)

/-- DETACH_DRAIN_END (R405): once nothing of the partition is left, it is DETACHED and its slots are UNBOUND. -/
def execDetachDrainEnd (partition : Fin 64) (s : State) : Host.Outcome State Fault Refusal :=
  liftAll (fun m d =>
    let p := partition.val
    if m.attach p ≠ 2 || !drained m d p then (m, d)
    else
      let mine := (partSlots m p).map (·.number)
      ({ m with parts := setKey m.parts p 0 },
        { d with
          tasks := { d.tasks with slots := modWhere d.tasks.slots (fun x => decide (x.number ∈ mine)) fun x => { x with state := .unbound } }
          fab := { d.fab with early := d.fab.early.filter (·.partition ≠ p) } })) s

/-! ### The free store (R27, R392, R420) -/

/-- Frames of the pool that no region covers, as first and count. -/
def gaps (top : Nat) : Nat → List (Nat × Nat) → List (Nat × Nat)
  | at_, [] => if at_ < top then [(at_, top - at_)] else []
  | at_, (s, n) :: rest =>
    let here := if at_ < min s top then [(at_, min s top - at_)] else []
    here ++ gaps top (max at_ (s + n)) rest

/-- The frames that the tags of sealed regions take: 8 KiB for each frame (R420). -/
def tagFrames (m : Mgt) : Nat := ceilDiv ((m.regions.filter fun r => r.sealed && r.id ∉ m.far.absent).map (·.length / 65536)).sum 8

/-- The free store less its first `n` frames. -/
def dropFrames (n : Nat) : List (Nat × Nat) → List (Nat × Nat)
  | [] => []
  | (s, k) :: rest => if n ≥ k then dropFrames (n - k) rest else (s + n, k - n) :: rest

/-- The free store at start: what no region covers, less the frames that tags take and the reserve kept for guard copies (R392, R420). -/
def freeExtents (m : Mgt) : List (Nat × Nat) :=
  let rs := sortBy (fun a b => decide (a.1 < b.1)) ((m.regions.filter fun r => r.kind ≠ 3 && r.length > 0).map fun r => (r.base / 65536, r.length / 65536))
  dropFrames (tagFrames m + m.pkg.guardReserveGib * 16384) (gaps (m.poolBytes / 65536) 0 rs)

/-- The version record of a SNAPSHOT region at start: version 1 is its head (R78). -/
def freshSnap (region : Nat) : SnapRegion := ⟨region, 1, [⟨1, .head, []⟩], []⟩

/-! ### Engaging a spare (R399 to R401, R423, R472) -/

/-- ENGAGE acts: the spare begins to fetch the lost package's image and metadata. -/
def beginEngage (a : Accepted) (m : Mgt) (d : Dp) : Mgt × Dp :=
  ({ m with comp := { m.comp with engaged := some (fieldAt a.body 0 49 36, fieldAt a.body 0 35 22, 0), engageReady := false, lostImage := none } }, d)

/-- ENGAGE (R399). -/
def execEngage (s : State) : Host.Outcome State Fault Refusal := liftAll (opAct 0x20 (fun _ _ _ => true) beginEngage) s

/-- Is a fetched copy an image of the lost package that passes every check, with the spare's own keys (R472)? -/
def spareCopyOk (m : Mgt) (lost : Nat) (b : Bytes) : Bool :=
  (imageCause m.nvm.fuses m.nvm.chip.bytes b).isNone
  && (m.image.map (·.keysRaw)) = some (readImage false b).keysRaw && (readImage false b).pkg.packageId = lost

/-- What a spare restores of a SNAPSHOT region: its HEAD and RETAINED versions, with no draft and no view (R400). -/
def restoredSnap (lost : Nat) (r : Region) : SnapRegion :=
  let vs := Config.survivingVersions lost r.id
  match vs.getLast? with
  | none => freshSnap r.id
  | some h => regrade r.retain ⟨r.id, h.1, vs.map fun v => ⟨v.1, if v.1 = h.1 then .head else .retained, v.2⟩, []⟩

/-- Take frames out of the free store. -/
def claimFrames (first n : Nat) (free : List (Nat × Nat)) : List (Nat × Nat) :=
  free.flatMap fun x =>
    [(x.1, min (x.1 + x.2) first - x.1), (max x.1 (first + n), x.1 + x.2 - max x.1 (first + n))].filter (·.2 ≠ 0)

/-- One page of a restored session (R400). -/
def restorePage (m : Mgt) (r : Region) (p : Nat × Nat × Nat × Nat × Nat × Option Bytes) (d : Dp) : Dp :=
  let f := p.2.2.2.2.1
  let d := { d with store := { d.store with free := claimFrames f r.kvFrames d.store.free, restored := d.store.restored ++ [(f, r.kvFrames)] } }
  match takeSummary m r d with
  | none => d
  | some (at_, d) =>
    let n := d.snaps.nextPage
    let d := modSession r.id p.1 (fun s => { s with pages := s.pages ++ [(p.2.1, p.2.2.1, n)] }) d
    { d with snaps := { d.snaps with
      nextPage := n + 1, pages := d.snaps.pages ++ [⟨n, r.id, p.1, p.2.1, p.2.2.1, p.2.2.2.1, f, p.2.2.2.2.2, at_, 1⟩] } }

/-- What a spare restores of a KV region: committed sessions, all ACTIVE, and their pages (R400). -/
def restoreSessions (m : Mgt) (lost : Nat) (r : Region) (d : Dp) : Dp :=
  let ss : List KvSession := (Config.survivingSessions lost r.id).map fun s => ⟨r.id, s.1, .active, s.2.1, s.2.2, none, [], [], none, none⟩
  (Config.survivingPages lost r.id).foldl (fun d p => restorePage m r p d) { d with snaps := { d.snaps with sessions := d.snaps.sessions ++ ss } }

/-- The lost package's objects are restored: guarded regions that are not sealed stand as their guards give them, every other region is lost (R399, R400, R423). -/
def restorePool (m : Mgt) (lost : Nat) (d : Dp) : Dp :=
  let kept := m.regions.filter fun r => r.guard ≠ 0 && !r.sealed
  let gone := (m.regions.filter fun r => r.guard = 0 || r.sealed).map (·.id)
  let snaps := (m.regions.filter (·.kind = 2)).map fun r => if r.guard ≠ 0 && !r.sealed then restoredSnap lost r else freshSnap r.id
  let moved := (snaps.flatMap (·.versions)).flatMap fun v => v.map.map (·.2)
  let own := (kept.filter (·.kind ≠ 3)).map fun r => (r.base / 65536, r.length / 65536)
  let d := { d with
    store := { Store.reset with
      free := moved.foldl (fun l f => claimFrames f 1 l) (freeExtents m)
      restored := own ++ moved.map fun f => (f, 1)
      lostRegions := gone, failed := d.store.failed, recalFails := d.store.recalFails, badRows := d.store.badRows, heatTick := d.store.heatTick }
    snaps := { Snaps.reset with regions := snaps } }
  (kept.filter (·.kind = 3)).foldl (fun d r => restoreSessions m lost r d) d

/-- SPARE_READY (R399, R400, R423, R472): the copy fetched is checked; where it passes, the spare logs READY and takes the lost package's place. -/
def execSpareReady (copy : Bytes) (s : State) : Host.Outcome State Fault Refusal :=
  liftAll (fun m d => match m.comp.engaged with
    | none => (m, d)
    | some (lost, _, _) =>
      if m.comp.engageReady then (m, d)
      else if !spareCopyOk m lost copy then ({ m with comp := { m.comp with engaged := none } }, d)
      else
        let i := readImage false copy
        let m := { m with
          comp := { m.comp with engageReady := true, rebuilding := true, lostImage := some i }
          parts := i.parts.foldl (fun l p => setKey l p.id (if p.attached then 1 else 0)) m.parts }
        (m, settle m (restorePool m lost (logEvent m 1 9 8 none lost 0 0 [lost, 1] d)))) s

/-- SPARE_REBUILD_DONE (R401): every frame is rebuilt, and the spare logs DONE. -/
def execSpareRebuildDone (s : State) : Host.Outcome State Fault Refusal :=
  liftAll (fun m d => match m.comp.engaged with
    | some (lost, _, _) =>
      if m.comp.engageReady && m.comp.rebuilding then
        ({ m with comp := { m.comp with rebuilding := false } }, logEvent m 1 9 8 none lost 0 0 [lost, 2] d)
      else (m, d)
    | none => (m, d)) s

/-! ### Rebuilding a guard (R406) -/

/-- RESYNC acts: guard writes flow to the holders that the map in force names, whose copies are rebuilt. -/
def beginResync (_ : Accepted) (m : Mgt) (d : Dp) : Mgt × Dp := ({ m with comp := { m.comp with resyncing := true } }, d)

/-- RESYNC (R406). -/
def execResync (s : State) : Host.Outcome State Fault Refusal := liftAll (opAct 0x21 (fun _ _ _ => true) beginResync) s

/-- RESYNC_DONE (R406): no guard is DEGRADED any more. -/
def execResyncDone (s : State) : Host.Outcome State Fault Refusal :=
  liftAll (fun m d =>
    if m.comp.resyncing then
      ({ m with comp := { m.comp with resyncing := false } }, { d with fab := { d.fab with whist := { d.fab.whist with degraded := [] } } })
    else (m, d)) s

end Sys2Proof.Machine
end

