-- ==== Sys2Proof/Machine/Security.lean ====
section
/-! DEFINITION. Debug levels and power states by message, observation by message, deals and image writes, and the MCTP endpoints with SPDM (R375 to R377, R416 to R418, R427 to R436, R440, R446, R447, R477). -/

namespace Sys2Proof.Machine

/-! ### Debug levels (R427 to R429) -/

/-- DEBUG_SET acts: between Sealed and Observe at once; towards Open every new access to a sealed region is refused from now on (R428, R429). -/
def setDebug (a : Accepted) (m : Mgt) (d : Dp) : Mgt × Dp :=
  let n := fieldAt a.body 0 63 62
  if n = m.sec.level.code || m.sec.level = .opened || m.sec.opening then (m, d)
  else if n = 2 then
    let m := { m with sec := { m.sec with opening := true, sealedLost := true } }
    (m, settle m d)
  else
    let l : Level := if n = 0 then .sealed else .observe
    ({ m with sec := { m.sec with level := l, highest := if m.sec.highest = .sealed then l else m.sec.highest } }, d)

/-- DEBUG_SET (R428, R429). -/
def execDebugSet (s : State) : Host.Outcome State Fault Refusal := liftAll (opAct 0x30 (fun _ _ _ => true) setDebug) s

/-- OPEN_AES_DRAIN_END (R417, R429, steps 2 to 5; R438): every key is zeroed, measurement 4 and HOP.STS_DEBUG show Open, and observation enters TEST. -/
def execOpenAesDrainEnd (s : State) : Host.Outcome State Fault Refusal :=
  liftAll (fun m d =>
    if m.sec.opening then
      ({ m with sec := { m.sec with keys := [], level := .opened, highest := .opened, opening := false } }, { d with obs := { d.obs with mode := 2 } })
    else (m, d)) s

/-! ### Power states (R432 to R435) -/

/-- POWER_RETAIN acts: lines held outside are recalled, and modified lines of other packages are written back (R434). -/
def beginRetain (_ : Accepted) (m : Mgt) (d : Dp) : Mgt × Dp :=
  let m := { m with sec := { m.sec with retaining := true } }
  let outside := d.coh.dir.filter fun e => e.hosts ≠ 0 || e.coarse || !e.ptrs.isEmpty
  let d := recallAll m outside d
  let dirty := d.coh.remote.filter fun x => !x.writeback && x.state = 3
  let kept := d.coh.remote.filterMap fun x => if x.writeback then some x else if x.state = 3 then some { x with writeback := true } else none
  let d := { d with coh := { d.coh with remote := kept } }
  (m, settle m (dirty.foldl (fun d x => issue m .daras (m.newMsg 0x08 (x.line / 2 ^ 44) 0 0 (x.line * 64) 0 []) d) d))

/-- POWER_RETAIN (R434). -/
def execPowerRetain (s : State) : Host.Outcome State Fault Refusal := liftAll (opAct 0x31 (fun _ _ _ => true) beginRetain) s

/-- A Daras port in electrical idle: its traffic is withdrawn, and it waits for POWER_RUN (R432, R435). -/
def idlePort (m : Mgt) (p : Nat) (d : Dp) : Dp := if (d.darPort p).state = .disabled then d else goDown m p d

/-- RETAIN_ENTERED (R432, R434): with nothing held outside and nothing left to write back, the links go idle and the package reports Retain. -/
def execRetainEntered (s : State) : Host.Outcome State Fault Refusal :=
  liftAll (fun m d =>
    if !m.sec.retaining || d.coh.trackers.any (·.cause = 3) || d.coh.remote.any (·.state = 3) then (m, d)
    else
      let d := (List.range 8).foldl (fun d p => idlePort m p d) d
      let d := [0, 1].foldl (fun d p => if (d.hostPort p).mode = 0 then d else linkGone p (resetFunction m p d)) d
      ({ m with sec := { m.sec with retaining := false, power := .retain } }, d)) s

/-- POWER_RUN acts: the memories leave self-refresh (R435). -/
def beginRun (_ : Accepted) (m : Mgt) (d : Dp) : Mgt × Dp := ({ m with sec := { m.sec with waking := true } }, d)

/-- POWER_RUN (R435). -/
def execPowerRun (s : State) : Host.Outcome State Fault Refusal := liftAll (opAct 0x32 (fun _ _ _ => true) beginRun) s

/-- RUN_REPORTED (R435): Daras ports go to DETECT, every host lease starts as NONE, and the package reports Run. -/
def execRunReported (s : State) : Host.Outcome State Fault Refusal :=
  liftAll (fun m d =>
    if !m.sec.waking then (m, d)
    else
      let d := { d with
        fab := { d.fab with ports := d.fab.ports.map fun x => if x.state = .disabled then x else { x with state := .detect, since := m.clk.ltb } }
        hosts := { d.hosts with leases := d.hosts.leases.map fun l => { l with state := 0 } }
        tasks := { d.tasks with idleSince := m.clk.ltb } }
      ({ m with sec := { m.sec with power := .run, waking := false } }, d)) s

/-- IDLE_DELAY_EXPIRY (R432): no context and no unit has been held for PWR.IDLE_DELAY. -/
def execIdleDelayExpiry (s : State) : Host.Outcome State Fault Refusal :=
  liftAll (fun m d =>
    if m.running && m.sec.power = .run && d.tasks.ctxs.isEmpty && !d.tasks.tasks.any (·.unitHeld)
        && m.clk.ltb ≥ d.tasks.idleSince + m.timers.idleDelayUs * 100 then
      ({ m with sec := { m.sec with power := .idle } }, d)
    else (m, d)) s

/-! ### Observation by message (R440, R446, R447) -/

/-- The group of a counter address (R439, R443). -/
def counterGroup (addr : Nat) : Nat :=
  if addr < 0x030000 then 0 else if addr < 0x050000 then 1 else if addr < 0x060000 then 2 else if addr < 0x070000 then 3 else 4

/-- OBS_SET acts, selector by selector from the lowest (R446). -/
def setObs (a : Accepted) (m : Mgt) (d : Dp) : Mgt × Dp :=
  let w := wordAt a.body 0
  let o := d.obs
  let o := if bitAt w 56 then { o with enable := bits w 55 50 } else o
  let o := if bitAt w 57 then { o with counters := o.counters.filter fun c => !bitAt (bits w 49 44) (counterGroup c.1) } else o
  let o := if bitAt w 58 then { o with mode := bits w 43 42 } else o
  let d := { d with obs := o }
  (m, if bitAt w 59 then { d with fab := { d.fab with sampleTicks := bits w 19 0, sampleAt := m.clk.ltb } } else d)

/-- OBS_SET (R446): it acts in the tick after its acceptance. -/
def execObsSet (s : State) : Host.Outcome State Fault Refusal := liftAll (opAct 0x40 (fun m _ a => m.clk.ltb > a.tick) setObs) s

/-- OBS_WATCH acts: an entry is replaced whole, and its records are counted from 0 (R447, R451). -/
def setWatch (a : Accepted) (m : Mgt) (d : Dp) : Mgt × Dp :=
  let w := readWatch a.body
  (m, { d with
    obs := { d.obs with watch := d.obs.watch.filter (·.number ≠ w.number) ++ [w] }
    tasks := { d.tasks with watchSeq := (w.number, watchGen d w.number + 1, 0) :: d.tasks.watchSeq } })

/-- OBS_WATCH (R447). -/
def execObsWatch (s : State) : Host.Outcome State Fault Refusal := liftAll (opAct 0x41 (fun _ _ _ => true) setWatch) s

/-! ### Deals (R377, R496) -/

/-- DEAL_SET acts: the points named hold the new deal until its tick; in forerunner mode it takes no effect (R377, R496). -/
def setDeal (a : Accepted) (m : Mgt) (d : Dp) : Mgt × Dp :=
  if m.forerunner then (m, d)
  else
    let l := readDeal (dealBody a.body)
    (m, { d with fab := { d.fab with points := (dealPoints a.body).foldl (fun ps p => modAt ps p fun x => { x with takeover := some (wordAt a.body 1, l) }) d.fab.points } })

/-- DEAL_SET (R377). -/
def execDealSet (s : State) : Host.Outcome State Fault Refusal := liftAll (opAct 0x50 (fun _ _ _ => true) setDeal) s

/-! ### Image writes (R477, R517) -/

/-- IMAGE_WRITE begins: its sector is erased, and its pages are programmed after it. -/
def beginImageWrite (a : Accepted) (m : Mgt) (d : Dp) : Mgt × Dp :=
  let body := opBody a.body
  let o := copyOffset (bitAt (wordAt body 0) 63) + fieldAt body 0 31 0
  let m := { opTake m a.body with nvm := { m.nvm with writeAsker := some (a.asker, 5) } }
  (nvQueue .imageWrite (.erase o :: pagesOf o (slice body 16 (fieldAt body 1 63 32))) m, d)

/-- IMAGE_WRITE (R477): it begins once no other non-volatile write is under way and no sag forbids it. -/
def execImageWrite (s : State) : Host.Outcome State Fault Refusal :=
  liftAll (opAct 0x60 (fun m _ _ => m.nvm.ops.isEmpty && m.mayWrite) beginImageWrite) s

/-- A sag finds an IMAGE_WRITE that has not begun: it is refused (R517). -/
def refuseImageWrite (m : Mgt) (d : Dp) : Mgt × Dp :=
  match m.comp.accepted with
  | some a =>
    if a.code = 0x60 then
      let m := { m with comp := { m.comp with accepted := none } }
      opPump (m, opRefuse m a.asker a.body 0x62 d)
    else (m, d)
  | none => (m, d)

/-! ### SPDM (R409, R413, R416, R417) -/

/-- The certificate chain as bytes. -/
def chainBytes (m : Mgt) : Bytes := m.nvm.fuses.chain.flatMap fun c => c.body ++ c.key ++ c.signature

/-- A measurement (R413, Table 2). -/
def measurement (m : Mgt) : Nat → Bytes
  | 1 => m.sec.meas1
  | 2 => m.sec.meas2
  | 3 => m.sec.meas3
  | 4 => [BitVec.ofNat 8 m.sec.level.code, BitVec.ofNat 8 m.sec.highest.code]
  | 5 => m.sec.meas5
  | _ => m.sec.meas6

/-- The six measurements, one after another. -/
def measurements (m : Mgt) : Bytes := [1, 2, 3, 4, 5, 6].flatMap (measurement m)

/-- A signed response: what the security block assembles, and its signature by the identity key (R417). -/
def signedBody (m : Mgt) (nonce content : Bytes) : Bytes :=
  let b := nonce ++ content
  b ++ edSign m.nvm.fuses.identitySecret b

/-- An SPDM response on an endpoint. -/
def spdmOut (e code : Nat) (data : Bytes) (d : Dp) : Dp := emit (.mctp e (0x0500 + code) data) d

/-- An SPDM ERROR. -/
def spdmError (e code : Nat) (d : Dp) : Dp := spdmOut e 0x7F [BitVec.ofNat 8 code] d

/-- An SPDM connection. -/
def Mgt.endpoint (m : Mgt) (e : Nat) : Endpoint := m.sec.endpoints.getD e Endpoint.reset

/-- Change an SPDM connection. -/
def modEndpoint (e : Nat) (f : Endpoint → Endpoint) (m : Mgt) : Mgt := { m with sec := { m.sec with endpoints := modAt m.sec.endpoints e f } }

/-- GET_VERSION begins the connection anew. -/
def spdmVersion (e : Nat) (m : Mgt) (d : Dp) : Mgt × Dp :=
  (modEndpoint e (fun x => { x with version := true, capabilities := false, algorithms := false, v13 := false }) m,
    spdmOut e 0x04 (Config.standardBody 16 0) d)

/-- GET_CAPABILITIES after GET_VERSION. -/
def spdmCapabilities (e : Nat) (v13 : Bool) (m : Mgt) (d : Dp) : Mgt × Dp :=
  if !(m.endpoint e).version then (m, spdmError e 0x04 d)
  else (modEndpoint e (fun x => { x with capabilities := true, algorithms := false, v13 := v13 }) m, spdmOut e 0x61 (Config.standardBody 17 (if v13 then 1 else 0)) d)

/-- NEGOTIATE_ALGORITHMS after GET_CAPABILITIES. -/
def spdmAlgorithms (e : Nat) (m : Mgt) (d : Dp) : Mgt × Dp :=
  if !(m.endpoint e).capabilities then (m, spdmError e 0x04 d)
  else (modEndpoint e (fun x => { x with algorithms := true }) m, spdmOut e 0x63 (Config.standardBody 18 (if (m.endpoint e).v13 then 1 else 0)) d)

/-- GET_DIGESTS: the digest of slot 0's chain. -/
def spdmDigests (e : Nat) (m : Mgt) (d : Dp) : Mgt × Dp :=
  (m, if !(m.endpoint e).algorithms then spdmError e 0x04 d else spdmOut e 0x01 (sha512 (chainBytes m)) d)

/-- GET_CERTIFICATE: a portion of slot 0's chain. -/
def spdmCertificate (e slot offset length : Nat) (m : Mgt) (d : Dp) : Mgt × Dp :=
  (m, if !(m.endpoint e).algorithms then spdmError e 0x04 d
    else if slot ≠ 0 || offset ≥ (chainBytes m).length then spdmError e 0x01 d
    else spdmOut e 0x02 (slice (chainBytes m) offset length) d)

/-- CHALLENGE: signed over the chain's digest, the measurements and the nonce. -/
def spdmChallenge (e slot : Nat) (nonce : Bytes) (m : Mgt) (d : Dp) : Mgt × Dp :=
  (m, if !(m.endpoint e).algorithms then spdmError e 0x04 d
    else if slot ≠ 0 || nonce.length ≠ 32 then spdmError e 0x01 d
    else spdmOut e 0x03 (signedBody m nonce (sha512 (chainBytes m) ++ sha512 (measurements m))) d)

/-- GET_MEASUREMENTS: the count for index 0, one measurement for 1 to 6, all of them for 0xFF. -/
def spdmMeasurements (e index : Nat) (signed : Bool) (nonce : Bytes) (m : Mgt) (d : Dp) : Mgt × Dp :=
  let content : Option Bytes :=
    if index = 0 then some [6] else if index ≤ 6 then some (measurement m index) else if index = 0xFF then some (measurements m) else none
  (m, if !(m.endpoint e).algorithms then spdmError e 0x04 d
    else match content with
      | none => spdmError e 0x01 d
      | some c => if signed && nonce.length ≠ 32 then spdmError e 0x01 d else spdmOut e 0x60 (if signed then signedBody m nonce c else c) d)

/-! ### The endpoints' rows -/

/-- A host endpoint's port, none for I3C (R326). -/
def endpointPort (e : Nat) : Option Nat := if e = 2 then none else some e

/-- What an MCTP row does once its endpoint takes it. -/
def mctpServe (m : Mgt) (d : Dp) : Instr → Mgt × Dp
  | .size e => (m, emit (.mctp e.val 0x7E01 (sizeBytes m)) d)
  | .status e => (m, emit (.mctp e.val 0x7E02 (statusBytes m d (endpointPort e.val) 0 32)) d)
  | .mctpOpMessage e b => mctpMessage e.val b m d
  | .mctpUnsupportedCommand e code => (m, if 1 ≤ code && code ≤ 3 then d else emit (.mctp e.val (0x7E00 + code % 256) [0x05]) d)
  | .getVersion e => spdmVersion e.val m d
  | .getCapabilities e v => spdmCapabilities e.val v m d
  | .negotiateAlgorithms e => spdmAlgorithms e.val m d
  | .getDigests e => spdmDigests e.val m d
  | .getCertificate e slot offset length => spdmCertificate e.val slot offset length m d
  | .challenge e slot nonce => spdmChallenge e.val slot nonce m d
  | .getMeasurements e index signed nonce => spdmMeasurements e.val index signed nonce m d
  | .spdmUnsupportedRequest e code => (m, if code ∈ [0x84, 0xE1, 0xE3, 0x81, 0x82, 0x83, 0xE0] then d else spdmError e.val 0x07 d)
  | .eidAssignment e eid => (modEndpoint e.val (fun x => { x with eid := some eid }) m, d)
  | _ => (m, d)

/-- A request on an endpoint: taken where the endpoint serves; on I3C it waits while VDD_1V8 sags (R516). -/
def mctpRow (e : Nat) (i : Instr) (s : State) : Host.Outcome State Fault Refusal :=
  liftAll (fun m d =>
    if !mctpServes m d e then (m, d)
    else if e = 2 && m.pwr.sagVdd then ({ m with sec := { m.sec with i3cHeld := m.sec.i3cHeld ++ [i] } }, d)
    else mctpServe m d i) s

/-- SIZE (R418). -/
def execSize (e : Fin 3) (s : State) : Host.Outcome State Fault Refusal := mctpRow e.val (.size e) s

/-- STATUS (R326, R418). -/
def execStatus (e : Fin 3) (s : State) : Host.Outcome State Fault Refusal := mctpRow e.val (.status e) s

/-- MCTP OP_MESSAGE (R418, R474). -/
def execMctpOpMessage (e : Fin 3) (b : Bytes) (s : State) : Host.Outcome State Fault Refusal := mctpRow e.val (.mctpOpMessage e b) s

/-- Any other Wontilor command code (R418). -/
def execMctpUnsupportedCommand (e : Fin 3) (code : Nat) (s : State) : Host.Outcome State Fault Refusal := mctpRow e.val (.mctpUnsupportedCommand e code) s

/-- GET_VERSION (R416). -/
def execGetVersion (e : Fin 3) (s : State) : Host.Outcome State Fault Refusal := mctpRow e.val (.getVersion e) s

/-- GET_CAPABILITIES (R416). -/
def execGetCapabilities (e : Fin 3) (v13 : Bool) (s : State) : Host.Outcome State Fault Refusal := mctpRow e.val (.getCapabilities e v13) s

/-- NEGOTIATE_ALGORITHMS (R416). -/
def execNegotiateAlgorithms (e : Fin 3) (s : State) : Host.Outcome State Fault Refusal := mctpRow e.val (.negotiateAlgorithms e) s

/-- GET_DIGESTS (R416). -/
def execGetDigests (e : Fin 3) (s : State) : Host.Outcome State Fault Refusal := mctpRow e.val (.getDigests e) s

/-- GET_CERTIFICATE (R416). -/
def execGetCertificate (e : Fin 3) (slot offset length : Nat) (s : State) : Host.Outcome State Fault Refusal := mctpRow e.val (.getCertificate e slot offset length) s

/-- CHALLENGE (R416, R417). -/
def execChallenge (e : Fin 3) (slot : Nat) (nonce : Bytes) (s : State) : Host.Outcome State Fault Refusal := mctpRow e.val (.challenge e slot nonce) s

/-- GET_MEASUREMENTS (R413, R416, R417). -/
def execGetMeasurements (e : Fin 3) (index : Nat) (signed : Bool) (nonce : Bytes) (s : State) : Host.Outcome State Fault Refusal :=
  mctpRow e.val (.getMeasurements e index signed nonce) s

/-- Any other SPDM request (R416, Table 3). -/
def execSpdmUnsupportedRequest (e : Fin 3) (code : Nat) (s : State) : Host.Outcome State Fault Refusal := mctpRow e.val (.spdmUnsupportedRequest e code) s

/-- EID_ASSIGNMENT (R416). -/
def execEidAssignment (e : Fin 3) (eid : BitVec 8) (s : State) : Host.Outcome State Fault Refusal := mctpRow e.val (.eidAssignment e eid) s

end Sys2Proof.Machine
end

