-- ==== Sys2Proof/Machine/Debug.lean ====
section
/-! DEFINITION. The debug port: its registers, its spaces and its commands (R411, R430, R431, R436, R440 to R442, R454, R458, R530 to R532). -/

namespace Sys2Proof.Machine

/-! ### Spaces and what each level permits (R431, Table 8; R436, Table 12) -/

/-- Does the level, with the power state, permit a command (1 READ, 2 WRITE, 3 PATIENCE) of a space at an address? -/
def permits (m : Mgt) (space cmd addr : Nat) : Bool :=
  match m.sec.level with
  | .sealed => space = 0 && cmd = 1 && (addr < 0x20 || (0x200 ≤ addr && addr < 0x280))
  | .observe => (space ≤ 5 && cmd = 1) || (space = 3 && cmd = 3)
  | .opened =>
    if m.sec.power = .retain && (space = 6 || space = 7) then false
    else if space ≤ 1 then cmd = 1
    else if space = 3 then cmd = 1 || cmd = 3
    else if space = 8 then cmd ≠ 3 && !Config.secretFuse addr
    else space ≤ 7 && cmd ≠ 3

/-! ### The directory (R125, R530, R531) -/

/-- W0 of an entry (R125, Table 2). -/
def dirWord0 (e : DirEntry) : Nat :=
  e.line * 2 ^ 20 + (if e.owned then 2 else 1) * 2 ^ 16 + e.clusters.toNat * 2 ^ 8 + e.hosts.toNat * 2 ^ 6
  + (if e.coarse then 1 else 0) * 2 ^ 4 + (if e.coarse then 0 else e.ptrs.length) * 2

/-- W1 of an entry: its groups, or its pointers, and in the places of absent ones what was last written there. -/
def dirWord1 (e : DirEntry) (raw : Nat) : Nat :=
  if e.coarse then e.groups.toNat
  else ((List.range 4).map fun i => (match e.ptrs[i]? with | some k => k | none => bits raw (63 - 14 * i) (50 - 14 * i)) * 2 ^ (50 - 14 * i)).sum

/-- The entry in a slot. -/
def slotEntryAt (d : Dp) (slot : Nat) : Option DirEntry := d.coh.dir.find? fun e => dirSlot e = slot

/-- The word of space 0x04 at an address. -/
def dirWord (d : Dp) (addr : Nat) : Nat :=
  let raw := ((assoc d.coh.raw addr).getD 0).toNat
  match slotEntryAt d (addr / 16 * 16) with
  | some e => if addr % 16 = 0 then dirWord0 e else dirWord1 e raw
  | none => raw

/-- Faults of the entry that W0 would form with the present W1 (R531). -/
def dirFault (w0 : Nat) : Bool :=
  let state := bits w0 19 16
  let coarse : Bool := bits w0 5 4 = 1
  let here := popBits 8 (bits w0 15 8) + popBits 2 (bits w0 7 6)
  let count := bits w0 3 1
  state > 2 || bits w0 5 4 > 1 || count > 4
  || (state = 2 && !(!coarse && ((here = 1 && count = 0) || (here = 0 && count = 1))))

/-- The entry that two words form in a slot; none where it is EMPTY or its line has another slot. -/
def dirEntryOf (stamp slot w0 w1 : Nat) : Option DirEntry :=
  let coarse : Bool := bits w0 5 4 = 1
  let e : DirEntry := {
    line := bits w0 63 20, way := slot / 16 % 8, owned := bits w0 19 16 = 2
    clusters := BitVec.ofNat 8 (bits w0 15 8), hosts := BitVec.ofNat 2 (bits w0 7 6), coarse := coarse
    ptrs := if coarse then [] else (List.range (bits w0 3 1)).map fun i => bits w1 (63 - 14 * i) (50 - 14 * i)
    groups := if coarse then BitVec.ofNat 64 w1 else 0
    stamp := stamp }
  if bits w0 19 16 = 0 || dirSlot e ≠ slot then none else some e

/-- A WRITE of a directory word takes effect as written, its reserved bits discarded (R7, R531); answers whether it was refused. -/
def dirWrite (addr v : Nat) (d : Dp) : Dp × Bool :=
  let slot := addr / 16 * 16
  let w0 := if addr % 16 = 0 then v / 2 * 2 else dirWord d slot
  let w1 := if addr % 16 = 0 then dirWord d (slot + 8) else if bits w0 5 4 = 1 then v else v / 256 * 256
  if addr % 16 = 0 && dirFault w0 then (d, true)
  else
    let raw := setKey (setKey d.coh.raw slot (BitVec.ofNat 64 w0)) (slot + 8) (BitVec.ofNat 64 w1)
    let rest := d.coh.dir.filter fun e => dirSlot e ≠ slot
    let stamp := ((slotEntryAt d slot).map (·.stamp)).getD d.coh.stamp
    ({ d with coh := { d.coh with raw := raw, dir := (dirEntryOf stamp slot w0 w1).toList ++ rest } }, false)

/-! ### KV page table entries (R91, R530) -/

/-- The page that a selection and an address name. -/
def selectedPage (m : Mgt) (d : Dp) (select addr : Nat) : Option KvPage :=
  match m.region (bits select 35 24) with
  | none => none
  | some r =>
    let s := bits select 23 8
    let layer := bits select 7 0
    if r.kind ≠ 3 || s ≥ r.kvSessions || layer ≥ r.kvLayers then none
    else match d.session r.id s with
      | none => none
      | some x => if x.state = .free then none
        else ((x.pages.find? fun p => p.1 = layer && p.2.1 = addr / 32).map (·.2.2)).bind d.page

/-- A word of a page table entry (R91, Table 6). -/
def pageWord (m : Mgt) (p : KvPage) : Nat → Nat
  | 0 => p.session * 2 ^ 48 + p.layer * 2 ^ 40 + p.tokens * 2 ^ 32 + p.index
  | 1 => m.homeId * 2 ^ 50 + p.data * 65536
  | 2 => m.homeId * 2 ^ 50 + p.summaryAt
  | _ => p.share * 2 ^ 32

/-- A page table entry with a word written. -/
def pageWrite (v : Nat) (p : KvPage) : Nat → KvPage
  | 0 => { p with session := bits v 63 48, layer := bits v 47 40, tokens := bits v 39 32, index := bits v 31 0 }
  | 1 => { p with data := v % 2 ^ 50 / 65536 }
  | 2 => { p with summaryAt := v % 2 ^ 50 / 64 * 64 }
  | _ => { p with share := bits v 63 32 }

/-! ### Pool memory (R532) -/

/-- The store's place of a pool address, where it is mapped. -/
def poolPlace (m : Mgt) (d : Dp) (addr : Nat) : Option Nat :=
  if !m.serves (addr / 2 ^ 50) then none
  else match placeOffset m d (addr % 2 ^ 50) with
    | .store r _ a => if r ∈ m.far.absent then none else some a
    | .guard => some (addr % 2 ^ 50)
    | .outside => if addr % 2 ^ 50 < m.poolBytes then some (addr % 2 ^ 50) else none
    | _ => none

/-- The 8-byte word at a place of the store, as stored. -/
def rawWord (d : Dp) (a : Nat) : Nat := wordAt (rawLine d a) (a % 64 / 8)

/-- A word of the store written as it is: the frame is no longer fresh, and poison stays. -/
def rawWrite (m : Mgt) (a v : Nat) (d : Dp) : Dp :=
  let r := frameRec m d (a / 65536)
  let d := if r.fresh && a < 2 ^ 47 then setFrame { r with fresh := false } d else d
  markDirty a (setRaw a (setWord (rawLine d a) (a % 64 / 8) v) d)

/-! ### Fuses (R411, R431) -/

/-- A fuse word as it reads. -/
def fuseAt (m : Mgt) (addr : Nat) : BitVec 64 :=
  match Config.ownerHashWord addr with
  | some i => BitVec.ofNat 64 (wordAt (m.nvm.fuses.ownerHash.getD (zeros 64)) i.val)
  | none => Config.fuseWord addr ||| (assoc m.nvm.extra addr).getD 0

/-- The bits that a WRITE burns: those asked for that are still blank; a word of SEC.OWNER_HASH once burnt is never changed. -/
def fuseBurns (m : Mgt) (addr : Nat) (v : BitVec 64) : List Nat :=
  let now := fuseAt m addr
  if (Config.ownerHashWord addr).isSome && now ≠ 0 then [] else setBits 64 (v &&& ~~~now).toNat

/-! ### Commands -/

/-- Is a command running: a fuse burn, or the copy of a snapshot (R430, R457)? -/
def dbgBusy (m : Mgt) (d : Dp) : Bool := m.sec.dbg.busy || d.obs.shadows.isSome

/-- Change the debug port. -/
def modDbg (f : DbgPort → DbgPort) (m : Mgt) : Mgt := { m with sec := { m.sec with dbg := f m.sec.dbg } }

/-- A command ends, with or without an error. -/
def dbgEnd (error : Bool) (m : Mgt) : Mgt := modDbg (fun p => { p with done := true, error := p.error || error }) m

/-- A command is refused: DENIED and DONE, and at most one log entry a millisecond (R430, R431). -/
def dbgDeny (cmd : Nat) (m : Mgt) (d : Dp) : Mgt × Dp :=
  let log : Bool := match m.sec.dbg.refusedAt with | some t => decide (m.clk.ltb ≥ t + 100000) | none => true
  let n := modDbg (fun p => { p with done := true, denied := true, refusedAt := if log then some m.clk.ltb else p.refusedAt }) m
  (n, if log then logEvent m 1 0xD 2 none 0 0 0 [m.sec.dbg.space, cmd] d else d)

/-- What a READ of a space finds at an address: its word, and none where the address is unmapped or the line poisoned. -/
def spaceRead (m : Mgt) (d : Dp) (space addr : Nat) : Option (BitVec 64) :=
  match space with
  | 0 => if addr < 0x10000 then some (word64 (statusWord m d none addr)) else none
  | 1 => if addr < 64 * 4096 then some (word64 (wordAt (logShown d (addr / 64) 4096) (addr % 64 / 8))) else none
  | 2 => some (word64 (counterWord d addr))
  | 3 => if addr < 2 ^ 21 then some (d.obs.patience.getD (addr / 8) 0) else none
  | 4 => if addr < 2 ^ 29 then some (word64 (dirWord d addr)) else none
  | 5 => (selectedPage m d m.sec.dbg.select addr).map fun p => word64 (pageWord m p (addr % 32 / 8))
  | 6 => (poolPlace m d addr).bind fun a => if a / 64 ∈ d.store.poison then none else some (word64 (rawWord d a))
  | 7 => some (Config.storeWord addr d.tasks.draws)
  | _ => some (fuseAt m addr)

/-- A READ (R431). -/
def dbgReadCmd (m : Mgt) (d : Dp) : Mgt × Dp :=
  let space := m.sec.dbg.space
  let addr := m.sec.dbg.addr.toNat / 8 * 8
  if dbgBusy m d then (m, d)
  else if !permits m space 1 addr then dbgDeny 1 m d
  else
    let m := match spaceRead m d space addr with
      | some v => dbgEnd false (modDbg (fun p => { p with data := v }) m)
      | none => dbgEnd true m
    (m, if space = 7 then { d with tasks := { d.tasks with draws := d.tasks.draws + 1 } } else d)

/-- A WRITE (R431, R440, R531, R532). -/
def dbgWriteCmd (m : Mgt) (d : Dp) : Mgt × Dp :=
  let space := m.sec.dbg.space
  let addr := m.sec.dbg.addr.toNat / 8 * 8
  let v := m.sec.dbg.data.toNat
  if dbgBusy m d then (m, d)
  else if !permits m space 2 addr then dbgDeny 2 m d
  else match space with
    | 2 => (dbgEnd false m, if counterWritable addr then { d with obs := { d.obs with counters := setKey d.obs.counters addr v } } else d)
    | 4 => if addr < 2 ^ 29 then (dbgEnd (dirWrite addr v d).2 m, (dirWrite addr v d).1) else (dbgEnd true m, d)
    | 5 => match selectedPage m d m.sec.dbg.select addr with
      | some p => (dbgEnd false m, modPage p.id (fun p => pageWrite v p (addr % 32 / 8)) d)
      | none => (dbgEnd true m, d)
    | 6 => match poolPlace m d addr with
      | some a => (dbgEnd (decide (a / 64 ∈ d.store.poison)) m, rawWrite m a v d)
      | none => (dbgEnd true m, d)
    | 8 =>
      let bs := fuseBurns m addr m.sec.dbg.data
      if bs.isEmpty then (dbgEnd false m, d)
      else (nvQueue .debug (bs.map fun b => .burnFuse addr b) (modDbg (fun p => { p with busy := true }) m), d)
    | _ => (dbgEnd false m, d)

/-- A PATIENCE command (R457, R458): a snapshot is captured; its copy ends later. -/
def dbgPatienceCmd (m : Mgt) (d : Dp) : Mgt × Dp :=
  if dbgBusy m d then (m, d)
  else if !permits m m.sec.dbg.space 3 0 then dbgDeny 3 m d
  else (m, takePatience m 1 d)

/-- A command encoding that Table 7 does not list (R430). -/
def dbgUnlisted (code : Nat) (m : Mgt) (d : Dp) : Mgt × Dp := if dbgBusy m d then (m, d) else dbgDeny code m d

/-- Clear the flags whose bits are one (R430, R442). -/
def dbgClear (v : BitVec 64) (m : Mgt) : Mgt :=
  modDbg (fun p => { p with done := p.done && !v.getLsbD 63, denied := p.denied && !v.getLsbD 62, error := p.error && !v.getLsbD 61 }) m

/-- A word of the debug port as it reads (R430, Table 7). -/
def dbgWord (m : Mgt) (d : Dp) (index : Nat) : BitVec 64 :=
  let p := m.sec.dbg
  match index with
  | 0 => word64 (0x1F3D * 2 ^ 48 + 0x0960 * 2 ^ 32 + 0x01 * 2 ^ 24 + m.self * 2 ^ 10)
  | 1 => word64 (m.sec.level.code * 2 ^ 62 + m.sec.power.code * 2 ^ 60 + (if m.sec.highest = .opened then 2 ^ 59 else 0)
      + (if m.sec.keys.isEmpty then 0 else 2 ^ 58))
  | 2 => word64 (p.space * 2 ^ 56 + p.select * 2 ^ 20)
  | 3 => p.addr
  | 4 => p.data
  | 6 => word64 (p.done.toNat * 2 ^ 63 + p.denied.toNat * 2 ^ 62 + p.error.toNat * 2 ^ 61 + (dbgBusy m d).toNat * 2 ^ 60)
  | _ => 0

/-- A write of a word of the debug port (R7, R430): reserved bits are discarded, read-only words are unchanged. -/
def dbgPut (index : Nat) (v : BitVec 64) (m : Mgt) (d : Dp) : Mgt × Dp :=
  let n := v.toNat
  match index with
  | 2 => (modDbg (fun p => { p with space := bits n 63 56, select := bits n 55 20 }) m, d)
  | 3 => (modDbg (fun p => { p with addr := v }) m, d)
  | 4 => (modDbg (fun p => { p with data := v }) m, d)
  | 5 =>
    let c := bits n 63 56
    if c = 1 then dbgReadCmd m d else if c = 2 then dbgWriteCmd m d else if c = 3 then dbgPatienceCmd m d else dbgUnlisted c m d
  | 6 => (dbgClear v m, d)
  | _ => (m, d)

/-! ### Rows -/

/-- Is the debug port selected: DBG_ACCESS in the instruction register, outside reset and the halt (R491, R519)? -/
def dbgSelected (m : Mgt) : Bool := m.tap.ir = 0x08 && m.clk.phase ≠ .halted && m.clk.phase ≠ .inReset && m.clk.phase ≠ .off

/-- DBG_READ (R431). -/
def execDbgRead (s : State) : Host.Outcome State Fault Refusal := liftAll (fun m d => if dbgSelected m then dbgReadCmd m d else (m, d)) s

/-- DBG_WRITE (R431). -/
def execDbgWrite (s : State) : Host.Outcome State Fault Refusal := liftAll (fun m d => if dbgSelected m then dbgWriteCmd m d else (m, d)) s

/-- DBG_PATIENCE (R458). -/
def execDbgPatience (s : State) : Host.Outcome State Fault Refusal := liftAll (fun m d => if dbgSelected m then dbgPatienceCmd m d else (m, d)) s

/-- DBG_CMD_UNLISTED (R430): a code that Table 7 does not list. -/
def execDbgCmdUnlisted (code : Fin 256) (s : State) : Host.Outcome State Fault Refusal :=
  liftAll (fun m d => if dbgSelected m && !(1 ≤ code.val && code.val ≤ 3) then dbgUnlisted code.val m d else (m, d)) s

/-- DBG_FLAG_CLEAR (R430, R442). -/
def execDbgFlagClear (ones : BitVec 64) (s : State) : Host.Outcome State Fault Refusal :=
  liftAll (fun m d => if dbgSelected m then (dbgClear ones m, d) else (m, d)) s

/-- PATIENCE_COPY_DONE (R457): the shadows stand in the snapshot, and DONE is set. -/
def execPatienceCopyDone (s : State) : Host.Outcome State Fault Refusal :=
  liftAll (fun m d => match d.obs.shadows with
    | some ws => (dbgEnd false m, { d with obs := { d.obs with patience := ws, shadows := none } })
    | none => (m, d)) s

end Sys2Proof.Machine
end

