-- ==== Sys2Proof/Machine/Train.lean ====
section
/-! DEFINITION. Far-tier training: which DIMMs train, at what rate, and the reports of it (R30 to R32, R527, R528). -/

namespace Sys2Proof.Machine

/-- The DIMMs of a list that stand in slots of the package, the first for each slot. -/
def seated (l : List Dimm) : List Dimm :=
  (List.range 32).filterMap fun i => l.find? fun x => x.channel = i / 2 && x.slot = i % 2

/-- Why a DIMM is left untrained before a rate is chosen, coded as TIE.TR_SLOT0 (R30, R31). -/
def dimmFault (mrdimm : Bool) (all : List Dimm) (x : Dimm) : Option Nat :=
  if x.mr ≠ mrdimm then some 2
  else if !x.ecc then some 3
  else if !x.organised || !within (if mrdimm then 32 else 16) x.gib 256 then some 4
  else if x.slot = 1 && all.any (fun y => y.channel = x.channel && y.slot = 0 && y.part ≠ x.part) then some 6
  else none

/-- The rates among which one is chosen (R30, R32): of the kind, within the cap, and fit for two DIMMs on a channel where some channel holds two. -/
def candidateRates (mrdimm : Bool) (cap : Nat) (left : List Dimm) : List Nat :=
  let two := left.any fun x => left.any fun y => x.channel = y.channel && x.slot ≠ y.slot
  (kindRates mrdimm).filter fun r => r ≤ cap && (!two || r ≤ if mrdimm then 8000 else 5600)

/-- The rate that most of the DIMMs support, the higher among equals (R32). -/
def chooseRate (rates : List Nat) (left : List Dimm) : Nat :=
  let votes := fun (r : Nat) => (left.filter (r ∈ ·.rates)).length
  rates.foldl (fun best r => if best = 0 || votes r > votes best || (votes r = votes best && r > best) then r else best) 0

/-- What training ends with: the rate, and the code of every seated DIMM, 1 where it trained. -/
structure Trained where
  rate : Nat
  codes : List (Dimm × Nat)
  deriving DecidableEq, Repr

/-- Training of the far tier for a DIMM kind and a cap (R31, R32). -/
def trainFar (mrdimm : Bool) (cap : Nat) (dimms : List Dimm) : Trained :=
  let all := seated dimms
  let left := all.filter fun x => (dimmFault mrdimm all x).isNone
  let rate := chooseRate (candidateRates mrdimm cap left) left
  let code := fun (x : Dimm) => match dimmFault mrdimm all x with
    | some c => c
    | none => if rate ∉ x.rates then 7 else if x.trains then 1 else 5
  ⟨rate, all.map fun x => (x, code x)⟩

/-- The DIMMs that trained. -/
def Trained.good (t : Trained) : List Dimm := (t.codes.filter (·.2 = 1)).map (·.1)

/-- The report of a channel (R527, Table 3), with the addresses its last test run failed. -/
def channelReport (t : Trained) (c fails : Nat) : BitVec 64 :=
  let here := t.good.filter (·.channel = c)
  let slot := fun (s : Nat) => ((t.codes.find? fun x => x.1.channel = c && x.1.slot = s).map (·.2)).getD 0
  let narrow := fun (i : Nat) => if here.isEmpty then 0 else (here.map fun x => bits x.eyes.toNat (23 - 8 * i) (16 - 8 * i)).foldl min 255
  word64 ((if here.isEmpty then 0 else t.rate) * 2 ^ 48 + slot 0 * 2 ^ 44 + slot 1 * 2 ^ 40
    + narrow 0 * 2 ^ 32 + narrow 1 * 2 ^ 24 + narrow 2 * 2 ^ 16 + min fails 65535)

/-- The report of a stack (R527): its state, rows repaired and failing addresses. -/
def stackReport (state repaired fails : Nat) : BitVec 64 := word64 (state * 2 ^ 56 + repaired % 65536 * 2 ^ 40 + min fails 65535)

/-- The far-tier fields after training (R19, R32). -/
def Trained.far (t : Trained) (absent : List Nat) : Far :=
  ⟨(t.good.map (·.gib)).sum, if t.good.isEmpty then 0 else t.rate, t.good, false, absent⟩

end Sys2Proof.Machine
end

