-- ==== Sys2Proof/Machine/Test.lean ====
section
/-! DEFINITION. The test access port: its instructions, boundary scan, lane test, the HBM4 wrappers and memory built-in test (R7, R8, R427, R442, R519 to R528). -/

namespace Sys2Proof.Machine

/-! ### Instructions (R427, R519) -/

/-- Does the package's present state admit a TAP instruction (R491, R519, Table 1)? -/
def admits (m : Mgt) (code : Nat) : Bool :=
  let up : Bool := m.clk.phase ≠ .inReset && m.clk.phase ≠ .off && m.clk.phase ≠ .halted
  if code = 0x01 || code = 0xFF then true
  else if code = 0x08 then up
  else if code = 0x02 || code = 0x10 || code = 0x11 || code = 0x12 then up && m.sec.level = .opened
  else if code = 0x03 || code = 0x04 || code = 0x05 then m.clk.phase = .held
  else false

/-- Does the error log run (R485, R491)? -/
def logRuns (m : Mgt) : Bool := m.clk.phase ≠ .inReset && m.clk.phase ≠ .off && m.clk.phase ≠ .halted

/-- A refusal at the test access port is logged at most once per millisecond (R519, R528). -/
def tapLog (code : Nat) (m : Mgt) (d : Dp) : Mgt × Dp :=
  let log : Bool := logRuns m && match m.tap.refusedAt with | some t => decide (m.clk.ltb ≥ t + 100000) | none => true
  if log then ({ m with tap := { m.tap with refusedAt := some m.clk.ltb } }, logEvent m 1 0xD 2 none 0 0 0 [0, code] d) else (m, d)

/-- An instruction is loaded; one that is not admitted acts as BYPASS and is logged. -/
def loadIr (code : Nat) (m : Mgt) (d : Dp) : Mgt × Dp :=
  if admits m code then ({ m with tap := { m.tap with ir := BitVec.ofNat 8 code } }, d)
  else tapLog code { m with tap := { m.tap with ir := 0xFF } } d

/-- An instruction is loaded and, where it is admitted, something follows. -/
def withIr (code : Nat) (f : Mgt → Dp → Mgt × Dp) (m : Mgt) (d : Dp) : Mgt × Dp :=
  let x := loadIr code m d
  if admits m code then f x.1 x.2 else x

/-- The word of the last read is kept for the Capture-DRs that follow (R520). -/
def setCapture (v : BitVec 64) (m : Mgt) : Mgt := { m with tap := { m.tap with capture := v } }

/-- What the next Capture-DR loads: the IDCODE value, zero under BYPASS, or the word of the last read (R519, R520; BYPASS by IEEE 1149.1, PRESUMED). -/
def captureDr (m : Mgt) : BitVec 64 :=
  if m.tap.ir = 0x01 then 0x10960A7B else if m.tap.ir = 0xFF then 0 else m.tap.capture

/-- IDCODE (R519): the value 0x1096_0A7B. -/
def execIdcode (s : State) : Host.Outcome State Fault Refusal :=
  liftAll (loadIr 0x01) s

/-- BYPASS (R519): its own code, or one that is unlisted or not admitted. -/
def execBypass (code : BitVec 8) (s : State) : Host.Outcome State Fault Refusal :=
  liftAll (fun m d => if code = 0xFF || !admits m code.toNat then loadIr code.toNat m d else (m, d)) s

/-- TEST_LOGIC_RESET (R519). -/
def execTestLogicReset (s : State) : Host.Outcome State Fault Refusal :=
  liftAll (fun m d => ({ m with tap := { m.tap with ir := 0x01 } }, d)) s

/-- DBG_ACCESS (R520), with one read where a word is named. -/
def execDbgAccess (read : Option (Fin 32768)) (s : State) : Host.Outcome State Fault Refusal :=
  liftAll (withIr 0x08 fun m d => match read with
    | some i => (setCapture (dbgWord m d i.val) m, d)
    | none => (m, d)) s

/-! ### Boundary scan (R519, R525) -/

/-- The boundary register captures the balls and takes new cells. -/
def scanCells (cells : List Bool) (m : Mgt) (d : Dp) : Mgt × Dp :=
  ({ m with tap := { m.tap with cells := cells } },
    emit (.scan (Config.boundaryCells d.tasks.draws)) { d with tasks := { d.tasks with draws := d.tasks.draws + 1 } })

/-- SAMPLE_PRELOAD (R519). -/
def execSamplePreload (cells : List Bool) (s : State) : Host.Outcome State Fault Refusal := liftAll (withIr 0x02 (scanCells cells)) s

/-- EXTEST (R525): the cells drive the balls; THERMTRIP_N is never driven low by them. -/
def execExtest (cells : List Bool) (s : State) : Host.Outcome State Fault Refusal := liftAll (withIr 0x03 (scanCells cells)) s

/-- EXTEST_PULSE (R525). -/
def execExtestPulse (cells : List Bool) (s : State) : Host.Outcome State Fault Refusal := liftAll (withIr 0x04 (scanCells cells)) s

/-- EXTEST_TRAIN (R525). -/
def execExtestTrain (cells : List Bool) (s : State) : Host.Outcome State Fault Refusal := liftAll (withIr 0x05 (scanCells cells)) s

/-! ### Lane test (R521 to R524) -/

/-- The test words of a lane at start (R521, Table 2). -/
def LaneTest.reset (n : Nat) : LaneTest where
  lane := n
  loop := 0
  pattern := 0
  txEn := false
  rxEn := false
  injecting := false
  injectBits := 1
  injectPeriod := 0
  rate := 0
  lost := false
  lock := false
  user := 0
  errors := 0
  bits := 0

/-- The test words of a lane. -/
def Mgt.lane (m : Mgt) (n : Nat) : LaneTest := (m.tap.lanes.find? (·.lane = n)).getD (LaneTest.reset n)

/-- Replace the test words of a lane. -/
def setLane (l : LaneTest) (m : Mgt) : Mgt := { m with tap := { m.tap with lanes := l :: m.tap.lanes.filter (·.lane ≠ l.lane) } }

/-- A saturating sum. -/
def satAdd (a : BitVec 64) (n : Nat) : BitVec 64 := BitVec.ofNat 64 (min (a.toNat + n) (2 ^ 64 - 1))

/-- What a locked checker has counted since it was last looked at. -/
def counted (n : Nat) (l : LaneTest) : LaneTest :=
  if l.lock then { l with errors := satAdd l.errors (Config.laneErrors n), bits := satAdd l.bits (Config.laneBits n) } else l

/-- One look at a lane's counts. -/
def look (d : Dp) : Dp := { d with tasks := { d.tasks with draws := d.tasks.draws + 1 } }

/-- A word of the LINK_TEST space as it reads. -/
def laneWord (l : LaneTest) : Nat → BitVec 64
  | 0 => word64 (l.loop * 2 ^ 60 + l.pattern * 2 ^ 56 + l.txEn.toNat * 2 ^ 55 + l.rxEn.toNat * 2 ^ 54 + l.injectBits * 2 ^ 48
      + l.injectPeriod * 2 ^ 32 + l.rate * 2 ^ 24 + l.lost.toNat * 2 + l.lock.toNat)
  | 1 => l.user
  | 2 => l.errors
  | _ => l.bits

/-- A lane's W0 written (R7, R8, R521, R524): an encoding that is not listed leaves its field as it was. -/
def laneWrite (w : Nat) (l : LaneTest) : LaneTest :=
  let host : Bool := l.lane ≥ 72
  let loop := bits w 63 60
  let pattern := bits w 59 56
  let rate := bits w 31 24
  let rates := if host then [0x00, 0x02, 0x05, 0x08, 0x10, 0x20, 0x40] else [0x00, 0x01]
  let rx := bitAt w 54
  let fresh : Bool := rx && !l.rxEn
  let inject := bitAt w 53
  let period := bits w 47 32
  let own : Nat := if inject && l.lock && rx && l.loop = 1 then bits w 52 48 else 0
  { l with
    loop := if loop ≤ 2 then loop else l.loop
    pattern := if pattern ≤ 6 && !(host && pattern = 4) then pattern else l.pattern
    txEn := bitAt w 55
    rxEn := rx
    injecting := (inject || l.injecting) && period ≠ 0
    injectBits := if bits w 52 48 = 0 then l.injectBits else bits w 52 48
    injectPeriod := period
    rate := if rate ∈ rates then rate else l.rate
    lost := l.lost && !bitAt w 1
    lock := l.lock && rx
    errors := if fresh then 0 else satAdd l.errors own
    bits := if fresh then 0 else l.bits }

/-- A lane's port leaves service while the lane is under test (R522). -/
def leaveService (m : Mgt) (n : Nat) (d : Dp) : Dp :=
  if !(m.lane n).underTest then d
  else if n < 72 then
    let p := n / 9
    let st := (d.darPort p).state
    if st.carries then settle m (goDown m p d)
    else if st = .train || st = .align then modDar p (fun x => { x with state := .detect, since := m.clk.ltb }) d
    else d
  else
    let p := (n - 72) / 8
    if (d.hostPort p).mode = 0 then d else linkGone p (resetFunction m p d)

/-- A word of the LINK_TEST space written. -/
def linkPut (i : Nat) (v : BitVec 64) (m : Mgt) (d : Dp) : Mgt × Dp :=
  if i ≥ 352 then (m, d)
  else
    let n := i / 4
    let l := counted d.tasks.draws (m.lane n)
    let d := look d
    if i % 4 = 0 then
      let m := setLane (laneWrite v.toNat l) m
      (m, leaveService m n d)
    else if i % 4 = 1 then (setLane { l with user := v } m, d)
    else (m, d)

/-- A word of the LINK_TEST space read (R520, R521). -/
def linkGet (i : Nat) (m : Mgt) (d : Dp) : Mgt × Dp :=
  if i ≥ 352 then (setCapture 0 m, d)
  else
    let l := counted d.tasks.draws (m.lane (i / 4))
    (setCapture (laneWord l (i % 4)) (setLane l m), look d)

/-- LINK_TEST (R521), with one read where a word is named. -/
def execLinkTest (read : Option (Fin 32768)) (s : State) : Host.Outcome State Fault Refusal :=
  liftAll (withIr 0x10 fun m d => match read with
    | some i => linkGet i.val m d
    | none => (m, d)) s

/-- Is a test space selected by an instruction that the state still admits? -/
def selected (m : Mgt) (code : Nat) : Bool := m.tap.ir.toNat = code && admits m code

/-- LANE_TEST_WRITE (R521, R522). -/
def execLaneTestWrite (index : Fin 32768) (data : BitVec 64) (s : State) : Host.Outcome State Fault Refusal :=
  liftAll (fun m d => if selected m 0x10 then linkPut index.val data m d else (m, d)) s

/-- LT_INJECT (R524): once, or every so many UI while the period is not zero; a generator in NEAR injects into its own checker. -/
def execLtInject (lane : Fin 88) (s : State) : Host.Outcome State Fault Refusal :=
  liftAll (fun m d =>
    if !selected m 0x10 then (m, d)
    else
      let l := counted d.tasks.draws (m.lane lane.val)
      let own : Nat := if l.lock && l.loop = 1 then l.injectBits else 0
      (setLane { l with injecting := l.injectPeriod ≠ 0, errors := satAdd l.errors own } m, look d)) s

/-- CHECKER_LOCK (R523). -/
def execCheckerLock (lane : Fin 88) (s : State) : Host.Outcome State Fault Refusal :=
  liftAll (fun m d =>
    let l := m.lane lane.val
    if l.rxEn && !l.lock then (setLane { l with lock := true } m, d) else (m, d)) s

/-- CHECKER_LOST_LOCK (R523). -/
def execCheckerLostLock (lane : Fin 88) (s : State) : Host.Outcome State Fault Refusal :=
  liftAll (fun m d =>
    let l := m.lane lane.val
    if l.lock then (setLane { counted d.tasks.draws l with lock := false, lost := true } m, look d) else (m, d)) s

/-! ### HBM4 wrappers (R526) -/

/-- An access to a wrapper word: the first one to a stack of a RUNNING package fails the stack. -/
def wrapperAccess (index : Nat) (m : Mgt) (d : Dp) : Dp := if m.running then settle m (failDevice m false (index / 16) d) else d

/-- HBM_1500 (R526), with one access where one is named. -/
def execHbm1500 (access : Option (Bool × Fin 128 × BitVec 64)) (s : State) : Host.Outcome State Fault Refusal :=
  liftAll (withIr 0x11 fun m d => match access with
    | some (true, i, _) => (m, wrapperAccess i.val m d)
    | some (false, i, _) => (setCapture (Config.wrapperWord i.val d.tasks.draws) m, look (wrapperAccess i.val m d))
    | none => (m, d)) s

/-! ### Memory built-in test (R527, R528) -/

/-- A word of the MBIST space as it reads. -/
def mbistWord (m : Mgt) (i : Nat) : BitVec 64 :=
  if i = 0 then word64 m.tap.mbistMask
  else if i = 1 then word64 (m.tap.mbistBusy.toNat * 2 ^ 63 + m.tap.mbistDone.toNat * 2 ^ 62)
  else if 32 ≤ i && i < 48 then m.tap.channels.getD (i - 32) 0
  else if 48 ≤ i && i < 56 then m.tap.stackWords.getD (i - 48) 0
  else 0

/-- MBIST (R527), with one read where a word is named. -/
def execMbist (read : Option (Fin 32768)) (s : State) : Host.Outcome State Fault Refusal :=
  liftAll (withIr 0x12 fun m d => match read with
    | some i => (setCapture (mbistWord m i.val) m, d)
    | none => (m, d)) s

/-- The kind that the first populated slot reports, in channel order (R528). -/
def firstKind (dimms : List Dimm) : Bool := ((seated dimms).head?.map (·.mr)).getD false

/-- START in the held state: the stacks are initialised and the channels trained from the DIMMs' own SPD, and the run begins (R528). -/
def mbistBegin (v : Nat) (dimms : List Dimm) (m : Mgt) : Mgt :=
  let mr := firstKind dimms
  let t := trainFar mr ((kindRates mr).foldl max 0) dimms
  { m with
    far := t.far []
    tap := { m.tap with
      mbistBusy := true, mbistMask := v % 2 ^ 24
      channels := (List.range 16).map fun c => channelReport t c 0
      stackWords := List.replicate 8 (stackReport 0x01 0 0) } }

/-- MBIST_START (R528): accepted only in the held state; elsewhere discarded and logged. -/
def execMbistStart (data : BitVec 64) (dimms : List Dimm) (s : State) : Host.Outcome State Fault Refusal :=
  liftAll (fun m d =>
    if m.tap.ir ≠ 0x12 || !data.getLsbD 63 then (m, d)
    else if m.clk.phase ≠ .held then tapLog 0x12 m d
    else if m.tap.mbistBusy then (m, d)
    else (mbistBegin data.toNat dimms m, d)) s

/-- MBIST_DONE (R528): the reports of every target are written, and DONE is set. `fails` counts failed addresses by target bit, `repairs` rows repaired by stack. -/
def execMbistDone (fails repairs : List Nat) (s : State) : Host.Outcome State Fault Refusal :=
  liftAll (fun m d =>
    if !m.tap.mbistBusy then (m, d)
    else
      let on := fun (i : Nat) => bitAt m.tap.mbistMask i
      let f := fun (i : Nat) => fails.getD i 0
      ({ m with tap := { m.tap with
        mbistBusy := false, mbistDone := true
        channels := m.tap.channels.mapIdx fun c x => if on c then word64 (x.toNat / 65536 * 65536 + min (f c) 65535) else x
        stackWords := m.tap.stackWords.mapIdx fun k x => if on (16 + k) then stackReport (if f (16 + k) = 0 then 0x01 else 0x05) (repairs.getD k 0) (f (16 + k)) else x } }, d)) s

/-! ### Flags and plain writes (R7, R442) -/

/-- TEST_FLAG_CLEAR (R442): DAR.LT_LOST, or DONE of the MBIST space. -/
def execTestFlagClear (index : Fin 32768) (data : BitVec 64) (s : State) : Host.Outcome State Fault Refusal :=
  liftAll (fun m d =>
    if selected m 0x10 && index.val < 352 && index.val % 4 = 0 && data.getLsbD 1 then
      (setLane { m.lane (index.val / 4) with lost := false } m, d)
    else if selected m 0x12 && index.val = 1 && data.getLsbD 62 then ({ m with tap := { m.tap with mbistDone := false } }, d)
    else (m, d)) s

/-- REGISTER_WRITE (R7, R520): a write of the 80-bit register to the space that the instruction selects; reserved bits, read-only words and unlisted indices are discarded. -/
def execRegisterWrite (index : Fin 32768) (data : BitVec 64) (s : State) : Host.Outcome State Fault Refusal :=
  liftAll (fun m d =>
    if dbgSelected m then dbgPut index.val data m d
    else if selected m 0x10 then linkPut index.val data m d
    else if selected m 0x11 then (if index.val < 128 then (m, wrapperAccess index.val m d) else (m, d))
    else if selected m 0x12 then
      (if index.val = 0 && !data.getLsbD 63 then { m with tap := { m.tap with mbistMask := data.toNat % 2 ^ 24 } }
        else if index.val = 1 && data.getLsbD 62 then { m with tap := { m.tap with mbistDone := false } } else m, d)
    else (m, d)) s

end Sys2Proof.Machine
end

