-- ==== Sys2Proof/Machine/Start.lean ====
section
/-! DEFINITION. Reset and start: what a reset keeps, the boot ROM's and the firmware's checks, the acceptance of an image, and the state in which work begins (R484 to R499, R409 to R414, R419, R27, R32, R39). -/

namespace Sys2Proof.Machine

/-! ### Reset (R485, R486, R514) -/

/-- A host port after a reset of the package: only the level of its PERST_N ball, which the board drives, stands as it is. -/
def HostPort.afterReset (h : HostPort) : HostPort := { HostPort.reset with perst := h.perst }

/-- The data plane after a reset of the package: nothing of it survives. The numbers by which the model keeps its free values and task identities apart go on. -/
def Dp.afterReset (d : Dp) : Dp :=
  { Dp.reset with
    hosts := { Hosts.reset with ports := d.hosts.ports.map HostPort.afterReset }
    tasks := { Tasks.reset with nextTask := d.tasks.nextTask, draws := d.tasks.draws }
    out := d.out }

/-- The management side after a reset of the package: fuses and flash stay, a burn or a program under way is finished, what the board's supplies show stays, and the straps stand as last sampled (R485, R487). -/
def Mgt.afterReset (m : Mgt) : Mgt :=
  { Mgt.reset with
    nvm := m.nvm.atReset
    clk := { Clk.reset with
      phase := if m.pwr.pwrok then .inReset else .off
      mode48 := m.clk.mode48, bootSel := m.clk.bootSel }
    pwr := { Pwr.reset with
      pwrok := m.pwr.pwrok, thermTrip := m.pwr.thermTrip
      sagVcore := m.pwr.sagVcore, sagVdd := m.pwr.sagVdd, sagPwrok := m.pwr.sagPwrok } }

/-- RESET_N falls: every block except the flash and fuse controllers is reset at once (R485). -/
def resetAll (m : Mgt) (d : Dp) : Mgt × Dp := (m.afterReset, d.afterReset)

/-- RESET_N_FALL (R485). -/
def execResetNFall (s : State) : Host.Outcome State Fault Refusal := liftAll resetAll s

/-- PWROK_FALL (R486, R514, R515): it acts as RESET_N falling, a sag is in force, and THERMTRIP_N is released. -/
def execPwrokFall (s : State) : Host.Outcome State Fault Refusal :=
  liftAll (fun m d => resetAll { m with pwr := { m.pwr with pwrok := false, sagPwrok := true, thermTrip := false } } d) s

/-- BROWN_OUT (R486, R515): it acts as RESET_N falling. -/
def execBrownOut (s : State) : Host.Outcome State Fault Refusal :=
  liftAll resetAll s

/-- THERMAL_TRIP (R514): THERMTRIP_N goes low until PWROK falls, and the package acts as if RESET_N had fallen, but that the local time counter goes on. -/
def execThermalTrip (s : State) : Host.Outcome State Fault Refusal :=
  liftAll (fun m d =>
    let x := resetAll { m with pwr := { m.pwr with thermTrip := true } } d
    ({ x.1 with clk := { x.1.clk with ltb := m.clk.ltb } }, x.2)) s

/-! ### The internal release (R409, R413, R484, R487, R508, R509) -/

/-- The fuses, the flash part and the bytes written to it that the board shows at a release. -/
def Nvm.mount (b : Board) (n : Nvm) : Nvm :=
  { n with
    fuses := b.fuses.getD n.fuses
    extra := if b.fuses.isSome then [] else n.extra
    chip := b.chip.getD n.chip
    flash := (b.flash.getD []).foldl (fun l c => cellSet 0xFF l c.1 c.2) n.flash }

/-- A certificate is signed by a key. -/
def Cert.by_ (c : Cert) (key : Bytes) : Bool := edVerify key (c.body ++ c.key) c.signature

/-- The certificate chain verifies against the digest of the root's key (R409). -/
def chainOk (f : Fuses) : Bool :=
  match f.chain with
  | [root, product, device] =>
    sha512 root.key = f.rootHash && Cert.by_ root root.key && Cert.by_ product root.key && Cert.by_ device product.key
  | _ => false

/-- Measurement 1 (R413, Table 2). -/
def bootMeasurement (m : Mgt) : Bytes :=
  let f := m.nvm.fuses
  sha512 (m.clk.bootRom ++ Config.bootItem f.fwRevoked f.fwCounter f.imageCounter f.ownerHash)

/-- The boot ROM has run its first stage: the chain is verified and register 1 measured. -/
def bootFirst (m : Mgt) : Mgt :=
  let ok := chainOk m.nvm.fuses
  { m with
    clk := { m.clk with phase := if ok then .firmware else .halted }
    sec := { m.sec with meas1 := bootMeasurement m } }

/-- The board of a release that changes none of it: a regulator that answers and gives no limit of its own. -/
def Board.same : Board where
  fuses := none
  chip := none
  flash := none
  bootRom := []
  avsAnswers := true
  vcoreWarnMilliamps := none

/-- What an internal release does (R484, R487, R508, R509): the straps are sampled, LTB starts at 0, a boot nonce is due, and the boot ROM runs. -/
def release (mode48 : Bool) (bootSel : Nat) (b : Board) (m : Mgt) (d : Dp) : Mgt × Dp :=
  let n := Nvm.mount b m.nvm
  let m := { m with
    nvm := { n with starts := n.starts + 1 }
    clk := { Clk.reset with mode48 := mode48, bootSel := bootSel, bootRom := b.bootRom, engDone := !b.avsAnswers }
    pwr := { m.pwr with pwrok := true, avsAnswers := b.avsAnswers, warnMilliamps := b.vcoreWarnMilliamps } }
  let m := bootFirst m
  (m, if b.avsAnswers then d else logEvent m 2 0xF 1 none 0 0 0 [m.clk.engMhz, 6] d)

/-- INTERNAL_RELEASE (R484): out of reset, unless THERMTRIP_N is low. -/
def execInternalRelease (mode48 : Bool) (bootSel : Fin 4) (board : Option Board) (s : State) : Host.Outcome State Fault Refusal :=
  liftAll (fun m d =>
    if (m.clk.phase = .inReset || m.clk.phase = .off) && !m.pwr.thermTrip then release mode48 bootSel.val (board.getD Board.same) m d
    else (m, d)) s

/-! ### Firmware (R488 to R491) -/

/-- The copies tried in order, true for copy B (R488, Table 3). -/
def copyOrder (bootSel : Nat) : List Bool := if bootSel = 1 then [true, false] else if bootSel = 2 then [false] else [false, true]

/-- The bytes of a firmware copy in the flash: as many as its header gives, at most 2 MiB (R489). -/
def firmwareBytes (n : Nvm) (copyB : Bool) : Bytes :=
  let o := if copyB then 0x00200000 else 0
  flashRead n o (min (leNat (flashRead n (o + 8) 4)) 0x200000)

/-- Cause 0x11: the magic, format, length or a reserved bit is wrong (R489, Table 4). -/
def badFirmwareHeader (b : Bytes) : Bool :=
  let n := fieldAt b 1 31 0
  fieldAt b 0 63 32 ≠ 0x52444657 || fieldAt b 0 31 24 ≠ 0x01 || fieldAt b 0 14 0 ≠ 0
  || n % 64 ≠ 0 || n > 0x200000 || n < 192 || b.length ≠ n
  || wordAt b 2 ≠ 0 || wordAt b 3 ≠ 0 || (slice b 64 64).any (· ≠ 0)

/-- The first check of R490 that a firmware copy fails, if any. -/
def firmwareCause (f : Fuses) (b : Bytes) : Option Nat :=
  let hash := sha512 (slice b 32 32)
  let known := (f.fwKeyHash.zip f.fwRevoked).any fun x => x.1 = some hash && !x.2
  if badFirmwareHeader b then some 0x11
  else if !known then some 0x12
  else if !edVerify (slice b 32 32) (b.take (b.length - 64)) (b.drop (b.length - 64)) then some 0x13
  else if fieldAt b 0 23 16 < counterValue f.fwCounter then some 0x14
  else none

/-- A refused copy is logged: 0x00 image A, 0x01 image B, 0x02 firmware A, 0x03 firmware B (R490). -/
def logBadCopy (m : Mgt) (copy cause : Nat) (d : Dp) : Dp := logEvent m 3 0x10 1 none 0 0 0 [copy * 2 ^ 56 + cause] d

/-- The held state (R411, R492): Open, no partition keys, observation mode TEST. -/
def enterHeld (m : Mgt) (d : Dp) : Mgt × Dp :=
  ({ m with
    clk := { m.clk with phase := .held }
    sec := { m.sec with level := .opened, highest := .opened, keys := [] } },
   { d with obs := { d.obs with mode := 2 } })

/-- An accepted firmware copy is measured into register 2 and run; a package without an owner, or strapped BOOT_SEL 11, holds (R411, R488, R490, R492). -/
def runFirmware (b : Bytes) (m : Mgt) (d : Dp) : Mgt × Dp :=
  let m := { m with
    clk := { m.clk with phase := .image, copiesTried := 0, fwSecver := fieldAt b 0 23 16, fwCommit := fieldAt b 0 15 15 = 1 }
    sec := { m.sec with meas2 := sha512 b } }
  if m.clk.bootSel = 3 || m.nvm.fuses.ownerHash.isNone then enterHeld m d else (m, d)

/-- The present firmware copy is tried. -/
def tryFirmware (m : Mgt) (d : Dp) : Mgt × Dp :=
  match (copyOrder m.clk.bootSel)[m.clk.copiesTried]? with
  | none => (m, d)
  | some copyB =>
    let b := firmwareBytes m.nvm copyB
    match (if FlashChip.usable m.nvm.chip then firmwareCause m.nvm.fuses b else some 0x11) with
    | none => runFirmware b m d
    | some cause =>
      let n := m.clk.copiesTried + 1
      ({ m with clk := { m.clk with
          copiesTried := n, phase := if n < (copyOrder m.clk.bootSel).length then .firmware else .halted } },
        logBadCopy m (if copyB then 3 else 2) cause d)

/-- FIRMWARE_COPY_READ (R488 to R491): a copy is accepted and run, or refused and the next one tried; with none left the package halts. While VDD_1V8 sags the SPI clock stands still (R516). -/
def execFirmwareCopyRead (s : State) : Host.Outcome State Fault Refusal :=
  liftAll (fun m d => if m.clk.phase = .firmware && !m.pwr.sagVdd then tryFirmware m d else (m, d)) s

/-! ### The image (R492, R493, R497) -/

/-- The keys of every partition that owns a sealed region (R419). -/
def deriveKeys (m : Mgt) (rs : List Region) : List (Nat × Bytes) :=
  let ps := ((rs.filter (·.sealed)).map (·.partition)).eraseDups
  let salt := natBytes 32 (Config.bootNonce m.nvm.starts).toNat
  ps.map fun p => (p, hkdf96 salt m.nvm.fuses.deviceSecret (ascii "RDX96-SEAL" ++ [BitVec.ofNat 8 p] ++ m.nvm.fuses.ownerHash.getD []))

/-- The AVS set point of the band of 100 MHz in which a clock of ENG lies (R508). -/
def bandSetPoint (f : Fuses) (mhz : Nat) : Nat := f.setPoints.getD ((mhz - 1000) / 100) 750

/-- VCORE is commanded to a set point, and a clock follows once it is reached (R509, R510). -/
def commandVcore (mv : Nat) (then_ : Option Nat) (m : Mgt) (d : Dp) : Mgt × Dp :=
  ({ m with pwr := { m.pwr with setPoint := mv, oldSetPoint := m.pwr.setPoint, commandTick := some m.clk.ltb, pendingMhz := then_ } }, emit (.avs mv) d)

/-- The management side as an accepted image sets it (R413, R419, R428, R469, R493, R497). -/
def takeImage (i : Image) (m : Mgt) : Mgt :=
  let level : Level := if i.pkg.debugStart = 1 then .observe else .sealed
  { m with
    image := some i
    clk := { m.clk with phase := .loading }
    sec := { m.sec with meas3 := sha512 i.raw, keys := deriveKeys m i.regions, level := level, highest := level }
    comp := { m.comp with maps := i.map.toList, stamp := 0 }
    parts := i.parts.map fun p => (p.id, if p.attached then 1 else 0) }

/-- The data plane as an accepted image sets it (R78, R343, R375, R493, R497). -/
def loadImage (i : Image) (m : Mgt) (d : Dp) : Dp :=
  let port := fun (k : Nat) (x : DarPort) => if bitAt i.pkg.darPorts k then { x with state := .detect, since := m.clk.ltb } else x
  let point := fun (k : Nat) (x : Point) =>
    let e := (i.points.getD k default).deal
    { x with deal := if e = 0x1F then none else i.deals[e]?, entry := 0, entryStart := m.clk.ltb }
  { d with
    fab := { d.fab with
      ports := d.fab.ports.mapIdx port, points := d.fab.points.mapIdx point
      sampleTicks := i.timers.sampleTicks, sampleAt := m.clk.ltb }
    tasks := { d.tasks with slots := i.slots.map fun e => ⟨e.number, .unbound, 0, 0⟩ }
    snaps := { d.snaps with regions := (i.regions.filter (·.kind = 2)).map fun r => freshSnap r.id }
    obs := { d.obs with mode := i.pkg.modeStart, enable := i.pkg.obsEnable, watch := i.watch } }

/-- An image is accepted: its tables take force, ports train, and the raising of ENG begins with VCORE (R483, R493). -/
def acceptImage (i : Image) (m : Mgt) (d : Dp) : Mgt × Dp :=
  let m := takeImage i m
  let d := syncMembers m (loadImage i m d)
  let d := { d with hosts := { d.hosts with windowAt := m.clk.ltb } }
  if m.pwr.avsAnswers then commandVcore (bandSetPoint m.nvm.fuses 1000) (some 1000) m d else (m, d)

/-- The present image copy is tried (R492). -/
def tryImage (m : Mgt) (d : Dp) : Mgt × Dp :=
  match (copyOrder m.clk.bootSel)[m.clk.copiesTried]? with
  | none => (m, d)
  | some copyB =>
    let b := copyBytes m.nvm copyB
    match imageCause m.nvm.fuses m.nvm.chip.bytes b with
    | none => acceptImage (readImage copyB b) m d
    | some cause =>
      let n := m.clk.copiesTried + 1
      let d := logBadCopy m (if copyB then 1 else 0) cause d
      let m := { m with clk := { m.clk with copiesTried := n } }
      if n < (copyOrder m.clk.bootSel).length then (m, d) else enterHeld m d

/-- IMAGE_COPY_READ (R492, R493): a copy is accepted, or refused and the next one tried; with none left the package holds. -/
def execImageCopyRead (s : State) : Host.Outcome State Fault Refusal :=
  liftAll (fun m d => if m.clk.phase = .image && !m.pwr.sagVdd then tryImage m d else (m, d)) s

/-! ### The far tier (R27, R31, R32, R39) -/

/-- The regions held absent: those that reach beyond the pool, and FAR_PINNED ones whose half, or whose package, has no trained channel (R27, R39). -/
def absentRegions (m : Mgt) : List Nat :=
  let has := fun (r : Region) => if r.affinity = 1 then halfHasFar m 1 else if r.affinity = 2 then halfHasFar m 0 else halfHasFar m 0 || halfHasFar m 1
  (m.regions.filter fun r => r.base + r.length > m.poolBytes || (r.tier = 2 && !has r)).map (·.id)

/-- FAR_TIER_TRAINED (R27, R31, R32, R39, R527): the far tier's size and rate are known; what stays untrained, and what is absent, is logged. -/
def execFarTierTrained (dimms : List Dimm) (s : State) : Host.Outcome State Fault Refusal :=
  liftAll (fun m d =>
    if m.clk.phase ≠ .loading || m.clk.farDone then (m, d)
    else
      let t := trainFar m.pkg.mrdimm m.pkg.farMtsCap dimms
      let m := { m with
        far := t.far []
        clk := { m.clk with farDone := true }
        tap := { m.tap with
          channels := (List.range 16).map fun c => channelReport t c 0
          stackWords := List.replicate 8 (stackReport 0x01 0 0) } }
      let absent := absentRegions m
      let d := (t.codes.filter (·.2 ≠ 1)).foldl (fun d x => logEvent m 1 7 2 none 0 0 0 [x.1.channel, x.1.slot, x.2] d) d
      let d := absent.foldl (fun d r => logEvent m 3 7 1 none 0 0 0 [r] d) d
      ({ m with far := { m.far with absent := absent } }, d)) s

/-! ### The state in which work begins (R20, R414, R493, R497) -/

/-- START_COMPLETE (R20, R414, R493, R497, R499): HBM, far tier and ENG have ended, and the package is RUNNING. -/
def execStartComplete (s : State) : Host.Outcome State Fault Refusal :=
  liftAll (fun m d =>
    if m.clk.phase ≠ .loading || !m.clk.farDone || !m.clk.engDone then (m, d)
    else
      let m := raiseCounters { m with clk := { m.clk with phase := .running }, far := { m.far with final := true } }
      let d := { d with
        store := { d.store with free := freeExtents m, heatTick := m.clk.ltb }
        tasks := { d.tasks with idleSince := m.clk.ltb } }
      (m, openSlots m (fun e => e.owner < 0x4000) d)) s

end Sys2Proof.Machine
end

