-- ==== Sys2Proof/Machine/Power.lean ====
section
/-! DEFINITION. ENG and VCORE, the power control of every 10 µs, the regulators, supply sags, and the tick of local time (R482, R483, R508 to R517, and what happens at a tick whatever is commanded). -/

namespace Sys2Proof.Machine

/-! ### ENG and VCORE (R483, R508 to R510) -/

/-- ENG moves to a clock; at 1.9 GHz the raise of a start ends (R483). -/
def setEng (mhz : Nat) (m : Mgt) : Mgt :=
  { m with clk := { m.clk with engMhz := mhz, engLast := m.clk.ltb, engDone := m.clk.engDone || mhz ≥ 1900 } }

/-- ENG is raised by one step: across a band boundary VCORE is commanded first, and the clock follows (R509). -/
def raiseEng (m : Mgt) (d : Dp) : Mgt × Dp :=
  let f := m.clk.engMhz + 25
  if (f - 1000) / 100 ≠ (m.clk.engMhz - 1000) / 100 then commandVcore (bandSetPoint m.nvm.fuses f) (some f) m d else (setEng f m, d)

/-- ENG is lowered by one step, and VCORE is commanded after it where the band's set point is another (R509). A raise that still waited for its voltage is given up. -/
def lowerEng (m : Mgt) (d : Dp) : Mgt × Dp :=
  let f := m.clk.engMhz - 25
  let m := setEng f { m with pwr := { m.pwr with pendingMhz := none } }
  if bandSetPoint m.nvm.fuses f ≠ m.pwr.setPoint then commandVcore (bandSetPoint m.nvm.fuses f) none m d else (m, d)

/-- May ENG change at this tick: a step every 10 µs at most, and none while one waits for its voltage (R483)? -/
def engFree (m : Mgt) : Bool := m.pwr.pendingMhz.isNone && m.clk.ltb ≥ m.clk.engLast + 1000

/-- ENG_CLOCK_STEP (R483): the raising of a start, to 1.9 GHz. -/
def execEngClockStep (s : State) : Host.Outcome State Fault Refusal :=
  liftAll (fun m d => if m.clk.phase = .loading && !m.clk.engDone && engFree m then raiseEng m d else (m, d)) s

/-- AVS_VOLTAGE_REACHED (R509, R510): the clock that waited is set. From 50 µs after the command on it is the expiry of that time, and the thresholds wait for the report. -/
def execAvsVoltageReached (s : State) : Host.Outcome State Fault Refusal :=
  liftAll (fun m d => match m.pwr.commandTick with
    | none => (m, d)
    | some t =>
      let reported : Bool := m.pwr.pendingMhz.isNone || m.clk.ltb < t + 5000
      let m' := match m.pwr.pendingMhz with | some f => setEng f m | none => m
      ({ m' with pwr := { m'.pwr with pendingMhz := none, commandTick := if reported then none else some t } }, d)) s

/-- SET_POINT_SETTLE_EXPIRY (R510): 100 µs after a command with no report. -/
def execSetPointSettleExpiry (s : State) : Host.Outcome State Fault Refusal :=
  liftAll (fun m d => match m.pwr.commandTick with
    | some t => if m.clk.ltb ≥ t + 10000 then ({ m with pwr := { m.pwr with commandTick := none } }, d) else (m, d)
    | none => (m, d)) s

/-- The set point that the sag and brown-out thresholds use, in mV (R510). -/
def Pwr.thresholdPoint (p : Pwr) : Nat := if p.commandTick.isSome then min p.oldSetPoint p.setPoint else p.setPoint

/-! ### Regulators (R506, R511) -/

/-- What a regulator that does not answer counts as: its nominal voltage and its rail's continuous current, in mV and mA, in the order of Table 6 (R506, Table 4; R511). -/
def nominalRails (p : Pwr) : List (Nat × Nat) :=
  [(p.setPoint, 1400000), (1050, 200000), (750, 100000), (1800, 20000), (1100, 50000), (750, 120000), (1200, 25000), (1800, 8000)]

/-- PMBUS_POLL_ROUND (R511, R516): one round of READ_VOUT and READ_IOUT; it pauses while VDD_1V8 sags. -/
def execPmbusPollRound (readings : List (Option (Nat × Nat))) (s : State) : Host.Outcome State Fault Refusal :=
  liftAll (fun m d =>
    if m.clk.phase = .inReset || m.clk.phase = .off || m.clk.phase = .halted || m.pwr.sagVdd then (m, d)
    else ({ m with pwr := { m.pwr with rails := (nominalRails m.pwr).mapIdx fun i x => (readings.getD i none).getD x } }, d)) s

/-- PMBUS_ALERT (R511, R516): STATUS_WORD is read from every regulator, in a sag too. -/
def execPmbusAlert (words : List (Option (BitVec 16))) (s : State) : Host.Outcome State Fault Refusal :=
  liftAll (fun m d =>
    if m.clk.phase = .inReset || m.clk.phase = .off || m.clk.phase = .halted then (m, d)
    else ({ m with pwr := { m.pwr with words := m.pwr.words.mapIdx fun i x => (words.getD i none).getD x } }, d)) s

/-! ### Power control (R512, R513) -/

/-- The current limit in mA (R512). -/
def Pwr.currentLimit (p : Pwr) : Nat := min 1400000 (p.warnMilliamps.getD 1400000)

/-- The power limit of 1,250 W in µW (R512). -/
def powerLimit : Nat := 1250000000

/-- Package power in µW: VCORE current from AVSBus, the other rails as last read (R512). -/
def railPower (p : Pwr) (vcoreMilliamps : Nat) : Nat :=
  let v := (p.rails.getD 0 (0, 0)).1
  (if v = 0 then p.setPoint else v) * vcoreMilliamps + ((p.rails.drop 1).map fun r => r.1 * r.2).sum

/-- A status word reports an over-current or over-temperature warning: IOUT/POUT or TEMPERATURE of the PMBus STATUS_WORD (PRESUMED). -/
def wordWarns (w : BitVec 16) : Bool := w.getLsbD 14 || w.getLsbD 2

/-- The cause of R512 that holds first, 0 for none. -/
def powerCause (p : Pwr) (s : Sensed) : Nat :=
  if s.vcoreMilliamps > p.currentLimit then 1
  else if p.powerAvg > powerLimit then 2
  else if s.dieTemps.any (· > 1000) then 3
  else if s.hbmTemps.any (· > 950) then 4
  else if p.words.any wordWarns then 5
  else 0

/-- Readings are taken: the sensors, and the power of the last 10 µs, averaged over the last 1 ms at every 100 µs boundary (R512). -/
def sense (s : Sensed) (m : Mgt) : Mgt :=
  let window := (railPower m.pwr s.vcoreMilliamps :: m.pwr.powerWindow).take 100
  let avg := if m.clk.ltb % 10000 < 1000 then window.sum / window.length else m.pwr.powerAvg
  { m with pwr := { m.pwr with temps := s.dieTemps ++ s.hbmTemps, powerWindow := window, powerAvg := avg } }

/-- May ENG be raised: nothing has held for 1 ms, current and power are below 97 % of their limits, and every sensor is below its step-up temperature (R512)? -/
def mayRaise (m : Mgt) (s : Sensed) : Bool :=
  m.clk.ltb ≥ m.pwr.causeTick + 100000 && s.vcoreMilliamps * 100 < m.pwr.currentLimit * 97 && m.pwr.powerAvg * 100 < powerLimit * 97
  && s.dieTemps.all (· < 960) && s.hbmTemps.all (· < 910) && m.clk.engMhz < 1900

/-- The decision of R512. -/
def controlPower (s : Sensed) (m : Mgt) (d : Dp) : Mgt × Dp :=
  let m := sense s m
  let cause := powerCause m.pwr s
  if cause ≠ 0 then
    let m := { m with pwr := { m.pwr with causeTick := m.clk.ltb }, clk := { m.clk with engDone := true } }
    if m.clk.engMhz > 1000 then
      if m.clk.ltb < m.clk.engLast + 1000 then (m, d)
      else
        let x := lowerEng m d
        (x.1, logLimited false x.1 2 0xF 1 none 0 0 0 [x.1.clk.engMhz, cause] x.2)
    else ({ m with pwr := { m.pwr with pendingMhz := none } },
      if cause = 3 || cause = 4 then d else logLimited false m 2 0xF 1 none 0 0 0 [m.clk.engMhz, cause] d)
  else if m.clk.phase = .running && m.pwr.avsAnswers && engFree m && mayRaise m s then raiseEng m d
  else (m, d)

/-- POWER_CONTROL_TICK (R483, R512, R513). -/
def execPowerControlTick (sensed : Sensed) (s : State) : Host.Outcome State Fault Refusal :=
  liftAll (fun m d => if m.clk.phase = .loading || m.clk.phase = .running then controlPower sensed m d else (m, d)) s

/-! ### Supply sags (R515 to R517) -/

/-- SUPPLY_SAG_BEGIN (R515 to R517): no non-volatile write begins, an erase is suspended, and an IMAGE_WRITE not begun is refused. -/
def execSupplySagBegin (vcore vdd : Bool) (s : State) : Host.Outcome State Fault Refusal :=
  liftAll (fun m d =>
    if !vcore && !vdd then (m, d)
    else
      let x := nvSag { m with pwr := { m.pwr with sagVcore := m.pwr.sagVcore || vcore, sagVdd := m.pwr.sagVdd || vdd } } d
      refuseImageWrite x.1 x.2) s

/-- SUPPLY_SAG_END (R515 to R517): writes go on, and requests that waited on I3C are served. -/
def execSupplySagEnd (s : State) : Host.Outcome State Fault Refusal :=
  liftAll (fun m d =>
    if !m.sag then (m, d)
    else
      let held := m.sec.i3cHeld
      let m := nvStart { m with
        pwr := { m.pwr with sagVcore := false, sagVdd := false, sagPwrok := false }
        sec := { m.sec with i3cHeld := [] } }
      held.foldl (fun x i => mctpServe x.1 x.2 i) (m, d)) s

/-! ### Local time (R482) -/

/-- A port that owes an acknowledgement or credits, and has no other flit to carry them, sends an IDLE flit (R338). -/
def idleFlits (m : Mgt) (d : Dp) : Dp :=
  (List.range 8).foldl (fun d p =>
    let x := d.darPort p
    if x.state.carries && x.state ≠ .sparing && (x.ackDue || x.returned.any (· > 0)) then sendFlit m p 0 0 0xF [] d else d) d

/-- The outcome of an engine in each ENG cycle of the tick that has just ended (R180, R445): idle without an occupied context, remote while each of them waits, and else free. -/
def engineCycles (m : Mgt) (d : Dp) (e : Nat) : List Nat :=
  let cs := d.tasks.ctxs.filter (·.engine = e)
  (List.range (m.clk.ltb * m.clk.engMhz / 100 - (m.clk.ltb - 1) * m.clk.engMhz / 100)).map fun k =>
    if cs.isEmpty then 5 else if cs.all (·.state = .waiting) then 4 else (Config.engineOutcome e m.clk.ltb k).toNat

/-- Group STALLS counts every ENG cycle of every enabled engine, out of SERVICE and while the clock is not gated (R432, R438, R445). -/
def countStalls (m : Mgt) (d : Dp) : Dp :=
  if d.obs.mode = 0 || !bitAt d.obs.enable 4 || m.sec.power ≠ .run then d
  else
    (engines m).foldl (fun d e =>
      let cycles := engineCycles m d e
      (List.range 6).foldl (fun d r => match cycles.count r with
        | 0 => d
        | n => countAt 4 (0x070000 + 64 * engineIdx m e + 8 * r) n d) d) d

/-- What happens at a tick whatever is commanded: meters fill, host requests that waited try again, owed flits go, and log entries reach the flash queue (R338, R370, R455). -/
def tickWork (m : Mgt) (d : Dp) : Mgt × Dp :=
  if m.image.isNone then (m, d)
  else
    let d := countStalls m (fillMeters m d)
    let d := if d.hosts.leases.all (·.held.isEmpty) then d else settle m (releasePort m 1 (releasePort m 0 d))
    appendLog m (idleFlits m d)

/-- LTB_TICK (R482, R514): the count adds one per core-reference cycle from the internal release, and goes on after a thermal trip. -/
def execLtbTick (s : State) : Host.Outcome State Fault Refusal :=
  liftAll (fun m d =>
    if (m.clk.phase = .inReset || m.clk.phase = .off) && !m.pwr.thermTrip then (m, d)
    else tickWork { m with clk := { m.clk with ltb := m.clk.ltb + 1 } } d) s

end Sys2Proof.Machine
end

