-- ==== Sys2Proof/Machine/Dispatch.lean ====
section
/-! DEFINITION. One arm per command: the meaning it has. -/

namespace Sys2Proof.Machine

/-- What each command does to everything but the queue. -/
def exec (i : Instr) (s : State) : Host.Outcome State Fault Refusal :=
  match i with
  | .internalRelease mode48 bootSel board => Sys2Proof.Machine.execInternalRelease mode48 bootSel board s
  | .resetNFall => Sys2Proof.Machine.execResetNFall s
  | .pwrokFall => Sys2Proof.Machine.execPwrokFall s
  | .firmwareCopyRead => Sys2Proof.Machine.execFirmwareCopyRead s
  | .imageCopyRead => Sys2Proof.Machine.execImageCopyRead s
  | .farTierTrained dimms => Sys2Proof.Machine.execFarTierTrained dimms s
  | .startComplete => Sys2Proof.Machine.execStartComplete s
  | .engClockStep => Sys2Proof.Machine.execEngClockStep s
  | .avsVoltageReached => Sys2Proof.Machine.execAvsVoltageReached s
  | .powerControlTick sensed => Sys2Proof.Machine.execPowerControlTick sensed s
  | .pmbusPollRound readings => Sys2Proof.Machine.execPmbusPollRound readings s
  | .pmbusAlert words => Sys2Proof.Machine.execPmbusAlert words s
  | .thermalTrip => Sys2Proof.Machine.execThermalTrip s
  | .supplySagBegin vcore vdd => Sys2Proof.Machine.execSupplySagBegin vcore vdd s
  | .supplySagEnd => Sys2Proof.Machine.execSupplySagEnd s
  | .brownOut => Sys2Proof.Machine.execBrownOut s
  | .nonvolatileWriteDone => Sys2Proof.Machine.execNonvolatileWriteDone s
  | .ltbTick => Sys2Proof.Machine.execLtbTick s
  | .patrolScrub line e => Sys2Proof.Machine.execPatrolScrub line e s
  | .channelRecalibration channel ok => Sys2Proof.Machine.execChannelRecalibration channel ok s
  | .heatEpochEnd => Sys2Proof.Machine.execHeatEpochEnd s
  | .migrationPassEnd frame => Sys2Proof.Machine.execMigrationPassEnd frame s
  | .migrationFlipEnd frame => Sys2Proof.Machine.execMigrationFlipEnd frame s
  | .coarseRebuildDone frame => Sys2Proof.Machine.execCoarseRebuildDone frame s
  | .blockDeadlineExpiry task block => Sys2Proof.Machine.execBlockDeadlineExpiry task block s
  | .translationCompletion port page a => Sys2Proof.Machine.execTranslationCompletion port page a s
  | .atsInvalidateRequest port itag base bytes => Sys2Proof.Machine.execAtsInvalidateRequest port itag base bytes s
  | .invalidateDrainEnd port itag => Sys2Proof.Machine.execInvalidateDrainEnd port itag s
  | .taskRecordWrite port offset bytes => Sys2Proof.Machine.execTaskRecordWrite port offset bytes s
  | .taskPost m => Sys2Proof.Machine.execTaskPost m s
  | .leaseRenew task => Sys2Proof.Machine.execLeaseRenew task s
  | .slotReset task => Sys2Proof.Machine.execSlotReset task s
  | .slotCloseDone slot => Sys2Proof.Machine.execSlotCloseDone slot s
  | .tallyOnly task => Sys2Proof.Machine.execTallyOnly task s
  | .tallyWake addr => Sys2Proof.Machine.execTallyWake addr s
  | .tallyPoll task => Sys2Proof.Machine.execTallyPoll task s
  | .taskEnd task => Sys2Proof.Machine.execTaskEnd task s
  | .contextAssign task => Sys2Proof.Machine.execContextAssign task s
  | .contextTimeSlice engine => Sys2Proof.Machine.execContextTimeSlice engine s
  | .contextAnswerArrives task => Sys2Proof.Machine.execContextAnswerArrives task s
  | .fenceComplete task => Sys2Proof.Machine.execFenceComplete task s
  | .matmul task => Sys2Proof.Machine.execMatmul task s
  | .matmulAcc task => Sys2Proof.Machine.execMatmulAcc task s
  | .elemwise task => Sys2Proof.Machine.execElemwise task s
  | .activate task => Sys2Proof.Machine.execActivate task s
  | .norm task => Sys2Proof.Machine.execNorm task s
  | .softmax task => Sys2Proof.Machine.execSoftmax task s
  | .convert task => Sys2Proof.Machine.execConvert task s
  | .reduce task => Sys2Proof.Machine.execReduce task s
  | .route task => Sys2Proof.Machine.execRoute task s
  | .routeCombine task => Sys2Proof.Machine.execRouteCombine task s
  | .routeLimitExpiry task => Sys2Proof.Machine.execRouteLimitExpiry task s
  | .mismatchRetry task => Sys2Proof.Machine.execMismatchRetry task s
  | .rtReserve via m => Sys2Proof.Machine.execRtReserve via m s
  | .rtClose via m => Sys2Proof.Machine.execRtClose via m s
  | .exClaim task => Sys2Proof.Machine.execExClaim task s
  | .expert task => Sys2Proof.Machine.execExpert task s
  | .expertPassEnd task => Sys2Proof.Machine.execExpertPassEnd task s
  | .attend task => Sys2Proof.Machine.execAttend task s
  | .cocEncode task => Sys2Proof.Machine.execCocEncode task s
  | .codebookSpaceFree task => Sys2Proof.Machine.execCodebookSpaceFree task s
  | .hstSearch task => Sys2Proof.Machine.execHstSearch task s
  | .merge task => Sys2Proof.Machine.execMerge task s
  | .mldGather task => Sys2Proof.Machine.execMldGather task s
  | .mldAdd task => Sys2Proof.Machine.execMldAdd task s
  | .combiningEntryApply line => Sys2Proof.Machine.execCombiningEntryApply line s
  | .chkScan task => Sys2Proof.Machine.execChkScan task s
  | .snapOpen task => Sys2Proof.Machine.execSnapOpen task s
  | .snapDraft task => Sys2Proof.Machine.execSnapDraft task s
  | .draftFrameCopy region slot frame => Sys2Proof.Machine.execDraftFrameCopy region slot frame s
  | .snapPublish task => Sys2Proof.Machine.execSnapPublish task s
  | .publishRecallDone task => Sys2Proof.Machine.execPublishRecallDone task s
  | .snapClose task => Sys2Proof.Machine.execSnapClose task s
  | .viewCloseDone region slot => Sys2Proof.Machine.execViewCloseDone region slot s
  | .versionReclaimDone region version => Sys2Proof.Machine.execVersionReclaimDone region version s
  | .kvCreate task => Sys2Proof.Machine.execKvCreate task s
  | .kvAppend task => Sys2Proof.Machine.execKvAppend task s
  | .kvCommit task => Sys2Proof.Machine.execKvCommit task s
  | .kvCommitRebuildDone task => Sys2Proof.Machine.execKvCommitRebuildDone task s
  | .kvAbandon task => Sys2Proof.Machine.execKvAbandon task s
  | .kvFork task => Sys2Proof.Machine.execKvFork task s
  | .kvDrop task => Sys2Proof.Machine.execKvDrop task s
  | .kvDropRelease region session => Sys2Proof.Machine.execKvDropRelease region session s
  | .forerunnerWindowEnd => Sys2Proof.Machine.execForerunnerWindowEnd s
  | .readShared via m => Sys2Proof.Machine.execReadShared via m s
  | .readOwn via m => Sys2Proof.Machine.execReadOwn via m s
  | .readNoalloc via m => Sys2Proof.Machine.execReadNoalloc via m s
  | .writeNoalloc via m => Sys2Proof.Machine.execWriteNoalloc via m s
  | .atomic via m => Sys2Proof.Machine.execAtomic via m s
  | .wbReq m => Sys2Proof.Machine.execWbReq m s
  | .writeLine m => Sys2Proof.Machine.execWriteLine m s
  | .writePart m => Sys2Proof.Machine.execWritePart m s
  | .fwd m => Sys2Proof.Machine.execFwd m s
  | .snpInv m => Sys2Proof.Machine.execSnpInv m s
  | .snpShare m => Sys2Proof.Machine.execSnpShare m s
  | .snpCur m => Sys2Proof.Machine.execSnpCur m s
  | .invAck m => Sys2Proof.Machine.execInvAck m s
  | .snpAck m => Sys2Proof.Machine.execSnpAck m s
  | .grant m => Sys2Proof.Machine.execGrant m s
  | .acksDone m => Sys2Proof.Machine.execAcksDone m s
  | .complete m => Sys2Proof.Machine.execComplete m s
  | .wbGo m => Sys2Proof.Machine.execWbGo m s
  | .wbDone m => Sys2Proof.Machine.execWbDone m s
  | .birsp port addr dirty poison => Sys2Proof.Machine.execBirsp port addr dirty poison s
  | .snoopTimeout line holder => Sys2Proof.Machine.execSnoopTimeout line holder s
  | .completeTimeout line => Sys2Proof.Machine.execCompleteTimeout line s
  | .data m => Sys2Proof.Machine.execData m s
  | .dataRet m => Sys2Proof.Machine.execDataRet m s
  | .ack m => Sys2Proof.Machine.execAck m s
  | .wake m => Sys2Proof.Machine.execWake m s
  | .redirect m => Sys2Proof.Machine.execRedirect m s
  | .addFloat m => Sys2Proof.Machine.execAddFloat m s
  | .atomicRet m => Sys2Proof.Machine.execAtomicRet m s
  | .addU64 m => Sys2Proof.Machine.execAddU64 m s
  | .tallyWatch m => Sys2Proof.Machine.execTallyWatch m s
  | .tallyUnwatch m => Sys2Proof.Machine.execTallyUnwatch m s
  | .tokenPost m => Sys2Proof.Machine.execTokenPost m s
  | .mgmtRead m => Sys2Proof.Machine.execMgmtRead m s
  | .opMessage m => Sys2Proof.Machine.execOpMessage m s
  | .opMessagePartialTimeout source => Sys2Proof.Machine.execOpMessagePartialTimeout source s
  | .e2eTimeout task addr => Sys2Proof.Machine.execE2eTimeout task addr s
  | .payloadFlit port flit => Sys2Proof.Machine.execPayloadFlit port flit s
  | .nak port seq => Sys2Proof.Machine.execNak port seq s
  | .replayTimer port => Sys2Proof.Machine.execReplayTimer port s
  | .retryBudgetExpiry port => Sys2Proof.Machine.execRetryBudgetExpiry port s
  | .laneFailed port lane => Sys2Proof.Machine.execLaneFailed port lane s
  | .laneMap port lane => Sys2Proof.Machine.execLaneMap port lane s
  | .sparingDone port => Sys2Proof.Machine.execSparingDone port s
  | .signalFound port lanes => Sys2Proof.Machine.execSignalFound port lanes s
  | .trainLock port lanes => Sys2Proof.Machine.execTrainLock port lanes s
  | .trainTimeout port => Sys2Proof.Machine.execTrainTimeout port s
  | .ident port id => Sys2Proof.Machine.execIdent port id s
  | .downTimer port => Sys2Proof.Machine.execDownTimer port s
  | .schedulingGrant point => Sys2Proof.Machine.execSchedulingGrant point s
  | .dealEntryEnd point => Sys2Proof.Machine.execDealEntryEnd point s
  | .dealTakeover point => Sys2Proof.Machine.execDealTakeover point s
  | .queueSample => Sys2Proof.Machine.execQueueSample s
  | .beatSend => Sys2Proof.Machine.execBeatSend s
  | .beat port w => Sys2Proof.Machine.execBeat port w s
  | .suspect port w => Sys2Proof.Machine.execSuspect port w s
  | .suspectHoldExpiry subject sender => Sys2Proof.Machine.execSuspectHoldExpiry subject sender s
  | .whistSilenceExpiry member => Sys2Proof.Machine.execWhistSilenceExpiry member s
  | .whistDecideExpiry member => Sys2Proof.Machine.execWhistDecideExpiry member s
  | .verdict port w => Sys2Proof.Machine.execVerdict port w s
  | .selfFence => Sys2Proof.Machine.execSelfFence s
  | .hostLeaseExpiry port => Sys2Proof.Machine.execHostLeaseExpiry port s
  | .guardWriteTimeout line => Sys2Proof.Machine.execGuardWriteTimeout line s
  | .aliasHoldLapse frame => Sys2Proof.Machine.execAliasHoldLapse frame s
  | .resumeWaitExpiry task => Sys2Proof.Machine.execResumeWaitExpiry task s
  | .mapPrepare => Sys2Proof.Machine.execMapPrepare s
  | .mapSwitch => Sys2Proof.Machine.execMapSwitch s
  | .mapRetire => Sys2Proof.Machine.execMapRetire s
  | .partAttach => Sys2Proof.Machine.execPartAttach s
  | .partDetach => Sys2Proof.Machine.execPartDetach s
  | .detachDrainEnd partition => Sys2Proof.Machine.execDetachDrainEnd partition s
  | .engage => Sys2Proof.Machine.execEngage s
  | .spareReady copy => Sys2Proof.Machine.execSpareReady copy s
  | .spareRebuildDone => Sys2Proof.Machine.execSpareRebuildDone s
  | .resync => Sys2Proof.Machine.execResync s
  | .debugSet => Sys2Proof.Machine.execDebugSet s
  | .powerRetain => Sys2Proof.Machine.execPowerRetain s
  | .retainEntered => Sys2Proof.Machine.execRetainEntered s
  | .powerRun => Sys2Proof.Machine.execPowerRun s
  | .idleDelayExpiry => Sys2Proof.Machine.execIdleDelayExpiry s
  | .obsSet => Sys2Proof.Machine.execObsSet s
  | .obsWatch => Sys2Proof.Machine.execObsWatch s
  | .dealSet => Sys2Proof.Machine.execDealSet s
  | .imageWrite => Sys2Proof.Machine.execImageWrite s
  | .patienceCopyDone => Sys2Proof.Machine.execPatienceCopyDone s
  | .dbgRead => Sys2Proof.Machine.execDbgRead s
  | .dbgWrite => Sys2Proof.Machine.execDbgWrite s
  | .dbgPatience => Sys2Proof.Machine.execDbgPatience s
  | .dbgCmdUnlisted code => Sys2Proof.Machine.execDbgCmdUnlisted code s
  | .dbgFlagClear ones => Sys2Proof.Machine.execDbgFlagClear ones s
  | .registerWrite index data => Sys2Proof.Machine.execRegisterWrite index data s
  | .hostLinkTrained port cxl width speed => Sys2Proof.Machine.execHostLinkTrained port cxl width speed s
  | .hostLinkDown port => Sys2Proof.Machine.execHostLinkDown port s
  | .hotReset port => Sys2Proof.Machine.execHotReset port s
  | .functionLevelReset port => Sys2Proof.Machine.execFunctionLevelReset port s
  | .functionResetDone port => Sys2Proof.Machine.execFunctionResetDone port s
  | .perstNFall port => Sys2Proof.Machine.execPerstNFall port s
  | .perstNRise port => Sys2Proof.Machine.execPerstNRise port s
  | .hostMemoryRead port offset bytes tag => Sys2Proof.Machine.execHostMemoryRead port offset bytes tag s
  | .hostMemoryWrite port offset bytes ep => Sys2Proof.Machine.execHostMemoryWrite port offset bytes ep s
  | .cxlMemRead port addr ask tag => Sys2Proof.Machine.execCxlMemRead port addr ask tag s
  | .cxlMemWrite port addr bytes mask poison => Sys2Proof.Machine.execCxlMemWrite port addr bytes mask poison s
  | .hdmDecoderCommit port index c => Sys2Proof.Machine.execHdmDecoderCommit port index c s
  | .configWrite port field value => Sys2Proof.Machine.execConfigWrite port field value s
  | .slotTableRead port offset => Sys2Proof.Machine.execSlotTableRead port offset s
  | .identify port => Sys2Proof.Machine.execIdentify port s
  | .getEventRecords port => Sys2Proof.Machine.execGetEventRecords port s
  | .getTimestamp port => Sys2Proof.Machine.execGetTimestamp port s
  | .getSupportedLogs port => Sys2Proof.Machine.execGetSupportedLogs port s
  | .getLog port effectsLog => Sys2Proof.Machine.execGetLog port effectsLog s
  | .identifyMemoryDevice port => Sys2Proof.Machine.execIdentifyMemoryDevice port s
  | .getHealthInfo port => Sys2Proof.Machine.execGetHealthInfo port s
  | .mailboxUnsupported port opcode => Sys2Proof.Machine.execMailboxUnsupported port opcode s
  | .outboundCompletionTimeout port tag => Sys2Proof.Machine.execOutboundCompletionTimeout port tag s
  | .unexpectedCompletion port tag => Sys2Proof.Machine.execUnexpectedCompletion port tag s
  | .size endpoint => Sys2Proof.Machine.execSize endpoint s
  | .status endpoint => Sys2Proof.Machine.execStatus endpoint s
  | .mctpOpMessage endpoint message => Sys2Proof.Machine.execMctpOpMessage endpoint message s
  | .mctpUnsupportedCommand endpoint code => Sys2Proof.Machine.execMctpUnsupportedCommand endpoint code s
  | .getVersion endpoint => Sys2Proof.Machine.execGetVersion endpoint s
  | .getCapabilities endpoint version13 => Sys2Proof.Machine.execGetCapabilities endpoint version13 s
  | .negotiateAlgorithms endpoint => Sys2Proof.Machine.execNegotiateAlgorithms endpoint s
  | .getDigests endpoint => Sys2Proof.Machine.execGetDigests endpoint s
  | .getCertificate endpoint slot offset length => Sys2Proof.Machine.execGetCertificate endpoint slot offset length s
  | .challenge endpoint slot nonce => Sys2Proof.Machine.execChallenge endpoint slot nonce s
  | .getMeasurements endpoint index signed nonce => Sys2Proof.Machine.execGetMeasurements endpoint index signed nonce s
  | .spdmUnsupportedRequest endpoint code => Sys2Proof.Machine.execSpdmUnsupportedRequest endpoint code s
  | .idcode => Sys2Proof.Machine.execIdcode s
  | .bypass code => Sys2Proof.Machine.execBypass code s
  | .testLogicReset => Sys2Proof.Machine.execTestLogicReset s
  | .dbgAccess read => Sys2Proof.Machine.execDbgAccess read s
  | .samplePreload cells => Sys2Proof.Machine.execSamplePreload cells s
  | .extest cells => Sys2Proof.Machine.execExtest cells s
  | .extestPulse cells => Sys2Proof.Machine.execExtestPulse cells s
  | .extestTrain cells => Sys2Proof.Machine.execExtestTrain cells s
  | .linkTest read => Sys2Proof.Machine.execLinkTest read s
  | .laneTestWrite index data => Sys2Proof.Machine.execLaneTestWrite index data s
  | .ltInject lane => Sys2Proof.Machine.execLtInject lane s
  | .checkerLock lane => Sys2Proof.Machine.execCheckerLock lane s
  | .checkerLostLock lane => Sys2Proof.Machine.execCheckerLostLock lane s
  | .hbm1500 access => Sys2Proof.Machine.execHbm1500 access s
  | .mbist read => Sys2Proof.Machine.execMbist read s
  | .mbistStart data dimms => Sys2Proof.Machine.execMbistStart data dimms s
  | .mbistDone fails repairs => Sys2Proof.Machine.execMbistDone fails repairs s
  | .idleFlit port flit => Sys2Proof.Machine.execIdleFlit port flit s
  | .outboundReadCompletion port tag data => Sys2Proof.Machine.execOutboundReadCompletion port tag data s
  | .directoryWalkEnd port => Sys2Proof.Machine.execDirectoryWalkEnd port s
  | .resyncDone => Sys2Proof.Machine.execResyncDone s
  | .runReported => Sys2Proof.Machine.execRunReported s
  | .openAesDrainEnd => Sys2Proof.Machine.execOpenAesDrainEnd s
  | .setPointSettleExpiry => Sys2Proof.Machine.execSetPointSettleExpiry s
  | .alignRetryExpiry port => Sys2Proof.Machine.execAlignRetryExpiry port s
  | .eidAssignment endpoint eid => Sys2Proof.Machine.execEidAssignment endpoint eid s
  | .doeDiscovery port index => Sys2Proof.Machine.execDoeDiscovery port index s
  | .cdatTableAccess port handle => Sys2Proof.Machine.execCdatTableAccess port handle s
  | .testFlagClear index data => Sys2Proof.Machine.execTestFlagClear index data s

end Sys2Proof.Machine
end

