-- ==== Sys2Proof/WellFormed.lean ====
section
/-! DEFINITION. Well-formed commands: every operand lies within the width or the list length that the spec gives its field. -/

namespace Sys2Proof

/-- A message whose fields fit the transaction header, with a payload of whole 16-byte units (R339, R346, Table 4). -/
def Msg.wf (q : Msg) : Bool :=
  q.opcode < 2 ^ 8 && q.cls < 2 ^ 3 && q.bwClass < 2 ^ 3 && q.hops < 2 ^ 2 && q.partition < 2 ^ 6 && q.epoch < 2 ^ 8
  && q.source < 2 ^ 14 && q.target < 2 ^ 14 && q.txn < 2 ^ 16 && q.combine < 2 ^ 16 && q.status < 2 ^ 8 && q.slot < 2 ^ 10
  && q.origin < 2 ^ 14 && q.addr < 2 ^ 64 && q.arg < 2 ^ 64 && q.payload.length % 16 = 0 && q.payload.length ≤ 240

/-- A Whist message whose fields fit R383, Table 1. -/
def Whist.wf (w : Whist) : Bool :=
  1 ≤ w.kind && w.kind ≤ 3 && w.epoch < 2 ^ 8 && w.source < 2 ^ 14 && w.subject < 2 ^ 14 && w.seq < 2 ^ 24 && w.target < 2 ^ 14
  && w.ltb < 2 ^ 64 && w.set.length ≤ 16 && w.set.all (· < 2 ^ 14)

/-- A DIMM in one of the 16 channels' two slots (R28, R31). -/
def Dimm.wf (x : Dimm) : Bool := x.channel < 16 && x.slot < 2

/-- Fuses of the counts and lengths that R408, R411 and R508 give. -/
def Fuses.wf (f : Fuses) : Bool :=
  f.fwKeyHash.length = 4 && f.fwRevoked.length = 4 && f.setPoints.length = 10 && f.ownerHash.all fun h => h.length = 64

/-- What a board supplies: fuses of the right form, and flash bytes within the part. -/
def Board.wf (b : Board) : Bool :=
  b.fuses.all Fuses.wf && b.flash.all fun l => l.all fun c => b.chip.all fun x => c.1 < x.bytes

/-- A PCIe memory request moves 1 to 4,096 bytes. -/
def payloadOk (n : Nat) : Bool := 0 < n && n ≤ 4096

/-- Is a command well-formed? Commands whose operands are bounded by their types, or name something of the state, are so always. -/
def Instr.wf : Instr → Bool
  | .internalRelease _ _ board => board.all Board.wf
  | .resetNFall => true
  | .pwrokFall => true
  | .firmwareCopyRead => true
  | .imageCopyRead => true
  | .farTierTrained dimms => dimms.all Dimm.wf
  | .startComplete => true
  | .engClockStep => true
  | .avsVoltageReached => true
  | .powerControlTick sensed => sensed.dieTemps.length = 32 && sensed.hbmTemps.length = 8
  | .pmbusPollRound readings => readings.length = 8
  | .pmbusAlert words => words.length = 8
  | .thermalTrip => true
  | .supplySagBegin _ _ => true
  | .supplySagEnd => true
  | .brownOut => true
  | .nonvolatileWriteDone => true
  | .ltbTick => true
  | .patrolScrub line _ => line < 2 ^ 44
  | .channelRecalibration _ _ => true
  | .heatEpochEnd => true
  | .migrationPassEnd _ => true
  | .migrationFlipEnd _ => true
  | .coarseRebuildDone _ => true
  | .blockDeadlineExpiry _ _ => true
  | .translationCompletion _ _ _ => true
  | .atsInvalidateRequest _ _ base bytes => bytes ≥ 4096 && 2 ^ Nat.log2 bytes = bytes && base.toNat % bytes = 0
  | .invalidateDrainEnd _ _ => true
  | .taskRecordWrite _ offset bytes => offset < 2 ^ 22 && payloadOk bytes.length
  | .taskPost m => m.wf
  | .leaseRenew _ => true
  | .slotReset _ => true
  | .slotCloseDone slot => slot < 1024
  | .tallyOnly _ => true
  | .tallyWake _ => true
  | .tallyPoll _ => true
  | .taskEnd _ => true
  | .contextAssign _ => true
  | .contextTimeSlice engine => engine < 64
  | .contextAnswerArrives _ => true
  | .fenceComplete _ => true
  | .matmul _ => true
  | .matmulAcc _ => true
  | .elemwise _ => true
  | .activate _ => true
  | .norm _ => true
  | .softmax _ => true
  | .convert _ => true
  | .reduce _ => true
  | .route _ => true
  | .routeCombine _ => true
  | .routeLimitExpiry _ => true
  | .mismatchRetry _ => true
  | .rtReserve _ m => m.wf
  | .rtClose _ m => m.wf
  | .exClaim _ => true
  | .expert _ => true
  | .expertPassEnd _ => true
  | .attend _ => true
  | .cocEncode _ => true
  | .codebookSpaceFree _ => true
  | .hstSearch _ => true
  | .merge _ => true
  | .mldGather _ => true
  | .mldAdd _ => true
  | .combiningEntryApply line => line < 2 ^ 44
  | .chkScan _ => true
  | .snapOpen _ => true
  | .snapDraft _ => true
  | .draftFrameCopy _ _ _ => true
  | .snapPublish _ => true
  | .publishRecallDone _ => true
  | .snapClose _ => true
  | .viewCloseDone _ _ => true
  | .versionReclaimDone _ _ => true
  | .kvCreate _ => true
  | .kvAppend _ => true
  | .kvCommit _ => true
  | .kvCommitRebuildDone _ => true
  | .kvAbandon _ => true
  | .kvFork _ => true
  | .kvDrop _ => true
  | .kvDropRelease _ _ => true
  | .forerunnerWindowEnd => true
  | .readShared _ m => m.wf
  | .readOwn _ m => m.wf
  | .readNoalloc _ m => m.wf
  | .writeNoalloc _ m => m.wf
  | .atomic _ m => m.wf
  | .wbReq m => m.wf
  | .writeLine m => m.wf
  | .writePart m => m.wf
  | .fwd m => m.wf
  | .snpInv m => m.wf
  | .snpShare m => m.wf
  | .snpCur m => m.wf
  | .invAck m => m.wf
  | .snpAck m => m.wf
  | .grant m => m.wf
  | .acksDone m => m.wf
  | .complete m => m.wf
  | .wbGo m => m.wf
  | .wbDone m => m.wf
  | .birsp _ addr dirty _ => addr.toNat % 64 = 0 && dirty.all fun b => b.length = 64
  | .snoopTimeout line _ => line < 2 ^ 44
  | .completeTimeout line => line < 2 ^ 44
  | .data m => m.wf
  | .dataRet m => m.wf
  | .ack m => m.wf
  | .wake m => m.wf
  | .redirect m => m.wf
  | .addFloat m => m.wf
  | .atomicRet m => m.wf
  | .addU64 m => m.wf
  | .tallyWatch m => m.wf
  | .tallyUnwatch m => m.wf
  | .tokenPost m => m.wf
  | .mgmtRead m => m.wf
  | .opMessage m => m.wf
  | .opMessagePartialTimeout source => source < 2 ^ 14
  | .e2eTimeout _ _ => true
  | .payloadFlit _ flit => flit.length = 256
  | .nak _ _ => true
  | .replayTimer _ => true
  | .retryBudgetExpiry _ => true
  | .laneFailed _ _ => true
  | .laneMap _ _ => true
  | .sparingDone _ => true
  | .signalFound _ lanes => lanes ≤ 9
  | .trainLock _ _ => true
  | .trainTimeout _ => true
  | .ident _ i => i.id < 2 ^ 14 && i.cohMode ≤ 2 && i.epochs.all (· < 256)
  | .downTimer _ => true
  | .schedulingGrant _ => true
  | .dealEntryEnd _ => true
  | .dealTakeover _ => true
  | .queueSample => true
  | .beatSend => true
  | .beat _ w => w.wf
  | .suspect _ w => w.wf
  | .suspectHoldExpiry subject sender => subject < 2 ^ 14 && sender < 2 ^ 14
  | .whistSilenceExpiry member => member < 2 ^ 14
  | .whistDecideExpiry member => member < 2 ^ 14
  | .verdict _ w => w.wf
  | .selfFence => true
  | .hostLeaseExpiry _ => true
  | .guardWriteTimeout line => line < 2 ^ 44
  | .aliasHoldLapse _ => true
  | .resumeWaitExpiry _ => true
  | .mapPrepare => true
  | .mapSwitch => true
  | .mapRetire => true
  | .partAttach => true
  | .partDetach => true
  | .detachDrainEnd _ => true
  | .engage => true
  | .spareReady _ => true
  | .spareRebuildDone => true
  | .resync => true
  | .debugSet => true
  | .powerRetain => true
  | .retainEntered => true
  | .powerRun => true
  | .idleDelayExpiry => true
  | .obsSet => true
  | .obsWatch => true
  | .dealSet => true
  | .imageWrite => true
  | .patienceCopyDone => true
  | .dbgRead => true
  | .dbgWrite => true
  | .dbgPatience => true
  | .dbgCmdUnlisted _ => true
  | .dbgFlagClear _ => true
  | .registerWrite _ _ => true
  | .hostLinkTrained _ _ _ _ => true
  | .hostLinkDown _ => true
  | .hotReset _ => true
  | .functionLevelReset _ => true
  | .functionResetDone _ => true
  | .perstNFall _ => true
  | .perstNRise _ => true
  | .hostMemoryRead _ _ bytes tag => payloadOk bytes && tag < 2 ^ 14
  | .hostMemoryWrite _ _ bytes _ => payloadOk bytes.length
  | .cxlMemRead _ addr _ tag => addr.toNat % 64 = 0 && tag < 2 ^ 16
  | .cxlMemWrite _ addr bytes _ _ => addr.toNat % 64 = 0 && bytes.length = 64
  | .hdmDecoderCommit _ _ _ => true
  | .configWrite _ _ _ => true
  | .slotTableRead _ offset => offset % 8 = 0 && 0x800 ≤ offset && offset < 0x1000
  | .identify _ => true
  | .getEventRecords _ => true
  | .getTimestamp _ => true
  | .getSupportedLogs _ => true
  | .getLog _ _ => true
  | .identifyMemoryDevice _ => true
  | .getHealthInfo _ => true
  | .mailboxUnsupported _ _ => true
  | .outboundCompletionTimeout _ tag => tag < 2 ^ 14
  | .unexpectedCompletion _ tag => tag < 2 ^ 14
  | .size _ => true
  | .status _ => true
  | .mctpOpMessage _ _ => true
  | .mctpUnsupportedCommand _ _ => true
  | .getVersion _ => true
  | .getCapabilities _ _ => true
  | .negotiateAlgorithms _ => true
  | .getDigests _ => true
  | .getCertificate _ slot offset length => slot < 8 && offset < 65536 && length < 65536
  | .challenge _ slot nonce => slot < 8 && nonce.length = 32
  | .getMeasurements _ index signed nonce => index < 256 && (!signed || nonce.length = 32)
  | .spdmUnsupportedRequest _ _ => true
  | .idcode => true
  | .bypass _ => true
  | .testLogicReset => true
  | .dbgAccess _ => true
  | .samplePreload _ => true
  | .extest _ => true
  | .extestPulse _ => true
  | .extestTrain _ => true
  | .linkTest _ => true
  | .laneTestWrite _ _ => true
  | .ltInject _ => true
  | .checkerLock _ => true
  | .checkerLostLock _ => true
  | .hbm1500 _ => true
  | .mbist _ => true
  | .mbistStart _ dimms => dimms.all Dimm.wf
  | .mbistDone fails repairs => fails.length ≤ 24 && repairs.length ≤ 8
  | .idleFlit _ flit => flit.length = 256
  | .outboundReadCompletion _ tag _ => tag < 2 ^ 14
  | .directoryWalkEnd _ => true
  | .resyncDone => true
  | .runReported => true
  | .openAesDrainEnd => true
  | .setPointSettleExpiry => true
  | .alignRetryExpiry _ => true
  | .eidAssignment _ _ => true
  | .doeDiscovery _ _ => true
  | .cdatTableAccess _ _ => true
  | .testFlagClear _ _ => true

end Sys2Proof
end

