-- ==== Sys2Proof/Safety.lean ====
section
/-! DEFINITION. The terms in which the statements speak of states. -/

namespace Sys2Proof.Safety

open Sys2Proof.Machine

/-- What an operational message leaves alone unless it names it: the image, clocks, power, non-volatile memory, test port, far tier, attach states, and of security the debug level, the keys and the measurements of the start. -/
def SameBase (s t : State) : Prop :=
  t.mgt.image = s.mgt.image ∧ t.mgt.clk = s.mgt.clk ∧ t.mgt.pwr = s.mgt.pwr ∧ t.mgt.nvm = s.mgt.nvm ∧ t.mgt.tap = s.mgt.tap
  ∧ t.mgt.far = s.mgt.far ∧ t.mgt.parts = s.mgt.parts ∧ t.mgt.sec.level = s.mgt.sec.level ∧ t.mgt.sec.highest = s.mgt.sec.highest
  ∧ t.mgt.sec.keys = s.mgt.sec.keys ∧ t.mgt.sec.meas1 = s.mgt.sec.meas1 ∧ t.mgt.sec.meas2 = s.mgt.sec.meas2 ∧ t.mgt.sec.meas3 = s.mgt.sec.meas3

/-- A command that answers on a wire and does nothing else. -/
def Answers (c : Instr) (s : State) (o : Out) : Prop := exec c s = .next { s with dp := { s.dp with out := s.dp.out ++ [o] } }

/-- The debug port is selected and idle at Open, and the space in its register takes a WRITE at its address. -/
abbrev writing (s : State) (space : Nat) : Prop :=
  dbgSelected s.mgt = true ∧ dbgBusy s.mgt s.dp = false ∧ s.mgt.sec.dbg.space = space
  ∧ permits s.mgt space 2 (s.mgt.sec.dbg.addr.toNat / 8 * 8) = true

/-- BYPASS is selected, and nothing else has changed but the log of refusals. -/
def OnlyBypassed (s t : State) : Prop :=
  t.mgt.tap.ir = 0xFF ∧ { t.mgt with tap := { t.mgt.tap with ir := s.mgt.tap.ir, refusedAt := s.mgt.tap.refusedAt } } = s.mgt
  ∧ { t.dp with obs := s.dp.obs } = s.dp ∧ t.pending = s.pending

/-- A state with one Daras port in a given form, and everything else as it was. -/
def withPort (s : State) (p : Nat) (x : DarPort) : State :=
  { s with dp := { s.dp with fab := { s.dp.fab with ports := s.dp.fab.ports.set p x } } }

/-- A port whose sequence numbers and owed credits fit the fields of a flit header (R338, Table 2), as those of every port that has trained do. -/
abbrev Sendable (x : DarPort) : Prop := x.txSeq < 4096 ∧ x.rxSeq < 4096 ∧ ∀ n ∈ x.returned, n < 2 ^ 16

/-- Nothing waits at the home slices: no request, no held message, no snoop that has not been sent. -/
def Quiet (d : Dp) : Prop :=
  d.coh.waiting = [] ∧ d.coh.heldHome = [] ∧ ∀ t ∈ d.coh.trackers, t.snoops.all (·.sent) = true

/-- A request as it comes to its home: taken from the inbox and counted where it came over Daras, or counted with the task that sent it. -/
abbrev entered (via : Via) (q : Msg) (d : Dp) : Dp :=
  match via with
  | .daras => countIn q (takeInbox q d)
  | .task id => oneMore id d
  | .host _ => d

/-- A request is let in: it passes the judgement of R349 where it came over Daras, or its task has no result yet. -/
def admitted (s : State) (via : Via) (q : Msg) : Bool :=
  match via with
  | .daras => gate s.mgt (entered .daras q s.dp) q = .pass
  | .task id => id < groupBase && (s.dp.task id).any (·.result.isNone)
  | .host _ => true

/-- Nothing holds a request up at its home: its line has a place, no other transaction, held add or flip, no holder must be snooped first, and a tracker is free; for a change, no hold stands, the view is writable and no draft frame must be copied first. -/
def unhindered (m : Mgt) (d : Dp) (via : Via) (q : Msg) (r : Nat) (reach : Reach) (a : Nat) : Bool :=
  let k := kindOf m via q
  placeOffset m d (q.addr % 2 ^ 50) = .store r reach a
  && !hostGone d 0 && !hostGone d 1 && !busy d (lineOf q.addr) && !heldAdds d (a / 64)
  && !(d.store.moves.any fun v => v.covers (a / 65536) && v.flipping) && !(changes k q && frameHeld d (a / 65536))
  && (d.coh.trackers.filter fun t => homeSlice t.line = homeSlice (lineOf q.addr)).length < 8192
  && (!(changes k q) && k ≠ .own || needsCopy d r reach (frameIndex m r reach (q.addr % 2 ^ 50)) = none)
  && (match d.entry (lineOf q.addr) with | some e => snoopsFor m k (holderOf d via q) e = [] | none => true)
  && (match reach with | .view v => !changes k q || viewWritable d r v | _ => true)

/-- An entry from which a request starts: the line's own, or, for an uncached line, one that names nobody. -/
abbrev startsFrom (d : Dp) (line : Nat) (e : DirEntry) : Prop :=
  d.entry line = some e ∨ d.entry line = none ∧ e.line = line ∧ e.empty = true ∧ e.coarse = false

/-- What the home sends a package that reads a line: its data, or ownership alone; under owner ordering ACKS_DONE besides (R123, R133, R142). -/
def readAnswers (m : Mgt) (d : Dp) (q : Msg) (r : Nat) (l : Bytes × Bool) : List Msg :=
  (if kindOf m .daras q = .own && grantsOnly .daras (some (.pkg q.source)) (d.entry (lineOf q.addr)) then answerMsg q m.self 0x52 0 0 []
    else { answerMsg q m.self 0x60 0 (if l.2 then r else 0) l.1 with poison := l.2 })
  :: (if m.pkg.ownerOrdered && kindOf m .daras q ≠ .noalloc then [answerMsg q m.self 0x53 0 0 []] else [])

/-- Messages sent one after another. -/
def sendAll (m : Mgt) (qs : List Msg) (d : Dp) : Dp := qs.foldl (fun d q => send m q d) d

/-- The copy that this package comes to hold of a line it asked to hold: S, E, or M with its store performed (R122, R132). -/
def takenLine (k : Txn) (data : Bytes) (poison : Option Nat) : RemoteLine :=
  let own : Bool := k.msg.opcode = 0x02 || k.msg.opcode = 0x04
  if own && !k.msg.payload.isEmpty then ⟨k.msg.addr / 64, 3, mergeMask data k.msg.payload k.msg.arg, if k.msg.arg = fullMask then none else poison, false⟩
  else ⟨k.msg.addr / 64, if own then 2 else 1, data, poison, false⟩

/-- A task's request to hold a line is performed by a message: the transaction is over, the copy is held, COMPLETE has gone out under home ordering, and the task has its line or its store performed; memory and the directory are as they were. -/
def Performed (s t : State) (q : Msg) (k : Txn) (id : Nat) (data : Bytes) (poison : Option Nat) : Prop :=
  t.mgt = s.mgt ∧ t.dp.store = s.dp.store ∧ t.dp.coh.dir = s.dp.coh.dir ∧ t.dp.coh.trackers = s.dp.coh.trackers ∧ t.dp.hosts = s.dp.hosts
  ∧ t.dp.coh.txns = s.dp.coh.txns.erase k
  ∧ t.dp.coh.remote = takenLine k data poison :: s.dp.coh.remote.filter (fun x => x.line ≠ k.msg.addr / 64 || x.writeback)
  ∧ t.dp.fab = (sendAll s.mgt (if k.msg.opcode ≤ 0x02 then [k.reply 0x54 [] none] else []) (takeInbox q s.dp)).fab
  ∧ t.dp.tasks = (if k.msg.opcode % 2 = 0 ∧ k.msg.payload ≠ [] then taskDone id 0 0 s.dp else deliverTask id ⟨k.msg.addr / 64, data, poison⟩ s.dp).tasks

/-- A message that does nothing but what it does to the tasks: memory, the directory, trackers, copies and host ports are as they were, and a transaction is over. -/
def OnlyTasks (s t : State) (q : Msg) (k : Txn) : Prop :=
  t.mgt = s.mgt ∧ t.dp.store = s.dp.store ∧ t.dp.coh.dir = s.dp.coh.dir ∧ t.dp.coh.trackers = s.dp.coh.trackers ∧ t.dp.coh.remote = s.dp.coh.remote
  ∧ t.dp.hosts = s.dp.hosts ∧ t.dp.coh.txns = s.dp.coh.txns.erase k ∧ t.dp.fab = (takeInbox q s.dp).fab

/-- A slot's record is rejected: one log entry names the status and the detail, no task is taken, the completion record with that status is written at the record's own address or at the next place of the fallback area, and memory is as it was until then (R153, R154, R156). -/
def Rejected (m : Mgt) (e : SlotEntry) (x : Slot) (r : Bytes) (fallback : Bool) (status detail : Nat) (d d' : Dp) : Prop :=
  ∃ (b : Bytes) (l : LogEntry) (y : Dp),
    (d' = settle m (deliverReject m e.number e.partition (if fallback then e.rejectAddr + 32 * (x.fallback % 64) else wordAt r 1) b y)
      ∨ d' = settle m (settle m (deliverReject m e.number e.partition (if fallback then e.rejectAddr + 32 * (x.fallback % 64) else wordAt r 1) b y)))
    ∧ y.store = d.store ∧ y.coh = d.coh ∧ y.fab = d.fab ∧ y.hosts = d.hosts ∧ y.tasks.tasks = d.tasks.tasks
    ∧ y.slot e.number = some { x with fallback := x.fallback + if fallback then 1 else 0 }
    ∧ y.obs.log.head? = some l ∧ l.severity = 1 ∧ l.block = 2 ∧ l.event = 1 ∧ l.slot = e.number ∧ l.part = some e.partition ∧ l.detail = [status, detail]
    ∧ b.length = 32 ∧ (status < 256 → bits (wordAt b 0) 63 56 = status)

/-- The check of R153 that a record of a slot fails first: its status and detail, and whether the completion goes to the fallback area; none where it passes all of them. -/
def firstFailure (m : Mgt) (d : Dp) (e : SlotEntry) (x : Slot) (aligned : Bool) (route : Route) (r : Bytes) : Option (Nat × Nat × Bool) :=
  let op := fieldAt r 0 63 56
  let counted : Bool := op ≠ 0x01 && op ≠ 0x02
  if !aligned || r.length ≠ 128 then some (0x10, 0x01, true)
  else if fieldAt r 15 63 32 ≠ crc 0x01 (r.take 124) then some (0x10, 0x02, true)
  else if !routeOk e route then some (0x14, 0xFFFFFFFF, true)
  else if !completionOk m d e.partition (wordAt r 1) then some (0x14, 0xFFFFFFFE, true)
  else if !formatOk m d r then some (0x10, 0x03, false)
  else if x.state = .unbound && op ≠ 0x01 then some (0x13, 0x01, false)
  else if x.state = .resetting || x.state = .closing then some (0x13, 0x02, false)
  else if counted && (fieldAt r 0 47 40 + 256 - x.alive % 256) % 256 ≥ 128 then some (0x11, x.alive, true)
  else if counted && (fieldAt r 0 47 40 + 256 - x.alive % 256) % 256 ≠ 0 then some (0x12, x.alive, false)
  else match step8 m d e.partition op r, step9 m op r, step10 m d e op r with
    | some n, _, _ => some (0x14, n, false)
    | none, some n, _ => some (0x15, n, false)
    | none, none, .error n => some (n.1, n.2, false)
    | none, none, .ok o =>
      if (d.tasks.tasks.filter (·.slot = e.number)).length ≥ e.depth then some (0x16, 0x01, false)
      else if d.tasks.tasks.length ≥ 16384 then some (0x16, 0x02, false)
      else
        let short := if o.isSome then none else if 0x60 ≤ op && op ≤ 0x63 then snapStep11 m d op r else if 0x68 ≤ op && op ≤ 0x6D then kvStep11 m d op r else none
        match short with
        | some n => some (n.1, n.2, false)
        | none =>
          let watch := ((watchMatch d e.partition r).map fun w => outExt w.buffer (128 * w.records)).toList
          if o.isNone && !draftsFit d (draftFrames m d (opExtents m d op r ++ [outExt (wordAt r 1) 32] ++ watch)) then some (0x16, 0x03, false) else none
/-! ### Tasks' operations: what runs to its end, with which value, and what the package then is -/

/-- An operation runs to its end: it neither waits nor stops. -/
def ran {α : Type} (a : Acc α) (d : Dp) : Bool := (a.run.run d).1.toOption.isSome

/-- The data plane that an operation leaves. -/
def after {α : Type} (a : Acc α) (d : Dp) : Dp := (a.run.run d).2

/-- The value that an operation yields. -/
def got {α : Type} [Inhabited α] (a : Acc α) (d : Dp) : α := (a.run.run d).1.toOption.getD default

/-- A task of an opcode ends with a result in a data plane; its command answers the next state, and the package's management state is as it was. -/
def Ends (c : Instr) (s : State) (id : Nat) (r : Result) (d : Dp) : Prop := exec c s = .next { s with dp := settle s.mgt (concludeTask id r d) }

/-- The n-th draw from a generator's value, counted from 0: a step, then 16 bits of the new value (R191, R192). -/
def drawAt (g : BitVec 32) (n : Nat) : Nat := (Config.drawBits (Nat.repeat Config.xorshift (n + 1) g)).toNat

/-- The generator with which a task begins to round: its seed, or the one its context holds (R192). -/
def startValue (d : Dp) (id seed : Nat) : BitVec 32 := if seed = 0 then (generator d id).2.2 else BitVec.ofNat 32 seed

/-- The data plane after a task has loaded its seed and drawn n times (R192). -/
def drawn (d : Dp) (id seed : Nat) (sr : Bool) (n : Nat) : Dp :=
  if sr then setGenerator id (Nat.repeat Config.xorshift n (startValue d id seed)) d else if seed = 0 then d else setGenerator id (BitVec.ofNat 32 seed) d

/-- Element j of row i of what was read, as a value. -/
def at_ (x : List (List FVal)) (i j : Nat) : FVal := (x.getD i []).getD j fzero

/-- A task's progress. -/
def prog (d : Dp) (id : Nat) : Progress := ((d.task id).map (·.prog)).getD default

/-- A task with its progress changed. -/
def withProg (id : Nat) (f : Progress → Progress) (d : Dp) : Dp := modTask id (fun t => { t with prog := f t.prog }) d

/-- What ROUTE does when a step of it ends: in stage 5 with every close answered it waits for its return tally without a context; with a MISMATCH on all that is open it waits for the retry without one; else its context waits (R178, R222). -/
def routeRests (m : Mgt) (id work : Nat) (d : Dp) : Dp :=
  let p := prog d id
  if p.stage = 5 ∧ p.pend = [] then beginWait m id work p.count .waitReturn (freeCtx m id (modTask id (fun t => { t with phase := 2 }) d))
  else if p.retry ≠ [] ∧ ∀ x ∈ p.pend, ∃ r ∈ p.retry, r.1 = x.2.2.1 then freeCtx m id (modTask id (fun t => { t with state := .waitBank }) d)
  else stallTask m id d

/-! ### Whist: what a message carries, who suspects, and what a verdict begins with -/

/-- A sound LEASE flit that carries a Whist message in its bytes 8 to 71 (R339, R383). -/
def CarriesWhist (f : Bytes) (w : Whist) : Prop := flitSound f = true ∧ fieldAt f 0 63 60 = 5 ∧ (f.drop 8).take 64 = whistBytes w

/-- Nothing has changed but what Whist knows. -/
def OnlyWhist (s t : State) : Prop := t = { s with dp := { s.dp with fab := { s.dp.fab with whist := t.dp.fab.whist } } }

/-- How many packages of a member's lease set, this package aside, are held to suspect it (R384). -/
def suspecters (d : Dp) (x : Member) : Nat :=
  ((d.fab.whist.suspicions.filter fun y => y.1 = x.id && y.2.1 ∈ x.set).map (·.2.1)).eraseDups.length

/-- A verdict as it is taken: it is logged and kept with the epoch now stamped, and every suspicion of its subject is dropped (R384). -/
def taken (m : Mgt) (k : Nat) (d : Dp) : Dp :=
  let d := logEvent m 4 9 6 none k 0 0 [k, 3] d
  let w := d.fab.whist
  { d with fab := { d.fab with whist := { w with verdicts := (k, m.comp.stamp) :: w.verdicts, suspicions := w.suspicions.filter (·.1 ≠ k) } } }

/-- A package has become FENCED: every task without a result has ended ABORTED, detail 0x02, with no watch left to it; memory, lines, hosts and what the package has sent are as they were (R386). -/
def Fenced (d d' : Dp) : Prop :=
  d'.fab = { d.fab with whist := { d.fab.whist with fenced := true } } ∧ d'.store = d.store ∧ d'.coh = d.coh ∧ d'.hosts = d.hosts ∧ d'.out = d.out ∧ d'.tasks.slots = d.tasks.slots
  ∧ (∀ (id : Nat) (k : Task), d.task id = some k → ∃ k', d'.task id = some k' ∧ k'.record = k.record ∧ k'.result = some (k.result.getD ⟨0x30, 0x02, 0, 0, 0⟩))
  ∧ ∀ w ∈ d'.tasks.watches, w ∈ d.tasks.watches ∧ ∀ k ∈ d.tasks.tasks, w.task ≠ some k.id

/-- The package holds nothing of another one but requests to it: no line of its home, no pointer to it, no snoop it must answer, no slot of its own, no guard on it. -/
abbrev NoTrace (m : Mgt) (d : Dp) (k : Nat) : Prop :=
  (∀ x ∈ d.coh.remote, x.line / 2 ^ 44 ≠ k) ∧ (∀ e ∈ d.coh.dir, k ∉ e.ptrs) ∧ (∀ t ∈ d.coh.trackers, ∀ n ∈ t.snoops, n.holder ≠ .pkg k)
  ∧ (∀ e ∈ (m.image.map (·.slots)).getD [], e.owner ≠ k) ∧ m.partner ≠ some k ∧ m.atPosition 8 ≠ some k ∧ m.atPosition 9 ≠ some k

/-! ### Host ports: a port in another form, its reset, and what its reads and writes do -/

/-- A state with one host port in a given form, and everything else as it was. -/
def hostPortSet (s : State) (p : Fin 2) (h : HostPort) : State :=
  { s with dp := { s.dp with hosts := { s.dp.hosts with ports := s.dp.hosts.ports.set p.val h } } }

/-- A port's registers after a reset of its function: the sticky ones and its counts stay, and every other field a host may write is as after RESET_N (R325, step 1). -/
def unconfigured (h : HostPort) (mode width speed : Nat) (perst resetting : Bool) : HostPort :=
  { h with
    mode := mode, width := width, speed := speed, perst := perst, resetting := resetting
    memEnable := false, busMaster := false, bar0 := 0, bar2 := 0, bar4 := 0, ats := false, bi := false, d3 := false
    timeoutUs := HostPort.reset.timeoutUs, maxPayload := HostPort.reset.maxPayload, maxRead := HostPort.reset.maxRead, decoders := [] }

/-- What a reset of a port's function does: the port's form, no host read under way, every translation of its outbound windows invalidating and one invalidation for each window, without an answer; leases, slots, views and all else stay (R325). -/
def FunctionReset (s : State) (p : Fin 2) (h : HostPort) (r : Host.Outcome State Fault Refusal) : Prop :=
  let ws := s.mgt.windows.filter fun w => w.outbound && w.port = p.val
  ∃ (t : State) (new : List Inval), r = .next t ∧ t.dp.hosts.ports = s.dp.hosts.ports.set p.val h ∧ t.dp.hosts.hostReads = s.dp.hosts.hostReads.filter (·.port ≠ p.val)
  ∧ t.dp.hosts.caches = s.dp.hosts.caches.map (fun x =>
      if x.port = p.val ∧ ∃ w ∈ ws, x.page < w.hostBase + w.lengthGib * 2 ^ 30 ∧ w.hostBase < x.page + x.bytes then { x with invalidating := true } else x)
  ∧ t.dp.hosts.invals = s.dp.hosts.invals ++ new ∧ new.map (fun v => (v.port, v.base, v.bytes, v.answer)) = ws.map (fun w => (p.val, w.hostBase, w.lengthGib * 2 ^ 30, false))
  ∧ t.mgt = s.mgt ∧ t.pending = s.pending ∧ { t.dp with hosts := s.dp.hosts } = s.dp
  ∧ { t.dp.hosts with ports := s.dp.hosts.ports, hostReads := s.dp.hosts.hostReads, caches := s.dp.hosts.caches, invals := s.dp.hosts.invals } = s.dp.hosts

/-- A refused read: logged, and answered with Unsupported Request, or for CXL.mem with poisoned data (R319, Table 2). -/
def readRefused (m : Mgt) (p : Fin 2) (tag bytes : Nat) (cxl : Bool) (part : Option Nat) (addr window : Nat) (d : Dp) : Dp :=
  let d := logRefused m part addr window 0 d
  if cxl then hostAnswer m p.val tag 2 (zeros bytes) (part.getD 0) 0 d else hostAnswer m p.val tag 1 [] (part.getD 0) 0 (aerUncorrectable p.val 20 d)

/-- What a host read at a host address does: refused outside the windows and where its place is not open to it; else one request for each line, to the home here or in another package (R58, R123, R319). -/
def HostReads (s : State) (p : Fin 2) (host bytes tag : Nat) (cxl : Bool) (code : Nat) (r : Host.Outcome State Fault Refusal) : Prop :=
  let m := s.mgt
  match windowAt m p.val host with
  | none => r = .next { s with dp := settle m (readRefused m p tag bytes cxl none 0 255 s.dp) }
  | some (i, w) =>
    let addr := w.poolBase + (host - w.hostBase)
    match inbound m s.dp w addr false with
    | .refused => r = .next { s with dp := settle m (readRefused m p tag bytes cxl (some w.partition) addr i s.dp) }
    | .badView g => r = .next { s with dp := settle m (hostAnswer m p.val tag 2 (zeros bytes) w.partition 0 (logEvent m 1 7 6 (some w.partition) 0 0 addr [g, p.val] s.dp)) }
    | .served g =>
      let cls := ((m.region g).map (·.cls)).getD 0
      let noted := { s.dp with hosts := { s.dp.hosts with hostReads := s.dp.hosts.hostReads ++ [⟨p.val, tag, addr, bytes, cxl, cls, m.clk.ltb, w.partition, [], false⟩] } }
      r = .next { s with dp := settle m (closeHostReads m ((linesOf addr bytes).foldl (fun d l =>
        arriveAt m (.host p) { m.newMsg code m.self w.partition cls l 0 [] with origin := if cxl then 1 else 0, txn := tag } d) noted)) }
    | .away =>
      let noted := { s.dp with hosts := { s.dp.hosts with hostReads := s.dp.hosts.hostReads ++ [⟨p.val, tag, addr, bytes, cxl, w.cls, m.clk.ltb, w.partition, [], false⟩] } }
      r = .next { s with dp := settle m (closeHostReads m ((linesOf addr bytes).foldl (fun d l =>
        issue m (.host p) (m.newMsg 0x05 (addr / 2 ^ 50) w.partition w.cls l 0 []) d) noted)) }

/-- What a host write at a host address does, its lines given with their bytes and masks: a whole line is a WRITE_LINE, another a WRITE_PART, each counted and poisoned where the write was; refused, it is logged and discarded, and answered for CXL.mem alone (R319, R324). -/
def HostWrites (s : State) (p : Fin 2) (host : Nat) (ls : Nat → List (Nat × Bytes × Nat)) (poison cxl : Bool) (d : Dp) (r : Host.Outcome State Fault Refusal) : Prop :=
  let m := s.mgt
  let done := fun (part : Nat) (d : Dp) => if cxl then hostAnswer m p.val 0 0 [] part 0 d else d
  match windowAt m p.val host with
  | none => r = .next { s with dp := settle m (done 0 (logRefused m none 0 255 1 d)) }
  | some (i, w) =>
    let addr := w.poolBase + (host - w.hostBase)
    let moved := fun (cls : Nat) (x : Nat × Bytes × Nat) (d : Dp) => hostMoved p.val w.partition cls (popBits 64 x.2.2) d
    let line := fun (target cls : Nat) (x : Nat × Bytes × Nat) =>
      { m.newMsg (if x.2.2 = 2 ^ 64 - 1 then 0x06 else 0x07) target w.partition cls x.1 x.2.2 x.2.1 with poison := poison, origin := if cxl then 1 else 0 }
    match inbound m d w addr true with
    | .refused => r = .next { s with dp := settle m (done w.partition (logRefused m (some w.partition) addr i 1 d)) }
    | .badView g => r = .next { s with dp := settle m (done w.partition (logEvent m 1 7 6 (some w.partition) 0 0 addr [g, p.val] d)) }
    | .served g => ∀ cls, cls = ((m.region g).map (·.cls)).getD 0 →
      r = .next { s with dp := settle m ((ls addr).foldl (fun d x => arriveAt m (.host p) (line m.self cls x) (moved cls x d)) d) }
    | .away => r = .next { s with dp := settle m ((ls addr).foldl (fun d x => issue m (.host p) (line (addr / 2 ^ 50) w.cls x) (moved w.cls x d)) d) }

/-! ### What every step keeps of a start -/

/-- The form of the management side that every step keeps: the size table is final exactly while the package runs, an image is in force exactly from its acceptance, training and ENG have ended before that; the debug level is at most the highest since RESET_N and no key stands at Open; ENG moves in whole steps; and at most the first non-volatile write has begun (R20, R427, R429, R483, R516). -/
abbrev WellStarted (m : Mgt) : Prop :=
  (m.far.final = true ↔ m.clk.phase = .running)
  ∧ (m.image.isSome = true ↔ m.clk.phase = .loading ∨ m.clk.phase = .running)
  ∧ (m.far.final = true → m.clk.farDone = true ∧ m.clk.engDone = true)
  ∧ m.sec.level.code ≤ m.sec.highest.code ∧ (m.sec.level = .opened → m.sec.keys = [])
  ∧ m.clk.engMhz % 25 = 0 ∧ (m.pwr.pendingMhz.getD 0) % 25 = 0
  ∧ (∀ o ∈ m.nvm.ops.tail, o.begun = false)

end Sys2Proof.Safety
end

