-- ==== Sys2Proof/Certificates/Slice0/Obligations.lean ====
section
/-! DEFINITION. The statements for the provers, each citing the rules of the spec that it comes from. -/

section

open Sys2Proof Sys2Proof.Machine Sys2Proof.Safety

/-- For every state whose queue has a command at its front, a step is exec of that command on the state with the rest of the queue; with an empty queue a step leaves the state as it is. That an empty queue idles is the model's choice (log entry 1). (spec/INDEX.md, spec/opcode_table.json) -/
def Obligations.StepRunsFrontCommand : Prop :=
  (∀ (s : State) (c : Instr) (rest : List Instr), s.pending = c :: rest → step s = exec c { s with pending := rest })
  ∧ (∀ s : State, s.pending = [] → step s = .next s)

/-- For every command and every state, exec answers a next state, never a fault or a refusal, and the queue of waiting commands is unchanged by it. (spec/opcode_table.json, spec/INDEX.md) -/
def Obligations.EveryCommandAnswers : Prop :=
  ∀ (c : Instr) (s : State), ∃ t : State, exec c s = .next t ∧ t.pending = s.pending

/-- Right after reset the LTB count is 0, ENG is at 1.0 GHz and VCORE at 0.75 V; the directory is empty, every context is FREE, no task and no version stands, every byte reads as zero and no line is poisoned; extended measurements are 64 zero bytes and every alive value is 0x00; the debug port's registers are zero; counters, watch entries and queue samples are off and the error log is empty. (R125, R177, R413, R430, R437, R475, R483, R498, R508) -/
def Obligations.ResetState : Prop :=
  State.reset.mgt.clk.ltb = 0 ∧ State.reset.mgt.clk.engMhz = 1000 ∧ State.reset.mgt.pwr.setPoint = 750
  ∧ State.reset.dp.coh.dir = [] ∧ State.reset.dp.tasks.ctxs = [] ∧ State.reset.dp.tasks.tasks = [] ∧ State.reset.dp.snaps.regions = []
  ∧ (∀ a : Nat, cellGet 0 State.reset.dp.store.mem a = 0) ∧ State.reset.dp.store.poison = [] ∧ Memory.wf State.reset.dp.store.mem = true
  ∧ State.reset.mgt.sec.meas5 = zeros 64 ∧ State.reset.mgt.sec.meas6 = zeros 64 ∧ State.reset.mgt.sec.alive = List.replicate 6 0
  ∧ State.reset.mgt.sec.dbg = DbgPort.reset ∧ State.reset.mgt.image = none
  ∧ State.reset.dp.obs.enable = 0 ∧ State.reset.dp.obs.mode = 0 ∧ State.reset.dp.obs.watch = [] ∧ State.reset.dp.obs.log = []
  ∧ State.reset.dp.fab.sampleTicks = 0 ∧ State.reset.pending = []

/-- In every state each of the four answers a next state in which no image, key, measurement, map, message, region, task, slot, context, watch, version, session, directory entry, tracker, transaction, port, queue, counter or log entry is left: each of these is at its reset value. The straps stand as sampled, what has gone out on the wires stands, and the LTB count is zero but after a thermal trip, where it goes on. THERMTRIP_N is low after a thermal trip, released by a fall of PWROK and otherwise as before. Which of the model's own counters go on is the model's choice (log entry 6). After each of the four resets no non-volatile write waits. With no write begun, fuses and flash are as they were; a fuse burn or page program already begun is finished, so that fuses and flash are as its end leaves them; and of an erase already begun every byte outside its sector of 64 KiB reads as before. (R485, R486, R487, R514, R515) -/
def Obligations.ResetsLoseThePoolAndKeepFlash : Prop :=
  (
  ∀ (s : State) (c : Instr), c ∈ [Instr.resetNFall, .pwrokFall, .brownOut, .thermalTrip] → ∃ t : State, exec c s = .next t
    ∧ t.mgt.image = none ∧ t.mgt.sec = Sec.reset ∧ t.mgt.comp = Comp.reset ∧ t.mgt.tap = Tap.reset ∧ t.mgt.far = Far.reset ∧ t.mgt.parts = []
    ∧ t.dp.store = Store.reset ∧ t.dp.snaps = Snaps.reset ∧ t.dp.coh = Coh.reset ∧ t.dp.fab = Fabric.reset ∧ t.dp.obs = Obs.reset
    ∧ t.dp.tasks = { Tasks.reset with nextTask := s.dp.tasks.nextTask, draws := s.dp.tasks.draws }
    ∧ t.dp.hosts = { Hosts.reset with ports := s.dp.hosts.ports.map fun h => { HostPort.reset with perst := h.perst } }
    ∧ t.dp.out = s.dp.out
    ∧ t.mgt.clk = { Clk.reset with
        phase := if s.mgt.pwr.pwrok = true ∧ c ≠ .pwrokFall then .inReset else .off
        mode48 := s.mgt.clk.mode48, bootSel := s.mgt.clk.bootSel
        ltb := if c = .thermalTrip then s.mgt.clk.ltb else 0 }
    ∧ t.mgt.pwr = { Pwr.reset with
        pwrok := s.mgt.pwr.pwrok && c ≠ .pwrokFall
        thermTrip := if c = .thermalTrip then true else s.mgt.pwr.thermTrip && c ≠ .pwrokFall
        sagVcore := s.mgt.pwr.sagVcore, sagVdd := s.mgt.pwr.sagVdd
        sagPwrok := s.mgt.pwr.sagPwrok || c = .pwrokFall }
  )
  ∧ (
  ∀ (s : State) (c : Instr), c ∈ [Instr.resetNFall, .pwrokFall, .brownOut, .thermalTrip] → ∃ t : State, exec c s = .next t
    ∧ t.mgt.nvm.ops = [] ∧ t.mgt.nvm.writeAsker = none ∧ t.mgt.nvm.chip = s.mgt.nvm.chip ∧ t.mgt.nvm.starts = s.mgt.nvm.starts
    ∧ match s.mgt.nvm.ops with
      | ⟨.erase o, _, true, _⟩ :: _ =>
        t.mgt.nvm.fuses = s.mgt.nvm.fuses ∧ t.mgt.nvm.extra = s.mgt.nvm.extra
        ∧ ∀ a : Nat, a < o ∨ o + 65536 ≤ a → cellGet 0xFF t.mgt.nvm.flash a = cellGet 0xFF s.mgt.nvm.flash a
      | ⟨k, _, true, _⟩ :: _ =>
        t.mgt.nvm.fuses = (Nvm.apply k s.mgt.nvm).fuses ∧ t.mgt.nvm.flash = (Nvm.apply k s.mgt.nvm).flash ∧ t.mgt.nvm.extra = (Nvm.apply k s.mgt.nvm).extra
      | _ => t.mgt.nvm.fuses = s.mgt.nvm.fuses ∧ t.mgt.nvm.flash = s.mgt.nvm.flash ∧ t.mgt.nvm.extra = s.mgt.nvm.extra
  )

/-- Held in reset, or off, and with THERMTRIP_N not low, an internal release takes the board's fuses, flash part and bytes, samples MODE48 and BOOT_SEL, starts the LTB count at 0 with ENG at 1.0 GHz, measures into register 1, and goes on to the firmware, or halts where the certificate chain fails. The data plane but for the error log, and everything else of the management side, stays. In any other state it changes nothing. How a program comes to run from reset is the model's choice (log entry 2). (R409, R413, R482, R484, R487, R491, R508, R514) -/
def Obligations.InternalReleaseRunsBootRom : Prop :=
  ∀ (s : State) (mode48 : Bool) (bootSel : Fin 4) (board : Option Board), ∃ t : State, exec (.internalRelease mode48 bootSel board) s = .next t
    ∧ (if (s.mgt.clk.phase = .inReset ∨ s.mgt.clk.phase = .off) ∧ s.mgt.pwr.thermTrip = false then
        let b := board.getD Board.same
        t.mgt.nvm = { Nvm.mount b s.mgt.nvm with starts := s.mgt.nvm.starts + 1 }
        ∧ t.mgt.nvm.fuses = b.fuses.getD s.mgt.nvm.fuses ∧ t.mgt.nvm.chip = b.chip.getD s.mgt.nvm.chip
        ∧ t.mgt.clk.mode48 = mode48 ∧ t.mgt.clk.bootSel = bootSel.val ∧ t.mgt.clk.ltb = 0 ∧ t.mgt.clk.engMhz = 1000 ∧ t.mgt.clk.copiesTried = 0
        ∧ t.mgt.clk.phase = (if chainOk t.mgt.nvm.fuses then .firmware else .halted)
        ∧ t.mgt.sec.meas1 = sha512 (b.bootRom ++ Config.bootItem t.mgt.nvm.fuses.fwRevoked t.mgt.nvm.fuses.fwCounter t.mgt.nvm.fuses.imageCounter t.mgt.nvm.fuses.ownerHash)
        ∧ { t.mgt.sec with meas1 := s.mgt.sec.meas1 } = s.mgt.sec
        ∧ t.mgt.pwr = { s.mgt.pwr with pwrok := true, avsAnswers := b.avsAnswers, warnMilliamps := b.vcoreWarnMilliamps }
        ∧ t.mgt.image = s.mgt.image ∧ t.mgt.comp = s.mgt.comp ∧ t.mgt.far = s.mgt.far ∧ t.mgt.parts = s.mgt.parts ∧ t.mgt.tap = s.mgt.tap
        ∧ { t.dp with obs := s.dp.obs } = s.dp
      else t = s)

/-- While firmware copies are tried, with the flash clock running and a copy left in the order of the straps: a copy that passes every check is measured into register 2 and run, after which the package tries images, or holds where BOOT_SEL is 11 or SEC.OWNER_HASH is blank; a copy that fails a check is logged with its copy and the first cause it fails with, and the next is tried, or the package halts when none is left. Nothing else of the clock, the flash or the store changes. While image copies are tried, with the flash clock running and a copy left in the order of the straps: a copy that passes every check is accepted, measured into register 3, put in force with its map, its starting debug level, its partitions' attach states and its partitions' keys, and the package is LOADING with its declared slots UNBOUND, its SNAPSHOT regions at version 1 and its observation mode; a copy that fails is logged with its copy and cause and the next is tried, or the package holds when none is left. (R411, R413, R488, R489, R490, R491, R492, R419, R428, R483, R493, R509) -/
def Obligations.FirmwareAndImageCopiesAreTried : Prop :=
  (
  ∀ (s : State) (copyB : Bool), s.mgt.clk.phase = .firmware → s.mgt.pwr.sagVdd = false
    → (copyOrder s.mgt.clk.bootSel)[s.mgt.clk.copiesTried]? = some copyB
    → ∃ t : State, exec .firmwareCopyRead s = .next t
      ∧ t.mgt.nvm = s.mgt.nvm ∧ t.mgt.pwr = s.mgt.pwr ∧ t.mgt.clk.ltb = s.mgt.clk.ltb ∧ t.mgt.clk.bootSel = s.mgt.clk.bootSel
      ∧ t.mgt.comp = s.mgt.comp ∧ t.mgt.image = s.mgt.image ∧ { t.dp with obs := s.dp.obs } = s.dp
      ∧ match (if FlashChip.usable s.mgt.nvm.chip then firmwareCause s.mgt.nvm.fuses (firmwareBytes s.mgt.nvm copyB) else some 0x11) with
        | none =>
          t.mgt.sec.meas2 = sha512 (firmwareBytes s.mgt.nvm copyB) ∧ t.mgt.clk.copiesTried = 0 ∧ t.dp.obs.log = s.dp.obs.log
          ∧ (if s.mgt.clk.bootSel = 3 ∨ s.mgt.nvm.fuses.ownerHash = none then
              t.mgt.clk.phase = .held ∧ t.mgt.sec.level = .opened ∧ t.mgt.sec.highest = .opened ∧ t.mgt.sec.keys = [] ∧ t.dp.obs.mode = 2
            else t.mgt.clk.phase = .image ∧ t.mgt.sec.level = s.mgt.sec.level ∧ t.mgt.sec.keys = s.mgt.sec.keys ∧ t.dp.obs = s.dp.obs)
        | some cause =>
          t.mgt.sec = s.mgt.sec ∧ t.mgt.clk.copiesTried = s.mgt.clk.copiesTried + 1
          ∧ t.mgt.clk.phase = (if s.mgt.clk.copiesTried + 1 < (copyOrder s.mgt.clk.bootSel).length then .firmware else .halted)
          ∧ ∃ e : LogEntry, t.dp.obs.log.head? = some e ∧ e.severity = 3 ∧ e.block = 0x10 ∧ e.event = 1 ∧ e.ltb = s.mgt.clk.ltb
            ∧ e.detail = [(if copyB then 3 else 2) * 2 ^ 56 + cause]
  )
  ∧ (
  ∀ (s : State) (copyB : Bool), s.mgt.clk.phase = .image → s.mgt.pwr.sagVdd = false
    → (copyOrder s.mgt.clk.bootSel)[s.mgt.clk.copiesTried]? = some copyB
    → ∃ t : State, exec .imageCopyRead s = .next t
      ∧ t.mgt.nvm = s.mgt.nvm ∧ t.mgt.clk.ltb = s.mgt.clk.ltb ∧ t.mgt.clk.bootSel = s.mgt.clk.bootSel
      ∧ t.dp.store = s.dp.store ∧ t.dp.coh = s.dp.coh
      ∧ match imageCause s.mgt.nvm.fuses s.mgt.nvm.chip.bytes (copyBytes s.mgt.nvm copyB) with
        | none =>
          let i := readImage copyB (copyBytes s.mgt.nvm copyB)
          t.mgt.image = some i ∧ t.mgt.clk.phase = .loading ∧ t.mgt.sec.meas3 = sha512 i.raw
          ∧ t.mgt.sec.level = (if i.pkg.debugStart = 1 then .observe else .sealed) ∧ t.mgt.sec.highest = t.mgt.sec.level
          ∧ t.mgt.sec.keys = deriveKeys s.mgt i.regions
          ∧ t.mgt.comp.maps = i.map.toList ∧ t.mgt.comp.stamp = 0
          ∧ t.mgt.parts = i.parts.map (fun p => (p.id, if p.attached then 1 else 0))
          ∧ t.dp.tasks.slots = i.slots.map (fun e => ⟨e.number, .unbound, 0, 0⟩)
          ∧ t.dp.snaps.regions = (i.regions.filter (·.kind = 2)).map (fun r => freshSnap r.id)
          ∧ t.dp.obs.mode = i.pkg.modeStart ∧ t.dp.obs.enable = i.pkg.obsEnable ∧ t.dp.obs.watch = i.watch
        | some cause =>
          t.mgt.image = s.mgt.image ∧ t.mgt.clk.copiesTried = s.mgt.clk.copiesTried + 1
          ∧ (∃ e : LogEntry, t.dp.obs.log.head? = some e ∧ e.severity = 3 ∧ e.block = 0x10 ∧ e.event = 1
            ∧ e.detail = [(if copyB then 1 else 0) * 2 ^ 56 + cause])
          ∧ (if s.mgt.clk.copiesTried + 1 < (copyOrder s.mgt.clk.bootSel).length then t.mgt.clk.phase = .image ∧ t.mgt.sec = s.mgt.sec
            else t.mgt.clk.phase = .held ∧ t.mgt.sec.level = .opened ∧ t.mgt.sec.keys = [] ∧ t.dp.obs.mode = 2)
  )

/-- While LOADING and before the far tier has trained, FAR_TIER_TRAINED sets the far tier's size and rate from the DIMMs, holds absent the regions that do not fit or cannot be placed, and marks far-tier training as ended; the image, keys and store stay. While LOADING, once far-tier training and the raising of ENG have ended, START_COMPLETE sets CLU.SIZES_FINAL, fills the free store with what no region covers and what tags do not take, and the package is RUNNING. (R20, R27, R32, R39, R493, R497) -/
def Obligations.StartEndsInRunning : Prop :=
  (∀ (s : State) (dimms : List Dimm), s.mgt.clk.phase = .loading → s.mgt.clk.farDone = false
    → ∃ t : State, exec (.farTierTrained dimms) s = .next t
      ∧ t.mgt.clk = { s.mgt.clk with farDone := true }
      ∧ t.mgt.far = { (trainFar s.mgt.pkg.mrdimm s.mgt.pkg.farMtsCap dimms).far [] with absent := absentRegions { s.mgt with far := (trainFar s.mgt.pkg.mrdimm s.mgt.pkg.farMtsCap dimms).far [] } }
      ∧ t.mgt.image = s.mgt.image ∧ t.mgt.sec = s.mgt.sec ∧ t.mgt.nvm = s.mgt.nvm ∧ t.mgt.pwr = s.mgt.pwr ∧ { t.dp with obs := s.dp.obs } = s.dp)
  ∧ (∀ s : State, s.mgt.clk.phase = .loading → s.mgt.clk.farDone = true → s.mgt.clk.engDone = true
    → ∃ t : State, exec .startComplete s = .next t
      ∧ t.mgt.clk = { s.mgt.clk with phase := .running } ∧ t.mgt.far = { s.mgt.far with final := true }
      ∧ t.mgt.image = s.mgt.image ∧ t.mgt.sec = s.mgt.sec ∧ t.mgt.comp = s.mgt.comp ∧ t.mgt.parts = s.mgt.parts ∧ t.mgt.nvm.fuses = s.mgt.nvm.fuses
      ∧ t.dp.store = { s.dp.store with free := freeExtents s.mgt, heatTick := s.mgt.clk.ltb }
      ∧ t.dp.tasks.idleSince = s.mgt.clk.ltb ∧ t.dp.coh = s.dp.coh ∧ t.dp.hosts = s.dp.hosts ∧ t.dp.out = s.dp.out)

/-- Commanding VCORE makes the voltage commanded the set point, and the set point of the thresholds is then the lower of the old and new ones. It stays so over an expiry of less than 100 µs and over the 50 µs at which a clock moves without a report; from the regulator's report on, and from 100 µs after the command on, it is the set point. (R510) -/
def Obligations.SagThresholdUsesLowerSetPoint : Prop :=
  (∀ (m : Mgt) (d : Dp) (mv : Nat) (f : Option Nat),
    (commandVcore mv f m d).1.pwr.setPoint = mv ∧ (commandVcore mv f m d).1.pwr.thresholdPoint = min m.pwr.setPoint mv)
  ∧ (∀ (s : State) (t0 : Nat), s.mgt.pwr.commandTick = some t0 → ∃ t : State, exec .setPointSettleExpiry s = .next t
    ∧ t.mgt.pwr.setPoint = s.mgt.pwr.setPoint ∧ t.mgt.clk = s.mgt.clk ∧ t.dp = s.dp
    ∧ t.mgt.pwr.thresholdPoint = if t0 + 10000 ≤ s.mgt.clk.ltb then s.mgt.pwr.setPoint else min s.mgt.pwr.oldSetPoint s.mgt.pwr.setPoint)
  ∧ (∀ (s : State) (t0 : Nat), s.mgt.pwr.commandTick = some t0 → ∃ t : State, exec .avsVoltageReached s = .next t
    ∧ t.mgt.pwr.setPoint = s.mgt.pwr.setPoint ∧ t.dp = s.dp
    ∧ t.mgt.pwr.thresholdPoint = if s.mgt.pwr.pendingMhz = none ∨ s.mgt.clk.ltb < t0 + 5000 then s.mgt.pwr.setPoint else min s.mgt.pwr.oldSetPoint s.mgt.pwr.setPoint)

/-- ENG_CLOCK_STEP while LOADING raises ENG by 25 MHz at once within a band of AVS, and commands VCORE first across a band's boundary; AVS_VOLTAGE_REACHED sets the clock that waited. In every state, a POWER_CONTROL_TICK or an ENG_CLOCK_STEP that changes ENG moves it by one 25 MHz step, down only from above 1.0 GHz, and only where at least 10 µs have passed since the last change. Out of reset, or after a thermal trip, a tick adds exactly one to the LTB count and changes nothing else of the clocks, power, security, composition, image and test access; with an image in force every log entry that awaits the flash has joined the queue of writes. In reset with THERMTRIP_N released the state stands. (R483, R509, R512, R455, R482, R514) -/
def Obligations.EngAndLtbMoveStepByStep : Prop :=
  (
  (∀ s : State, s.mgt.clk.phase = .loading → s.mgt.clk.engDone = false → s.mgt.pwr.pendingMhz = none → s.mgt.clk.engLast + 1000 ≤ s.mgt.clk.ltb
    → ∃ t : State, exec .engClockStep s = .next t
      ∧ (if (s.mgt.clk.engMhz + 25 - 1000) / 100 = (s.mgt.clk.engMhz - 1000) / 100 then
          t.mgt.clk.engMhz = s.mgt.clk.engMhz + 25 ∧ t.mgt.clk.engLast = s.mgt.clk.ltb ∧ t.mgt.pwr = s.mgt.pwr ∧ t.dp = s.dp
        else
          t.mgt.clk = s.mgt.clk ∧ t.mgt.pwr.pendingMhz = some (s.mgt.clk.engMhz + 25) ∧ t.mgt.pwr.commandTick = some s.mgt.clk.ltb
          ∧ t.mgt.pwr.setPoint = bandSetPoint s.mgt.nvm.fuses (s.mgt.clk.engMhz + 25) ∧ t.dp.out = s.dp.out ++ [.avs t.mgt.pwr.setPoint]))
  ∧ (∀ (s : State) (f t0 : Nat), s.mgt.pwr.pendingMhz = some f → s.mgt.pwr.commandTick = some t0
    → ∃ t : State, exec .avsVoltageReached s = .next t ∧ t.mgt.clk.engMhz = f ∧ t.mgt.clk.engLast = s.mgt.clk.ltb ∧ t.mgt.pwr.pendingMhz = none
      ∧ t.mgt.clk.engDone = (s.mgt.clk.engDone || decide (1900 ≤ f)) ∧ t.dp = s.dp)
  ∧ (∀ (s : State) (x : Sensed) (c : Instr) (t : State), c = .powerControlTick x ∨ c = .engClockStep → exec c s = .next t → t.mgt.clk.engMhz ≠ s.mgt.clk.engMhz
    → s.mgt.clk.engLast + 1000 ≤ s.mgt.clk.ltb ∧ t.mgt.clk.engLast = s.mgt.clk.ltb
      ∧ (t.mgt.clk.engMhz = s.mgt.clk.engMhz + 25 ∨ (t.mgt.clk.engMhz + 25 = s.mgt.clk.engMhz ∧ 1000 < s.mgt.clk.engMhz)))
  )
  ∧ (
  ∀ s : State, ∃ t : State, exec .ltbTick s = .next t
    ∧ (if (s.mgt.clk.phase = .inReset ∨ s.mgt.clk.phase = .off) ∧ s.mgt.pwr.thermTrip = false then t = s
      else
        t.mgt.clk = { s.mgt.clk with ltb := s.mgt.clk.ltb + 1 } ∧ t.mgt.pwr = s.mgt.pwr ∧ t.mgt.sec = s.mgt.sec ∧ t.mgt.comp = s.mgt.comp
        ∧ t.mgt.image = s.mgt.image ∧ t.mgt.tap = s.mgt.tap ∧ t.mgt.far = s.mgt.far ∧ t.mgt.nvm.fuses = s.mgt.nvm.fuses ∧ t.mgt.nvm.flash = s.mgt.nvm.flash
        ∧ (s.mgt.image ≠ none → t.dp.obs.flashDue = []) ∧ (s.mgt.image = none → t.dp = s.dp))
  )

/-- While LOADING or RUNNING a power control tick stores the sensor temperatures and the VCORE power of the interval. Where a current, power, temperature or regulator cause holds, its tick is kept and the raising of a start ends; above 1.0 GHz, with 10 µs passed since the last change, ENG falls by 25 MHz. With no cause while RUNNING, ENG rises by 25 MHz, or VCORE is commanded for it, only where no cause has held for 1 ms, current and power are below 97 % of their limits, and ENG is below 1.9 GHz. PMBUS_POLL_ROUND stores each regulator's reading, or the nominal figure of one that does not answer, and PMBUS_ALERT each status word, out of reset and halt. (R512, R513, R511) -/
def Obligations.PowerControlActsOnItsFirstCause : Prop :=
  (∀ (s : State) (x : Sensed), s.mgt.clk.phase = .loading ∨ s.mgt.clk.phase = .running → ∃ t : State, exec (.powerControlTick x) s = .next t
    ∧ t.mgt.pwr.temps = x.dieTemps ++ x.hbmTemps
    ∧ t.mgt.pwr.powerWindow = (railPower s.mgt.pwr x.vcoreMilliamps :: s.mgt.pwr.powerWindow).take 100
    ∧ t.mgt.image = s.mgt.image ∧ t.mgt.sec = s.mgt.sec ∧ t.mgt.clk.ltb = s.mgt.clk.ltb ∧ { t.dp with obs := s.dp.obs, out := s.dp.out } = s.dp
    ∧ (if powerCause (sense x s.mgt).pwr x ≠ 0 then
        t.mgt.pwr.causeTick = s.mgt.clk.ltb ∧ t.mgt.clk.engDone = true
        ∧ t.mgt.clk.engMhz = (if 1000 < s.mgt.clk.engMhz ∧ s.mgt.clk.engLast + 1000 ≤ s.mgt.clk.ltb then s.mgt.clk.engMhz - 25 else s.mgt.clk.engMhz)
      else
        t.mgt.pwr.causeTick = s.mgt.pwr.causeTick
        ∧ (t.mgt.clk.engMhz ≠ s.mgt.clk.engMhz → t.mgt.clk.engMhz = s.mgt.clk.engMhz + 25 ∧ s.mgt.clk.engMhz < 1900
          ∧ s.mgt.pwr.causeTick + 100000 ≤ s.mgt.clk.ltb ∧ x.vcoreMilliamps * 100 < s.mgt.pwr.currentLimit * 97
          ∧ (∀ c ∈ x.dieTemps, c < 960) ∧ (∀ c ∈ x.hbmTemps, c < 910))))
  ∧ (∀ (s : State) (r : List (Option (Nat × Nat))), s.mgt.clk.phase ∉ [Phase.inReset, .off, .halted] → s.mgt.pwr.sagVdd = false
    → ∃ t : State, exec (.pmbusPollRound r) s = .next t ∧ t = { s with mgt := t.mgt } ∧ { t.mgt.pwr with rails := s.mgt.pwr.rails } = s.mgt.pwr
      ∧ ∀ i : Fin 8, t.mgt.pwr.rails[i.val]? = some ((r.getD i.val none).getD ((nominalRails s.mgt.pwr).getD i.val (0, 0))))
  ∧ (∀ (s : State) (w : List (Option (BitVec 16))), s.mgt.clk.phase ∉ [Phase.inReset, .off, .halted]
    → ∃ t : State, exec (.pmbusAlert w) s = .next t ∧ t = { s with mgt := t.mgt } ∧ { t.mgt.pwr with words := s.mgt.pwr.words } = s.mgt.pwr
      ∧ ∀ (i : Nat) (x : BitVec 16), s.mgt.pwr.words[i]? = some x → t.mgt.pwr.words[i]? = some ((w.getD i none).getD x))

/-- With a rail named and no operational message waiting, a sag's begin records it, keeps every write that has begun, suspending an erase, and drops counter burns and log appends that have not begun; no write that had not begun is begun. With a sag in force and no request waiting on I3C, its end clears every sag flag, and out of reset the write at the front of the queue is begun and no longer suspended. With a begun and not suspended write at the front of the queue and the flash in canonical form, its end takes it off the queue and gives it its effect and no other: a counter burn sets its bit of that counter, a program makes its bytes read as given and every other byte as before, an erase makes its 64 KiB sector read 0xFF and every other byte as before, and a debug burn sets its bit of its fuse word. The flash keeps its canonical form. (R515, R516, R517, R455, R411, R414, R415, R477) -/
def Obligations.NonvolatileWritesTakeEffectOutsideSags : Prop :=
  (
  (∀ (s : State) (vcore vdd : Bool), vcore = true ∨ vdd = true → s.mgt.comp.accepted = none → ∃ t : State, exec (.supplySagBegin vcore vdd) s = .next t
    ∧ t.mgt.pwr = { s.mgt.pwr with sagVcore := s.mgt.pwr.sagVcore || vcore, sagVdd := s.mgt.pwr.sagVdd || vdd }
    ∧ t.mgt.clk = s.mgt.clk ∧ t.mgt.sec = s.mgt.sec ∧ t.mgt.comp = s.mgt.comp
    ∧ t.mgt.nvm.flash = s.mgt.nvm.flash ∧ t.mgt.nvm.fuses = s.mgt.nvm.fuses ∧ t.dp.obs.flashDue = []
    ∧ (∀ o ∈ t.mgt.nvm.ops, ∃ o' ∈ s.mgt.nvm.ops, o.kind = o'.kind ∧ o.origin = o'.origin ∧ o.begun = o'.begun)
    ∧ (∀ o ∈ s.mgt.nvm.ops, o.begun = true → ∃ o' ∈ t.mgt.nvm.ops, o'.kind = o.kind ∧ o'.origin = o.origin ∧ o'.begun = true)
    ∧ (∀ o ∈ t.mgt.nvm.ops, o.origin = .counter → o.begun = true))
  ∧ (∀ s : State, s.mgt.sag = true → s.mgt.sec.i3cHeld = [] → ∃ t : State, exec .supplySagEnd s = .next t
    ∧ t.mgt.sag = false ∧ t.mgt.clk = s.mgt.clk ∧ t.mgt.sec = s.mgt.sec ∧ t.dp = s.dp
    ∧ t.mgt.nvm.ops.map (·.kind) = s.mgt.nvm.ops.map (·.kind)
    ∧ (s.mgt.clk.phase ≠ .inReset → s.mgt.clk.phase ≠ .off → ∀ o ∈ t.mgt.nvm.ops.head?, o.begun = true ∧ o.suspended = false))
  )
  ∧ (
  ∀ (s : State) (o : NvOp) (rest : List NvOp), s.mgt.nvm.ops = o :: rest → o.begun = true → o.suspended = false → cellWf 0xFF s.mgt.nvm.flash = true
    → ∃ t : State, exec .nonvolatileWriteDone s = .next t
      ∧ t.mgt.nvm.ops.map (·.kind) = rest.map (·.kind) ∧ cellWf 0xFF t.mgt.nvm.flash = true
      ∧ t.mgt.clk = s.mgt.clk ∧ t.mgt.pwr = s.mgt.pwr ∧ t.mgt.image = s.mgt.image ∧ t.dp.store = s.dp.store ∧ t.dp.tasks = s.dp.tasks
      ∧ match o.kind with
        | .burnFw b =>
          t.mgt.nvm.fuses = { s.mgt.nvm.fuses with fwCounter := s.mgt.nvm.fuses.fwCounter ||| BitVec.ofNat 64 (2 ^ b) } ∧ t.mgt.nvm.flash = s.mgt.nvm.flash
        | .burnImage b =>
          t.mgt.nvm.fuses = { s.mgt.nvm.fuses with imageCounter := s.mgt.nvm.fuses.imageCounter ||| BitVec.ofNat 128 (2 ^ b) } ∧ t.mgt.nvm.flash = s.mgt.nvm.flash
        | .burnFuse w b =>
          { t.mgt.nvm.fuses with ownerHash := s.mgt.nvm.fuses.ownerHash } = s.mgt.nvm.fuses ∧ t.mgt.nvm.flash = s.mgt.nvm.flash
          ∧ assoc t.mgt.nvm.extra w = some ((assoc s.mgt.nvm.extra w).getD 0 ||| BitVec.ofNat 64 (2 ^ b))
          ∧ ∀ w' : Nat, w' ≠ w → assoc t.mgt.nvm.extra w' = assoc s.mgt.nvm.extra w'
        | .program a bs =>
          t.mgt.nvm.fuses = s.mgt.nvm.fuses
          ∧ ∀ x : Nat, cellGet 0xFF t.mgt.nvm.flash x = if a ≤ x ∧ x < a + bs.length then bs.getD (x - a) 0 else cellGet 0xFF s.mgt.nvm.flash x
        | .erase a =>
          t.mgt.nvm.fuses = s.mgt.nvm.fuses
          ∧ ∀ x : Nat, cellGet 0xFF t.mgt.nvm.flash x = if a ≤ x ∧ x < a + 65536 then 0xFF else cellGet 0xFF s.mgt.nvm.flash x
  )

/-- Once accepted, MAP_PREPARE adds the map it carries to the maps held and stamps nothing; MAP_SWITCH stamps the epoch it names and extends measurement 6 with that map, and drops none; MAP_RETIRE keeps only the maps of the epoch stamped. None of them changes the image, the clocks, the fuses or flash, the attach states, the debug level, the keys or the first five measurements but 5. (R146, R359, R382, R413, R469, R475) -/
def Obligations.MapMessagesMoveEpochs : Prop :=
  (∀ (s : State) (a : Accepted), s.mgt.comp.accepted = some a → a.code = 0x10 → ∃ t : State, exec .mapPrepare s = .next t
    ∧ t.mgt.comp.maps = s.mgt.comp.maps ++ [readMap a.body] ∧ t.mgt.comp.stamp = s.mgt.comp.stamp ∧ t.mgt.comp.switched = s.mgt.comp.switched
    ∧ t.mgt.sec.meas6 = s.mgt.sec.meas6 ∧ SameBase s t)
  ∧ (∀ (s : State) (a : Accepted), s.mgt.comp.accepted = some a → a.code = 0x11 → ∃ t : State, exec .mapSwitch s = .next t
    ∧ t.mgt.comp.stamp = fieldAt a.body 0 63 56 ∧ t.mgt.comp.switched = true ∧ t.mgt.comp.maps = s.mgt.comp.maps
    ∧ t.mgt.sec.meas6 = extendMeas s.mgt.sec.meas6 (((s.mgt.comp.maps.find? (·.epoch = fieldAt a.body 0 63 56)).map (·.raw)).getD [])
    ∧ SameBase s t)
  ∧ (∀ (s : State) (a : Accepted), s.mgt.comp.accepted = some a → a.code = 0x12 → ∃ t : State, exec .mapRetire s = .next t
    ∧ t.mgt.comp.maps = s.mgt.comp.maps.filter (·.epoch = s.mgt.comp.stamp) ∧ t.mgt.comp.switched = false ∧ t.mgt.comp.stamp = s.mgt.comp.stamp
    ∧ t.mgt.sec.meas6 = s.mgt.sec.meas6 ∧ SameBase s t)

/-- Once accepted, PART_ATTACH makes the partition it names ATTACHED, and each of its slots that is UNBOUND with its owner bound opens; PART_DETACH makes the partition DETACHING. When nothing of a DETACHING partition is left, DETACH_DRAIN_END makes it DETACHED and its slots UNBOUND, leaving every other slot, the store and the host ports alone. Every other partition's attach state stays in all three. (R151, R404, R405) -/
def Obligations.PartitionMessagesAct : Prop :=
  (∀ (s : State) (a : Accepted), s.mgt.comp.accepted = some a → a.code = 0x18 → ∃ t : State, exec .partAttach s = .next t
    ∧ t.mgt.attach (fieldAt a.body 0 63 58) = 1 ∧ (∀ p : Nat, p ≠ fieldAt a.body 0 63 58 → t.mgt.attach p = s.mgt.attach p)
    ∧ t.mgt.image = s.mgt.image ∧ t.mgt.clk = s.mgt.clk ∧ t.mgt.nvm = s.mgt.nvm ∧ t.mgt.sec.level = s.mgt.sec.level ∧ t.mgt.sec.keys = s.mgt.sec.keys
    ∧ t.dp.store = s.dp.store ∧ t.dp.coh = s.dp.coh ∧ t.dp.hosts = s.dp.hosts ∧ t.dp.tasks.tasks = s.dp.tasks.tasks
    ∧ ∀ x ∈ s.dp.tasks.slots, ∀ e : SlotEntry, s.mgt.slotEntry x.number = some e → x.state = .unbound → e.partition = fieldAt a.body 0 63 58
      → ownerBound s.mgt s.dp e = true → { x with state := .open_ } ∈ t.dp.tasks.slots)
  ∧ (∀ (s : State) (a : Accepted), s.mgt.comp.accepted = some a → a.code = 0x19 → ∃ t : State, exec .partDetach s = .next t
    ∧ t.mgt.attach (fieldAt a.body 0 63 58) = 2 ∧ (∀ p : Nat, p ≠ fieldAt a.body 0 63 58 → t.mgt.attach p = s.mgt.attach p)
    ∧ t.mgt.image = s.mgt.image ∧ t.mgt.clk = s.mgt.clk ∧ t.mgt.nvm = s.mgt.nvm ∧ t.mgt.sec.level = s.mgt.sec.level ∧ t.mgt.sec.keys = s.mgt.sec.keys)
  ∧ (∀ (s : State) (p : Fin 64), s.mgt.attach p.val = 2 → drained s.mgt s.dp p.val = true → ∃ t : State, exec (.detachDrainEnd p) s = .next t
    ∧ t.mgt.attach p.val = 0 ∧ (∀ q : Nat, q ≠ p.val → t.mgt.attach q = s.mgt.attach q)
    ∧ { t.mgt with parts := s.mgt.parts } = s.mgt
    ∧ t.dp.tasks.slots = s.dp.tasks.slots.map (fun x => if x.number ∈ (partSlots s.mgt p.val).map (·.number) then { x with state := .unbound } else x)
    ∧ t.dp.store = s.dp.store ∧ t.dp.coh = s.dp.coh ∧ t.dp.hosts = s.dp.hosts ∧ t.dp.tasks.tasks = s.dp.tasks.tasks)

/-- Once accepted, ENGAGE begins a takeover of the package it names with no copy fetched. SPARE_READY before READY gives it up where the copy fetched fails a check, changing nothing else; where it passes, the package serves the lost package's identifier with the regions of that image, and the rebuild begins. SPARE_REBUILD_DONE during the rebuild ends it and logs HOP event 8 with code 2. RESYNC begins the rebuilding of guards, and RESYNC_DONE ends it with no guard DEGRADED. (R399, R400, R401, R406, R423, R472) -/
def Obligations.SparesTakeOver : Prop :=
  (∀ (s : State) (a : Accepted), s.mgt.comp.accepted = some a → a.code = 0x20 → ∃ t : State, exec .engage s = .next t
    ∧ t.mgt.comp.engaged = some (fieldAt a.body 0 49 36, fieldAt a.body 0 35 22, 0) ∧ t.mgt.comp.engageReady = false ∧ t.mgt.comp.lostImage = none
    ∧ t.mgt.comp.maps = s.mgt.comp.maps ∧ SameBase s t ∧ t.dp.store = s.dp.store ∧ t.dp.tasks = s.dp.tasks)
  ∧ (∀ (s : State) (copy : Bytes) (lost x y : Nat), s.mgt.comp.engaged = some (lost, x, y) → s.mgt.comp.engageReady = false
    → ∃ t : State, exec (.spareReady copy) s = .next t
      ∧ (if spareCopyOk s.mgt lost copy = true then
          t.mgt.homeId = lost ∧ t.mgt.regions = (readImage false copy).regions ∧ t.mgt.comp.rebuilding = true
          ∧ t.mgt.comp.lostImage = some (readImage false copy) ∧ t.mgt.image = s.mgt.image ∧ t.mgt.sec = s.mgt.sec ∧ t.mgt.clk = s.mgt.clk ∧ t.mgt.nvm = s.mgt.nvm
        else t = { s with mgt := { s.mgt with comp := { s.mgt.comp with engaged := none } } }))
  ∧ (∀ (s : State) (lost x y : Nat), s.mgt.comp.engaged = some (lost, x, y) → s.mgt.comp.engageReady = true → s.mgt.comp.rebuilding = true
    → ∃ t : State, exec .spareRebuildDone s = .next t
      ∧ t.mgt = { s.mgt with comp := { s.mgt.comp with rebuilding := false } } ∧ { t.dp with obs := s.dp.obs } = s.dp
      ∧ ∃ e : LogEntry, t.dp.obs.log.head? = some e ∧ e.severity = 1 ∧ e.block = 9 ∧ e.event = 8 ∧ e.package = lost ∧ e.detail = [lost, 2])
  ∧ (∀ (s : State) (a : Accepted), s.mgt.comp.accepted = some a → a.code = 0x21 → ∃ t : State, exec .resync s = .next t
    ∧ t.mgt.comp.resyncing = true ∧ t.mgt.comp.maps = s.mgt.comp.maps ∧ SameBase s t ∧ t.dp.store = s.dp.store ∧ t.dp.tasks = s.dp.tasks)
  ∧ (∀ s : State, s.mgt.comp.resyncing = true → ∃ t : State, exec .resyncDone s = .next t
    ∧ t.mgt = { s.mgt with comp := { s.mgt.comp with resyncing := false } } ∧ t.dp.fab.whist.degraded = []
    ∧ { t.dp.fab.whist with degraded := s.dp.fab.whist.degraded } = s.dp.fab.whist ∧ { t.dp with fab := s.dp.fab } = s.dp)

/-- Once accepted, DEBUG_SET to the present level, or at Open or on the way there, changes no level; to Open it begins the opening and refuses sealed regions, the level still standing; to Sealed or Observe it sets the level, and the highest level seen unless that was higher. OPEN_AES_DRAIN_END during an opening leaves no key, shows Open in both bytes of measurement 4, puts observation in TEST, and changes nothing else. (R417, R427, R428, R429, R438) -/
def Obligations.DebugSetMovesTheLevel : Prop :=
  (∀ (s : State) (a : Accepted), s.mgt.comp.accepted = some a → a.code = 0x30 → ∃ t : State, exec .debugSet s = .next t
    ∧ t.mgt.image = s.mgt.image ∧ t.mgt.clk = s.mgt.clk ∧ t.mgt.nvm = s.mgt.nvm ∧ t.mgt.parts = s.mgt.parts ∧ t.mgt.sec.keys = s.mgt.sec.keys ∧ t.mgt.comp.maps = s.mgt.comp.maps
    ∧ (if fieldAt a.body 0 63 62 = s.mgt.sec.level.code ∨ s.mgt.sec.level = .opened ∨ s.mgt.sec.opening = true then
        t.mgt.sec.level = s.mgt.sec.level ∧ t.mgt.sec.highest = s.mgt.sec.highest ∧ t.mgt.sec.opening = s.mgt.sec.opening ∧ t.mgt.sec.sealedLost = s.mgt.sec.sealedLost
      else if fieldAt a.body 0 63 62 = 2 then
        t.mgt.sec.level = s.mgt.sec.level ∧ t.mgt.sec.highest = s.mgt.sec.highest ∧ t.mgt.sec.opening = true ∧ t.mgt.sec.sealedLost = true
      else
        t.mgt.sec.level = (if fieldAt a.body 0 63 62 = 0 then .sealed else .observe) ∧ t.mgt.sec.opening = false ∧ t.mgt.sec.sealedLost = s.mgt.sec.sealedLost
        ∧ t.mgt.sec.highest = (if s.mgt.sec.highest = .sealed then t.mgt.sec.level else s.mgt.sec.highest)))
  ∧ (∀ s : State, s.mgt.sec.opening = true → ∃ t : State, exec .openAesDrainEnd s = .next t
    ∧ t.mgt.sec = { s.mgt.sec with keys := [], level := .opened, highest := .opened, opening := false }
    ∧ { t.mgt with sec := s.mgt.sec } = s.mgt ∧ measurement t.mgt 4 = [2, 2]
    ∧ t.dp.obs = { s.dp.obs with mode := 2 } ∧ { t.dp with obs := s.dp.obs } = s.dp)

/-- Once accepted, POWER_RETAIN begins the entry to Retain and POWER_RUN the exit from it, and neither changes the power state reported. With nothing held outside and nothing left to write back, RETAIN_ENTERED reports Retain with every Daras port but a disabled one DOWN. With the memories awake, RUN_REPORTED reports Run, sends every Daras port that is not disabled to DETECT and starts every host lease as NONE. Running, in Run, with no context and no unit held for the idle delay, the delay's expiry reports Idle and changes nothing else. (R432, R434, R435, R436) -/
def Obligations.PowerStatesFollowTheirMessages : Prop :=
  (∀ (s : State) (a : Accepted), s.mgt.comp.accepted = some a → a.code = 0x31 → ∃ t : State, exec .powerRetain s = .next t
    ∧ t.mgt.sec.retaining = true ∧ t.mgt.sec.power = s.mgt.sec.power ∧ t.mgt.comp.maps = s.mgt.comp.maps ∧ SameBase s t)
  ∧ (∀ s : State, s.mgt.sec.retaining = true → s.dp.coh.trackers.any (·.cause = 3) = false → s.dp.coh.remote.any (·.state = 3) = false
    → ∃ t : State, exec .retainEntered s = .next t
      ∧ t.mgt = { s.mgt with sec := { s.mgt.sec with retaining := false, power := .retain } }
      ∧ ∀ i : Fin 8, (t.dp.darPort i.val).state = .disabled ∨ (t.dp.darPort i.val).state = .down)
  ∧ (∀ (s : State) (a : Accepted), s.mgt.comp.accepted = some a → a.code = 0x32 → ∃ t : State, exec .powerRun s = .next t
    ∧ t.mgt.sec.waking = true ∧ t.mgt.sec.power = s.mgt.sec.power ∧ t.mgt.comp.maps = s.mgt.comp.maps ∧ SameBase s t
    ∧ t.dp.store = s.dp.store ∧ t.dp.coh = s.dp.coh ∧ t.dp.hosts = s.dp.hosts)
  ∧ (∀ s : State, s.mgt.sec.waking = true → ∃ t : State, exec .runReported s = .next t
    ∧ t.mgt = { s.mgt with sec := { s.mgt.sec with power := .run, waking := false } }
    ∧ (∀ p ∈ t.dp.fab.ports, p.state = .disabled ∨ (p.state = .detect ∧ p.since = s.mgt.clk.ltb)) ∧ (∀ l ∈ t.dp.hosts.leases, l.state = 0)
    ∧ t.dp.store = s.dp.store ∧ t.dp.coh = s.dp.coh ∧ t.dp.tasks.idleSince = s.mgt.clk.ltb)
  ∧ (∀ s : State, s.mgt.clk.phase = .running → s.mgt.sec.power = .run → s.dp.tasks.ctxs = [] → s.dp.tasks.tasks.any (·.unitHeld) = false
    → s.dp.tasks.idleSince + s.mgt.timers.idleDelayUs * 100 ≤ s.mgt.clk.ltb
    → exec .idleDelayExpiry s = .next { s with mgt := { s.mgt with sec := { s.mgt.sec with power := .idle } } })

/-- Once accepted, and from the next tick on, OBS_SET changes exactly what its selector bits name, among the enables, the counters of a group (which read zero then), the mode and the sampling time. OBS_WATCH replaces the entry of its number and counts its records from 0. DEAL_SET, outside forerunner mode, gives each point it names the new deal and its tick, and in forerunner mode changes no point. IMAGE_WRITE, with no write under way and none forbidden, erases its sector and programs its pages after that, and its sender is to be answered at their end. (R375, R377, R380, R440, R446, R447, R451, R477, R496, R517) -/
def Obligations.ObservationAndImageMessagesAct : Prop :=
  (∀ (s : State) (a : Accepted), s.mgt.comp.accepted = some a → a.code = 0x40 → a.tick < s.mgt.clk.ltb → ∃ t : State, exec .obsSet s = .next t
    ∧ t.dp.obs.enable = (if bitAt (wordAt a.body 0) 56 then bits (wordAt a.body 0) 55 50 else s.dp.obs.enable)
    ∧ t.dp.obs.mode = (if bitAt (wordAt a.body 0) 58 then bits (wordAt a.body 0) 43 42 else s.dp.obs.mode)
    ∧ t.dp.fab.sampleTicks = (if bitAt (wordAt a.body 0) 59 then bits (wordAt a.body 0) 19 0 else s.dp.fab.sampleTicks)
    ∧ (∀ addr : Nat, assoc t.dp.obs.counters addr
        = if bitAt (wordAt a.body 0) 57 = true ∧ bitAt (bits (wordAt a.body 0) 49 44) (counterGroup addr) = true then none else assoc s.dp.obs.counters addr)
    ∧ t.dp.obs.watch = s.dp.obs.watch ∧ t.dp.store = s.dp.store ∧ t.dp.tasks = s.dp.tasks ∧ SameBase s t)
  ∧ (∀ (s : State) (a : Accepted), s.mgt.comp.accepted = some a → a.code = 0x41 → ∃ t : State, exec .obsWatch s = .next t
    ∧ readWatch a.body ∈ t.dp.obs.watch ∧ (∀ w : WatchEntry, w.number ≠ (readWatch a.body).number → (w ∈ t.dp.obs.watch ↔ w ∈ s.dp.obs.watch))
    ∧ (∀ w ∈ t.dp.obs.watch, w.number = (readWatch a.body).number → w = readWatch a.body)
    ∧ t.dp.store = s.dp.store ∧ t.dp.tasks.tasks = s.dp.tasks.tasks ∧ SameBase s t)
  ∧ (∀ (s : State) (a : Accepted), s.mgt.comp.accepted = some a → a.code = 0x50 → s.dp.fab.points.length = 12 → ∃ t : State, exec .dealSet s = .next t
    ∧ SameBase s t ∧ t.dp.store = s.dp.store ∧ t.dp.tasks = s.dp.tasks
    ∧ ∀ p : Fin 12, ((t.dp.fab.points.getD p.val Point.reset).takeover
        = if s.mgt.forerunner = false ∧ bitAt (wordAt a.body 0) (52 + p.val) = true then some (wordAt a.body 1, readDeal (dealBody a.body))
          else (s.dp.fab.points.getD p.val Point.reset).takeover))
  ∧ (∀ (s : State) (a : Accepted), s.mgt.comp.accepted = some a → a.code = 0x60 → s.mgt.nvm.ops = [] → s.mgt.mayWrite = true
    → ∃ t : State, exec .imageWrite s = .next t
      ∧ (let o := copyOffset (bitAt (wordAt (opBody a.body) 0) 63) + fieldAt (opBody a.body) 0 31 0
        t.mgt.nvm.ops.map (·.kind) = .erase o :: pagesOf o (slice (opBody a.body) 16 (fieldAt (opBody a.body) 1 63 32)))
      ∧ (∀ x ∈ t.mgt.nvm.ops.head?, x.begun = true) ∧ t.mgt.nvm.writeAsker = some (a.asker, 5)
      ∧ t.mgt.nvm.flash = s.mgt.nvm.flash ∧ t.mgt.nvm.fuses = s.mgt.nvm.fuses ∧ t.mgt.image = s.mgt.image ∧ t.mgt.clk = s.mgt.clk
      ∧ t.dp.store = s.dp.store ∧ t.dp.tasks = s.dp.tasks)

/-- On an MCTP endpoint that serves, with no message waiting to be acted on, a message for this package that fails a check of Table 13 is answered with the reason of the first such check and logged, and has no other effect; one that passes is held to be acted on, its key's alive value advances by one modulo 256, measurement 5 is extended and its sender is answered with reason 0, but that an IMAGE_WRITE is answered and counted only once it begins. While another message waits to be acted on it waits unchecked. A segment of an operational message that Daras brings, under an epoch held and outside FENCED, with nothing of its source kept: the only segment of its message submits that message to the checks; one of several is kept with its source, count and tick, and changes nothing else of the management side. Under another epoch it is answered with REDIRECT, and in FENCED with LOST, and in both cases nothing of the management side changes. OP_MESSAGE_PARTIAL_TIMEOUT discards exactly the partial messages of its source whose first segment is DAR.E2E_TIMEOUT old. (R418, R474, R475, R476, R477, R361, R386) -/
def Obligations.OperationalMessagesJoinAndAreChecked : Prop :=
  (
  ∀ (s : State) (e : Fin 3) (b : Bytes), mctpServes s.mgt s.dp e.val = true → (e = 2 → s.mgt.pwr.sagVdd = false)
    → (s.mgt.image = none ∨ fieldAt b 0 36 23 = s.mgt.self) → ∃ t : State, exec (.mctpOpMessage e b) s = .next t
    ∧ (if s.mgt.comp.accepted.isSome = true then
        t = { s with mgt := { s.mgt with comp := { s.mgt.comp with waiting := s.mgt.comp.waiting ++ [(.mctp e.val, b)] } } }
      else match opCheck s.mgt s.dp (.mctp e.val) b with
        | some r =>
          t.mgt = s.mgt ∧ t.dp.out = s.dp.out ++ [.mctp e.val 0x7E03 [BitVec.ofNat 8 r, BitVec.ofNat 8 (aliveShown s.mgt b)]]
          ∧ { t.dp with obs := s.dp.obs, out := s.dp.out } = s.dp
          ∧ ∃ x : LogEntry, t.dp.obs.log.head? = some x ∧ x.severity = 1 ∧ x.block = 0xD ∧ x.event = 3 ∧ x.detail = [fieldAt b 0 63 56, r]
        | none =>
          if fieldAt b 0 63 56 = 0x60 then
            t = { s with mgt := { s.mgt with comp := { s.mgt.comp with accepted := some ⟨0x60, b, .mctp e.val, s.mgt.clk.ltb⟩ } } }
          else
            t.mgt.comp = { s.mgt.comp with accepted := some ⟨fieldAt b 0 63 56, opBody b, .mctp e.val, s.mgt.clk.ltb⟩ }
            ∧ t.mgt.sec = { s.mgt.sec with
                alive := modAt s.mgt.sec.alive (fieldAt b 0 39 37) (fun x => (x + 1) % 256)
                meas5 := sha512 (s.mgt.sec.meas5 ++ sha512 b) }
            ∧ { t.mgt with comp := s.mgt.comp, sec := s.mgt.sec } = s.mgt
            ∧ t.dp = { s.dp with out := s.dp.out ++ [.mctp e.val 0x7E03 [0, BitVec.ofNat 8 (aliveShown t.mgt b)]] })
  )
  ∧ (
  (∀ (s : State) (q : Msg), q.opcode = 0x29 → ∃ t : State, exec (.opMessage q) s = .next t
    ∧ (if s.dp.fab.whist.fenced = true then t.mgt = s.mgt ∧ t.dp = refuse s.mgt q 0x58 0x05 0xFFFFFFFF (takeInbox q s.dp)
      else if q.epoch ∉ s.mgt.epochs then t.mgt = s.mgt ∧ t.dp = reply s.mgt q 0x57 0 s.mgt.comp.stamp [] (takeInbox q s.dp)
      else (s.mgt.comp.partials = [] →
        (bits q.arg 15 0 = 1 → bits q.arg 31 16 = 0
          → (t.mgt, t.dp) = opReceive (.daras q) (joinSegments 1 [(0, q.payload)]) (s.mgt, takeInbox q s.dp))
        ∧ (1 < bits q.arg 15 0 → bits q.arg 31 16 < bits q.arg 15 0
          → t.mgt = { s.mgt with comp := { s.mgt.comp with partials := [⟨q.source, bits q.arg 15 0, s.mgt.clk.ltb, [(bits q.arg 31 16, q.payload)]⟩] } }
            ∧ t.dp = takeInbox q s.dp))))
  ∧ (∀ (s : State) (source : Nat), ∃ t : State, exec (.opMessagePartialTimeout source) s = .next t
    ∧ t.dp = s.dp ∧ { t.mgt with comp := { t.mgt.comp with partials := s.mgt.comp.partials } } = s.mgt
    ∧ ∀ p : Partial, p ∈ t.mgt.comp.partials ↔ p ∈ s.mgt.comp.partials ∧ ¬(p.source = source ∧ p.since + s.mgt.e2e ≤ s.mgt.clk.ltb))
  )

/-- On an endpoint that serves, and on I3C outside a sag of VDD_1V8: SIZE answers the 128 bytes of the size table, STATUS 32 bytes of the status window, any other command code an error; GET_VERSION begins the connection anew; GET_CAPABILITIES and NEGOTIATE_ALGORITHMS go on only after the stage before; GET_DIGESTS, GET_CERTIFICATE, CHALLENGE and GET_MEASUREMENTS answer only once algorithms are agreed, with the digest, the portion or the signed or unsigned content; any other SPDM request is refused; an EID is taken. On I3C in such a sag each waits. Each leaves the rest of the package alone. While the I3C endpoint serves and VDD_1V8 sags, each request on it joins the requests that wait there, in order, and nothing else changes. (R18, R326, R413, R416, R417, R418, R516) -/
def Obligations.MctpEndpointsAnswer : Prop :=
  (
  ∀ (s : State) (e : Fin 3), mctpServes s.mgt s.dp e.val = true → (e = 2 → s.mgt.pwr.sagVdd = false) →
    Answers (.size e) s (.mctp e.val 0x7E01 (sizeBytes s.mgt)) ∧ (sizeBytes s.mgt).length = 128
    ∧ Answers (.status e) s (.mctp e.val 0x7E02 (statusBytes s.mgt s.dp (endpointPort e.val) 0 32))
    ∧ (∀ code : Nat, 3 < code → code < 256 → Answers (.mctpUnsupportedCommand e code) s (.mctp e.val (0x7E00 + code) [0x05]))
    ∧ (∃ t : State, exec (.getVersion e) s = .next t ∧ t.dp = emit (.mctp e.val 0x0504 (Config.standardBody 16 0)) s.dp
      ∧ t.mgt = modEndpoint e.val (fun x => ⟨x.eid, true, false, false, false⟩) s.mgt)
    ∧ (∀ v : Bool, if (s.mgt.endpoint e.val).version then
        ∃ t : State, exec (.getCapabilities e v) s = .next t ∧ t.dp = emit (.mctp e.val 0x0561 (Config.standardBody 17 (if v then 1 else 0))) s.dp
          ∧ t.mgt = modEndpoint e.val (fun x => ⟨x.eid, x.version, true, false, v⟩) s.mgt
      else Answers (.getCapabilities e v) s (.mctp e.val 0x057F [0x04]))
    ∧ (if (s.mgt.endpoint e.val).capabilities then
        ∃ t : State, exec (.negotiateAlgorithms e) s = .next t
          ∧ t.dp = emit (.mctp e.val 0x0563 (Config.standardBody 18 (if (s.mgt.endpoint e.val).v13 then 1 else 0))) s.dp
          ∧ t.mgt = modEndpoint e.val (fun x => ⟨x.eid, x.version, x.capabilities, true, x.v13⟩) s.mgt
      else Answers (.negotiateAlgorithms e) s (.mctp e.val 0x057F [0x04]))
    ∧ (if (s.mgt.endpoint e.val).algorithms then
        Answers (.getDigests e) s (.mctp e.val 0x0501 (sha512 (chainBytes s.mgt)))
        ∧ (∀ off n : Nat, off < (chainBytes s.mgt).length → Answers (.getCertificate e 0 off n) s (.mctp e.val 0x0502 (slice (chainBytes s.mgt) off n)))
        ∧ (∀ nonce : Bytes, nonce.length = 32 → Answers (.challenge e 0 nonce) s
            (.mctp e.val 0x0503 (signedBody s.mgt nonce (sha512 (chainBytes s.mgt) ++ sha512 (measurements s.mgt)))))
        ∧ (∀ i : Nat, 1 ≤ i → i ≤ 6 → Answers (.getMeasurements e i false []) s (.mctp e.val 0x0560 (measurement s.mgt i))
            ∧ ∀ nonce : Bytes, nonce.length = 32 → Answers (.getMeasurements e i true nonce) s (.mctp e.val 0x0560 (signedBody s.mgt nonce (measurement s.mgt i))))
      else
        Answers (.getDigests e) s (.mctp e.val 0x057F [0x04])
        ∧ (∀ slot off n : Nat, Answers (.getCertificate e slot off n) s (.mctp e.val 0x057F [0x04]))
        ∧ (∀ (slot : Nat) (nonce : Bytes), Answers (.challenge e slot nonce) s (.mctp e.val 0x057F [0x04]))
        ∧ ∀ (i : Nat) (sg : Bool) (nonce : Bytes), Answers (.getMeasurements e i sg nonce) s (.mctp e.val 0x057F [0x04]))
    ∧ Answers (.spdmUnsupportedRequest e 0xE5) s (.mctp e.val 0x057F [0x07])
    ∧ (∀ eid : BitVec 8, exec (.eidAssignment e eid) s = .next { s with mgt := modEndpoint e.val (fun x => { x with eid := some eid }) s.mgt })
  )
  ∧ (
  ∀ (s : State) (c : Instr), mctpServes s.mgt s.dp 2 = true → s.mgt.pwr.sagVdd = true
    → (c = .size 2 ∨ c = .status 2 ∨ (∃ b : Bytes, c = .mctpOpMessage 2 b) ∨ (∃ k : Nat, c = .mctpUnsupportedCommand 2 k) ∨ c = .getVersion 2
      ∨ (∃ v : Bool, c = .getCapabilities 2 v) ∨ c = .negotiateAlgorithms 2 ∨ c = .getDigests 2 ∨ (∃ i j k : Nat, c = .getCertificate 2 i j k)
      ∨ (∃ (i : Nat) (n : Bytes), c = .challenge 2 i n) ∨ (∃ (i : Nat) (g : Bool) (n : Bytes), c = .getMeasurements 2 i g n)
      ∨ (∃ k : Nat, c = .spdmUnsupportedRequest 2 k) ∨ ∃ x : BitVec 8, c = .eidAssignment 2 x)
    → exec c s = .next { s with mgt := { s.mgt with sec := { s.mgt.sec with i3cHeld := s.mgt.sec.i3cHeld ++ [c] } } }
  )

/-- With the debug port selected and no command running, a READ that the level permits puts the word it finds into the data register and is DONE, or is DONE with ERROR where it finds none; a PATIENCE that is permitted captures the shadows of a snapshot and stays busy. A READ, WRITE, PATIENCE or unlisted command that is not permitted sets DENIED and DONE, changes no word of the debug port but these flags, and nothing of the package but the error log. While a command is running, or the port is not selected, each of them changes nothing. At Sealed only READs of the first 32 bytes of the status window and of the size table are permitted. (R408, R430, R431, R436, R457, R458) -/
def Obligations.DebugPortObeysItsLevel : Prop :=
  (∀ s : State, dbgSelected s.mgt = true → dbgBusy s.mgt s.dp = false →
    let addr := s.mgt.sec.dbg.addr.toNat / 8 * 8
    permits s.mgt s.mgt.sec.dbg.space 1 addr = true → ∃ t : State, exec .dbgRead s = .next t
      ∧ { t.mgt with sec := { t.mgt.sec with dbg := s.mgt.sec.dbg } } = s.mgt
      ∧ { t.dp with tasks := { t.dp.tasks with draws := s.dp.tasks.draws } } = s.dp
      ∧ t.mgt.sec.dbg = match spaceRead s.mgt s.dp s.mgt.sec.dbg.space addr with
        | some v => { s.mgt.sec.dbg with data := v, done := true }
        | none => { s.mgt.sec.dbg with done := true, error := true })
  ∧ (∀ s : State, dbgSelected s.mgt = true → dbgBusy s.mgt s.dp = false → permits s.mgt s.mgt.sec.dbg.space 3 0 = true
    → ∃ t : State, exec .dbgPatience s = .next t ∧ t.mgt = s.mgt ∧ t.dp.obs.shadows ≠ none ∧ dbgBusy t.mgt t.dp = true ∧ { t.dp with obs := s.dp.obs } = s.dp)
  ∧ (∀ (s : State) (c : Instr), dbgSelected s.mgt = true → dbgBusy s.mgt s.dp = false
    → (c = .dbgRead ∧ permits s.mgt s.mgt.sec.dbg.space 1 (s.mgt.sec.dbg.addr.toNat / 8 * 8) = false
      ∨ c = .dbgWrite ∧ permits s.mgt s.mgt.sec.dbg.space 2 (s.mgt.sec.dbg.addr.toNat / 8 * 8) = false
      ∨ c = .dbgPatience ∧ permits s.mgt s.mgt.sec.dbg.space 3 0 = false
      ∨ (∃ k : Fin 256, c = .dbgCmdUnlisted k ∧ (k.val = 0 ∨ 3 < k.val)))
    → ∃ t : State, exec c s = .next t
      ∧ (∃ r : Option Nat, t.mgt = { s.mgt with sec := { s.mgt.sec with dbg := { s.mgt.sec.dbg with done := true, denied := true, refusedAt := r } } })
      ∧ { t.dp with obs := s.dp.obs } = s.dp)
  ∧ (∀ (s : State) (c : Instr), dbgSelected s.mgt = false ∨ dbgBusy s.mgt s.dp = true
    → (c = .dbgRead ∨ c = .dbgWrite ∨ c = .dbgPatience ∨ ∃ k : Fin 256, c = .dbgCmdUnlisted k) → exec c s = .next s)
  ∧ (∀ (m : Mgt) (space cmd addr : Nat), m.sec.level = .sealed → permits m space cmd addr = true
    → space = 0 ∧ cmd = 1 ∧ (addr < 0x20 ∨ 0x200 ≤ addr ∧ addr < 0x280))

/-- At Open, with the port selected and no command running: a WRITE to a writable counter sets that one counter; a WRITE to a pool address that is mapped to a store word in canonical memory makes that word read back as written, takes no directory action, leaves every cached copy, every poison mark and every other line as it was, and counts no heat; a WRITE of a valid directory word takes effect in its slot. Each sets DONE. DBG_FLAG_CLEAR clears exactly the flags whose bits are one, and PATIENCE_COPY_DONE puts the shadows into the snapshot and sets DONE. A write of the 80-bit register under DBG_ACCESS sets the debug port's space and selection, address or data by its word, without the reserved bits, or acts as the command or flag clear written; a read-only word or an index that is not listed is discarded. Under MBIST it sets the target mask. With no space selected it changes nothing. (R430, R431, R440, R442, R457, R531, R532, R7, R520, R521, R526, R527) -/
def Obligations.DebugAndRegisterWritesReachTheirSpace : Prop :=
  (
  (∀ s : State, writing s 2 → ∃ t : State, exec .dbgWrite s = .next t ∧ t.mgt.sec.dbg = { s.mgt.sec.dbg with done := true }
    ∧ { t.dp with obs := s.dp.obs } = s.dp
    ∧ ∀ a : Nat, assoc t.dp.obs.counters a
        = if a = s.mgt.sec.dbg.addr.toNat / 8 * 8 ∧ counterWritable a = true then some s.mgt.sec.dbg.data.toNat else assoc s.dp.obs.counters a)
  ∧ (∀ (s : State) (a : Nat), writing s 6 → poolPlace s.mgt s.dp (s.mgt.sec.dbg.addr.toNat / 8 * 8) = some a → Memory.wf s.dp.store.mem = true
    → ∃ t : State, exec .dbgWrite s = .next t
      ∧ t.mgt.sec.dbg = { s.mgt.sec.dbg with done := true, error := s.mgt.sec.dbg.error || decide (a / 64 ∈ s.dp.store.poison) }
      ∧ rawWord t.dp a = s.mgt.sec.dbg.data.toNat ∧ (∀ b : Nat, b / 64 ≠ a / 64 → rawLine t.dp b = rawLine s.dp b)
      ∧ t.dp.coh = s.dp.coh ∧ t.dp.store.poison = s.dp.store.poison ∧ t.dp.tasks = s.dp.tasks ∧ t.dp.hosts = s.dp.hosts ∧ t.dp.fab = s.dp.fab ∧ t.dp.out = s.dp.out
      ∧ (frameRec t.mgt t.dp (a / 65536)).heatW = (frameRec s.mgt s.dp (a / 65536)).heatW
      ∧ (frameRec t.mgt t.dp (a / 65536)).heatE = (frameRec s.mgt s.dp (a / 65536)).heatE)
  ∧ (∀ s : State, writing s 4 → s.mgt.sec.dbg.addr.toNat / 8 * 8 < 2 ^ 29 → ∃ t : State, exec .dbgWrite s = .next t
    ∧ t.mgt.sec.dbg = { s.mgt.sec.dbg with done := true, error := s.mgt.sec.dbg.error || (dirWrite (s.mgt.sec.dbg.addr.toNat / 8 * 8) s.mgt.sec.dbg.data.toNat s.dp).2 }
    ∧ t.dp = (dirWrite (s.mgt.sec.dbg.addr.toNat / 8 * 8) s.mgt.sec.dbg.data.toNat s.dp).1)
  ∧ (∀ (s : State) (ones : BitVec 64), dbgSelected s.mgt = true → exec (.dbgFlagClear ones) s = .next { s with mgt := { s.mgt with sec := { s.mgt.sec with
      dbg := { s.mgt.sec.dbg with
        done := s.mgt.sec.dbg.done && !ones.getLsbD 63, denied := s.mgt.sec.dbg.denied && !ones.getLsbD 62, error := s.mgt.sec.dbg.error && !ones.getLsbD 61 } } } })
  ∧ (∀ (s : State) (ws : List (BitVec 64)), s.dp.obs.shadows = some ws → exec .patienceCopyDone s = .next { s with
      mgt := { s.mgt with sec := { s.mgt.sec with dbg := { s.mgt.sec.dbg with done := true } } }
      dp := { s.dp with obs := { s.dp.obs with patience := ws, shadows := none } } })
  )
  ∧ (
  (∀ (s : State) (v : BitVec 64), dbgSelected s.mgt = true →
    exec (.registerWrite 2 v) s = .next { s with mgt := modDbg (fun p => { p with space := bits v.toNat 63 56, select := bits v.toNat 55 20 }) s.mgt }
    ∧ exec (.registerWrite 3 v) s = .next { s with mgt := modDbg (fun p => { p with addr := v }) s.mgt }
    ∧ exec (.registerWrite 4 v) s = .next { s with mgt := modDbg (fun p => { p with data := v }) s.mgt }
    ∧ exec (.registerWrite 6 v) s = exec (.dbgFlagClear v) s
    ∧ (bits v.toNat 63 56 = 1 → exec (.registerWrite 5 v) s = exec .dbgRead s) ∧ (bits v.toNat 63 56 = 2 → exec (.registerWrite 5 v) s = exec .dbgWrite s)
    ∧ (bits v.toNat 63 56 = 3 → exec (.registerWrite 5 v) s = exec .dbgPatience s)
    ∧ ∀ i : Fin 32768, i.val ∉ [2, 3, 4, 5, 6] → exec (.registerWrite i v) s = .next s)
  ∧ (∀ (s : State) (v : BitVec 64), selected s.mgt 0x12 = true → v.getLsbD 63 = false
    → exec (.registerWrite 0 v) s = .next { s with mgt := { s.mgt with tap := { s.mgt.tap with mbistMask := v.toNat % 2 ^ 24 } } })
  ∧ (∀ (s : State) (i : Fin 32768) (v : BitVec 64), dbgSelected s.mgt = false → selected s.mgt 0x10 = false → selected s.mgt 0x11 = false → selected s.mgt 0x12 = false
    → exec (.registerWrite i v) s = .next s)
  )

/-- IDCODE and TEST_LOGIC_RESET select IDCODE in every state, and the next capture is 0x1096_0A7B. BYPASS selects BYPASS for its own code and for every code that is unlisted or not admitted. DBG_ACCESS, SAMPLE_PRELOAD, EXTEST, EXTEST_PULSE, EXTEST_TRAIN, LINK_TEST, HBM_1500 and MBIST select their instruction where Table 1 admits it, and select BYPASS otherwise with nothing else of the package changed but the log; where DBG_ACCESS names a word, that word is what the next capture loads, and the boundary instructions take the cells they are given. (R427, R491, R519, R520, R525) -/
def Obligations.TapInstructionsAreAdmittedByState : Prop :=
  (∀ s : State, ∃ t : State, exec .idcode s = .next t ∧ t = { s with mgt := { s.mgt with tap := { s.mgt.tap with ir := 0x01 } } } ∧ captureDr t.mgt = 0x10960A7B)
  ∧ (∀ s : State, exec .testLogicReset s = .next { s with mgt := { s.mgt with tap := { s.mgt.tap with ir := 0x01 } } })
  ∧ (∀ (s : State) (code : BitVec 8), code = 0xFF ∨ admits s.mgt code.toNat = false → ∃ t : State, exec (.bypass code) s = .next t ∧ OnlyBypassed s t)
  ∧ (∀ (s : State) (c : Instr) (code : Nat), (c = .dbgAccess none ∧ code = 0x08 ∨ c = .linkTest none ∧ code = 0x10 ∨ c = .hbm1500 none ∧ code = 0x11 ∨ c = .mbist none ∧ code = 0x12)
    → ∃ t : State, exec c s = .next t ∧ if admits s.mgt code = true then t = { s with mgt := { s.mgt with tap := { s.mgt.tap with ir := BitVec.ofNat 8 code } } } else OnlyBypassed s t)
  ∧ (∀ (s : State) (i : Fin 32768), admits s.mgt 0x08 = true → ∃ t : State, exec (.dbgAccess (some i)) s = .next t
    ∧ t = { s with mgt := { s.mgt with tap := { s.mgt.tap with ir := 0x08, capture := dbgWord s.mgt s.dp i.val } } } ∧ captureDr t.mgt = dbgWord s.mgt s.dp i.val)
  ∧ (∀ (s : State) (cells : List Bool) (c : Instr) (code : Nat),
    (c = .samplePreload cells ∧ code = 0x02 ∨ c = .extest cells ∧ code = 0x03 ∨ c = .extestPulse cells ∧ code = 0x04 ∨ c = .extestTrain cells ∧ code = 0x05)
    → ∃ t : State, exec c s = .next t ∧ if admits s.mgt code = true then
        t.mgt = { s.mgt with tap := { s.mgt.tap with ir := BitVec.ofNat 8 code, cells := cells } }
        ∧ t.dp.out = s.dp.out ++ [.scan (Config.boundaryCells s.dp.tasks.draws)] ∧ t.dp.store = s.dp.store ∧ t.dp.coh = s.dp.coh ∧ t.dp.obs = s.dp.obs
      else OnlyBypassed s t)

/-- With LINK_TEST selected, a W1 write of a lane sets its user pattern and nothing else of the lanes but counts, and LT_INJECT adds the injected bits to the errors of a locked checker in NEAR. CHECKER_LOCK locks an enabled unlocked checker; CHECKER_LOST_LOCK unlocks a locked one and sets its lost flag. A write-one of a lane's lost flag, or of MBIST's DONE, clears that flag alone. With MBIST selected in the held state and no run under way, a start takes the mask and is busy; its end writes the failing counts of the masked targets alone, and DONE. Reads of LINK_TEST, MBIST and wrapper words are what the next capture loads. (R442, R520, R521, R522, R523, R524, R526, R527, R528) -/
def Obligations.LaneTestWordsAct : Prop :=
  (∀ (s : State) (n : Fin 88) (v : BitVec 64) (i : Fin 32768), selected s.mgt 0x10 = true → i.val = 4 * n.val + 1 → ∃ t : State, exec (.laneTestWrite i v) s = .next t
    ∧ (t.mgt.lane n.val).user = v ∧ (t.mgt.lane n.val).lock = (s.mgt.lane n.val).lock ∧ (t.mgt.lane n.val).loop = (s.mgt.lane n.val).loop
    ∧ (∀ k : Nat, k ≠ n.val → t.mgt.lane k = s.mgt.lane k) ∧ t.dp.fab = s.dp.fab ∧ t.dp.store = s.dp.store)
  ∧ (∀ (s : State) (n : Fin 88), selected s.mgt 0x10 = true → (s.mgt.lane n.val).lock = true → (s.mgt.lane n.val).loop = 1
    → ∃ t : State, exec (.ltInject n) s = .next t ∧ t.dp.store = s.dp.store
      ∧ (t.mgt.lane n.val).errors = satAdd (satAdd (s.mgt.lane n.val).errors (Config.laneErrors s.dp.tasks.draws)) (s.mgt.lane n.val).injectBits
      ∧ ∀ k : Nat, k ≠ n.val → t.mgt.lane k = s.mgt.lane k)
  ∧ (∀ (s : State) (n : Fin 88), (s.mgt.lane n.val).rxEn = true → (s.mgt.lane n.val).lock = false
    → ∃ t : State, exec (.checkerLock n) s = .next t ∧ t.dp = s.dp ∧ t.mgt.lane n.val = { s.mgt.lane n.val with lock := true } ∧ ∀ k : Nat, k ≠ n.val → t.mgt.lane k = s.mgt.lane k)
  ∧ (∀ (s : State) (n : Fin 88), (s.mgt.lane n.val).lock = true → ∃ t : State, exec (.checkerLostLock n) s = .next t
    ∧ (t.mgt.lane n.val).lock = false ∧ (t.mgt.lane n.val).lost = true ∧ t.dp.store = s.dp.store ∧ ∀ k : Nat, k ≠ n.val → t.mgt.lane k = s.mgt.lane k)
  ∧ (∀ (s : State) (n : Fin 88) (v : BitVec 64) (i : Fin 32768), selected s.mgt 0x10 = true → i.val = 4 * n.val → v.getLsbD 1 = true
    → ∃ t : State, exec (.testFlagClear i v) s = .next t ∧ t.dp = s.dp ∧ t.mgt.lane n.val = { s.mgt.lane n.val with lost := false } ∧ ∀ k : Nat, k ≠ n.val → t.mgt.lane k = s.mgt.lane k)
  ∧ (∀ (s : State) (v : BitVec 64), selected s.mgt 0x12 = true → v.getLsbD 62 = true
    → exec (.testFlagClear 1 v) s = .next { s with mgt := { s.mgt with tap := { s.mgt.tap with mbistDone := false } } })
  ∧ (∀ (s : State) (v : BitVec 64) (dimms : List Dimm), s.mgt.tap.ir = 0x12 → v.getLsbD 63 = true → s.mgt.clk.phase = .held → s.mgt.tap.mbistBusy = false
    → ∃ t : State, exec (.mbistStart v dimms) s = .next t ∧ t.dp = s.dp ∧ t.mgt.tap.mbistBusy = true ∧ t.mgt.tap.mbistMask = v.toNat % 2 ^ 24
      ∧ t.mgt.clk = s.mgt.clk ∧ t.mgt.sec = s.mgt.sec ∧ t.mgt.nvm = s.mgt.nvm)
  ∧ (∀ (s : State) (fails repairs : List Nat), s.mgt.tap.mbistBusy = true → ∃ t : State, exec (.mbistDone fails repairs) s = .next t
    ∧ t.dp = s.dp ∧ t.mgt.tap.mbistBusy = false ∧ t.mgt.tap.mbistDone = true
    ∧ (∀ (c : Nat) (x : BitVec 64), bitAt s.mgt.tap.mbistMask c = false → s.mgt.tap.channels[c]? = some x → t.mgt.tap.channels[c]? = some x)
    ∧ (∀ (c : Nat) (x : BitVec 64), bitAt s.mgt.tap.mbistMask c = true → s.mgt.tap.channels[c]? = some x
      → ∃ y : BitVec 64, t.mgt.tap.channels[c]? = some y ∧ y.toNat % 65536 = min (fails.getD c 0) 65535 ∧ y.toNat / 65536 = x.toNat / 65536))
  ∧ (∀ (s : State) (i : Fin 32768), admits s.mgt 0x12 = true → ∃ t : State, exec (.mbist (some i)) s = .next t ∧ t.dp = s.dp ∧ captureDr t.mgt = mbistWord s.mgt i.val)
  ∧ (∀ (s : State) (i : Fin 128) (v : BitVec 64), admits s.mgt 0x11 = true → s.mgt.clk.phase ≠ .running → ∃ t : State, exec (.hbm1500 (some (false, i, v))) s = .next t
    ∧ captureDr t.mgt = Config.wrapperWord i.val s.dp.tasks.draws ∧ t.dp.store = s.dp.store)
  ∧ (∀ (s : State) (i : Fin 128) (v : BitVec 64), admits s.mgt 0x11 = true → s.mgt.clk.phase ≠ .running
    → exec (.hbm1500 (some (true, i, v))) s = .next { s with mgt := { s.mgt with tap := { s.mgt.tap with ir := 0x11 } } })
  ∧ (∀ (s : State) (n : Fin 88) (w : Fin 4) (i : Fin 32768), admits s.mgt 0x10 = true → i.val = 4 * n.val + w.val → ∃ t : State, exec (.linkTest (some i)) s = .next t
    ∧ captureDr t.mgt = laneWord (counted s.dp.tasks.draws (s.mgt.lane n.val)) w.val ∧ t.dp.store = s.dp.store ∧ t.dp.fab = s.dp.fab)

/-- For every message whose fields fit the transaction header and whose payload is whole 16-byte units, the bytes that the fabric carries read back as that message, field for field, and number 32 plus the payload's. (R5, R339, R346) -/
def Obligations.MessageHeaderRoundTrips : Prop :=
  ∀ q : Msg, q.wf = true → msgOfBytes (msgBytes q) = q ∧ (msgBytes q).length = 32 + q.payload.length

/-- In a state that carries messages, with no message half received: a sound PAYLOAD flit of the expected number that carries one well-formed, listed message is taken, the next number is expected, an acknowledgement is owed, and the message is delivered with its port; a flit that fails its CRC, or bears another number, is discarded, begins an episode and is answered by one NAK naming the expected number; while that episode lasts, a further such flit changes nothing. A sound IDLE flit with the number of a kept flit drops that flit and all before it. (R338, R339, R340, R341, R346, R348) -/
def Obligations.FlitsAreTakenInOrder : Prop :=
  (∀ (s : State) (p : Fin 8) (x : DarPort) (q : Msg) (ack cls credits : Nat), s.dp.fab.ports[p.val]? = some x → x.state.carries = true → x.loop = false → x.rxUnits = []
    → x.rxSeq < 4096 → q.wf = true → malformed q = false → q.payload.length ≤ 208 → ack < 4096 → cls < 16 → credits < 2 ^ 16
    → ∃ (t : State) (y : DarPort), exec (.payloadFlit p (flitOf (flitHeader 1 x.rxSeq ack cls credits 0) (msgBytes q))) s = .next t
      ∧ t.dp.fab.ports[p.val]? = some y ∧ y.rxSeq = (x.rxSeq + 1) % 4096 ∧ y.ackDue = true ∧ y.rxUnits = [] ∧ y.txSeq = x.txSeq
      ∧ t.dp.fab.inbox = s.dp.fab.inbox ++ [(p.val, q)] ∧ t.mgt = s.mgt ∧ { t.dp with fab := s.dp.fab } = s.dp)
  ∧ (∀ (s : State) (p : Fin 8) (x : DarPort) (f : Bytes), s.dp.fab.ports[p.val]? = some x → x.state.carries = true → x.rxEpisode = none → Sendable x
    → (flitSound f = false ∨ bits (wordAt f 0) 63 60 = 1 ∧ bits (wordAt f 0) 59 48 ≠ x.rxSeq)
    → ∃ (t : State) (y : DarPort) (n : Bytes), exec (.payloadFlit p f) s = .next t ∧ t.dp.fab.ports[p.val]? = some y
      ∧ y.rxSeq = x.rxSeq ∧ y.rxEpisode = some (x.rxSeq, s.mgt.clk.ltb) ∧ y.episodes = x.episodes + 1 ∧ y.replayBuf = x.replayBuf
      ∧ y.state = (if x.state = .up ∨ x.state = .self then .replay else x.state)
      ∧ t.dp.out = s.dp.out ++ [.flit p.val n] ∧ bits (wordAt n 0) 63 60 = 2 ∧ bits (wordAt n 0) 59 48 = x.rxSeq
      ∧ t.dp.fab.inbox = s.dp.fab.inbox ∧ t.dp.store = s.dp.store ∧ t.mgt = s.mgt)
  ∧ (∀ (s : State) (p : Fin 8) (x : DarPort) (f : Bytes) (e : Nat × Nat), s.dp.fab.ports[p.val]? = some x → x.state.carries = true → x.rxEpisode = some e
    → (flitSound f = false ∨ bits (wordAt f 0) 63 60 = 1 ∧ bits (wordAt f 0) 59 48 ≠ x.rxSeq) → exec (.payloadFlit p f) s = .next s)
  ∧ (∀ (s : State) (p : Fin 8) (x : DarPort) (f : Bytes) (old kept : List (Nat × Nat × Bytes)) (n k : Nat) (b : Bytes), s.dp.fab.ports[p.val]? = some x → x.state.carries = true
    → flitSound f = true → fieldAt f 0 63 60 = 0 → bits (wordAt f 0) 47 36 = n → x.replayBuf = old ++ (n, k, b) :: kept → (∀ o ∈ old, o.1 ≠ n)
    → ∃ (t : State) (y : DarPort), exec (.idleFlit p f) s = .next t ∧ t.dp.fab.ports[p.val]? = some y ∧ y.replayBuf = kept ∧ y.rxSeq = x.rxSeq ∧ y.txSeq = x.txSeq
      ∧ t.dp.fab.inbox = s.dp.fab.inbox ∧ t.dp.out = s.dp.out ∧ t.mgt = s.mgt)

/-- In service, a NAK that names a kept flit drops those before it and sends it and all that follow again, in their order; naming none it changes nothing. When the oldest kept flit is 4 µs old outside SPARING, the timer sends every kept flit again, in order. The sequence numbers, credits and delivered messages stay, and a port in UP or SELF enters REPLAY. (R336, R340, R341, R343) -/
def Obligations.ReplaySendsKeptFlitsAgain : Prop :=
  (∀ (s : State) (p : Fin 8) (x : DarPort) (n : Fin 4096) (old kept : List (Nat × Nat × Bytes)) (k : Nat) (b : Bytes), s.dp.fab.ports[p.val]? = some x
    → x.state = .up ∨ x.state = .self ∨ x.state = .replay → x.replayBuf = old ++ (n.val, k, b) :: kept → (∀ o ∈ old, o.1 ≠ n.val)
    → ∃ (t : State) (y : DarPort), exec (.nak p n) s = .next t ∧ t.dp.fab.ports[p.val]? = some y ∧ y.state = .replay
      ∧ y.replayBuf.map (fun f => (f.1, f.2.2)) = ((n.val, k, b) :: kept).map (fun f => (f.1, f.2.2))
      ∧ t.dp.out = s.dp.out ++ ((n.val, k, b) :: kept).map (fun f => .flit p.val f.2.2)
      ∧ y.txSeq = x.txSeq ∧ y.rxSeq = x.rxSeq ∧ y.credits = x.credits ∧ t.dp.fab.inbox = s.dp.fab.inbox ∧ t.dp.store = s.dp.store ∧ t.mgt = s.mgt)
  ∧ (∀ (s : State) (p : Fin 8) (x : DarPort) (n : Fin 4096), s.dp.fab.ports[p.val]? = some x → (∀ f ∈ x.replayBuf, f.1 ≠ n.val) → exec (.nak p n) s = .next s)
  ∧ (∀ (s : State) (p : Fin 8) (x : DarPort) (f : Nat × Nat × Bytes), s.dp.fab.ports[p.val]? = some x → x.state = .up ∨ x.state = .self ∨ x.state = .replay
    → x.replayBuf.head? = some f → f.2.1 + 400 ≤ s.mgt.clk.ltb
    → ∃ (t : State) (y : DarPort), exec (.replayTimer p) s = .next t ∧ t.dp.fab.ports[p.val]? = some y ∧ y.txEpisode ≠ none
      ∧ y.replayBuf.map (fun f => (f.1, f.2.2)) = x.replayBuf.map (fun f => (f.1, f.2.2)) ∧ (∀ g ∈ y.replayBuf, g.2.1 = s.mgt.clk.ltb)
      ∧ t.dp.out = s.dp.out ++ x.replayBuf.map (fun f => .flit p.val f.2.2)
      ∧ y.txSeq = x.txSeq ∧ y.rxSeq = x.rxSeq ∧ y.credits = x.credits ∧ t.dp.fab.inbox = s.dp.fab.inbox ∧ t.dp.store = s.dp.store ∧ t.mgt = s.mgt)

/-- From DETECT a far-end signal on four lanes or more, none of the port under test, begins TRAIN; a lock on eight lanes or more aligns the port at width 8, on fewer at width 4, with sequence numbers at 0 and full credits, and an IDENT is sent; 500 ms without lock leads back to DETECT. In ALIGN an IDENT that agrees leads to UP, or to SELF where the far end is this package; one that disagrees is logged, and 1 ms later the port returns to DETECT. An episode longer than the retry budget takes the link DOWN with nothing kept for replay, and 1 ms later, outside Retain, the port returns to DETECT. Where other traffic waits at the home, what it then does is not part of this statement. (R337, R341, R342, R343, R344, R345, R522) -/
def Obligations.PortsFollowTheirStates : Prop :=
  ∀ (s : State) (p : Fin 8) (x : DarPort), s.dp.fab.ports[p.val]? = some x →
    (∀ n : Nat, x.state = .detect → 4 ≤ n → s.mgt.darTesting p.val = false
      → exec (.signalFound p n) s = .next (withPort s p.val { x with state := .train, since := s.mgt.clk.ltb }))
    ∧ (∀ l : BitVec 9, x.state = .train → 4 ≤ (setBits 9 l.toNat).length → ∃ (t : State) (y : DarPort), exec (.trainLock p l) s = .next t
      ∧ t.dp.fab.ports[p.val]? = some y ∧ y.state = .align ∧ y.width = (if 8 ≤ (setBits 9 l.toNat).length then 8 else 4) ∧ y.trained = setBits 9 l.toNat
      ∧ y.txSeq = 0 ∧ y.rxSeq = 0 ∧ y.replayBuf = [] ∧ y.credits = [512, 256, 256, 1024, 1024] ∧ y.since = s.mgt.clk.ltb
      ∧ (∃ f : Bytes, t.dp.out = s.dp.out ++ [.flit p.val f] ∧ bits (wordAt f 0) 63 60 = 3) ∧ t.mgt = s.mgt ∧ t.dp.store = s.dp.store ∧ t.dp.coh = s.dp.coh)
    ∧ (x.state = .train → x.since + 50000000 ≤ s.mgt.clk.ltb → exec (.trainTimeout p) s = .next (withPort s p.val { x with state := .detect, since := s.mgt.clk.ltb }))
    ∧ (∀ i : Ident, x.state = .align → x.disagreed = false →
      if Config.identAgrees i.switch i.id i.port i.cohMode s.mgt.self (if s.mgt.pkg.ownerOrdered then 2 else 1) = true then
        Quiet s.dp → ∃ (t : State) (y : DarPort), exec (.ident p i) s = .next t ∧ t.dp.fab.ports[p.val]? = some y
          ∧ y.state = (if i.switch = false ∧ i.id = s.mgt.self then .self else .up) ∧ y.loop = decide (i.switch = false ∧ i.id = s.mgt.self) ∧ y.far = some i
          ∧ t.mgt = s.mgt ∧ t.dp.store = s.dp.store
      else ∃ (t : State) (y : DarPort) (e : LogEntry), exec (.ident p i) s = .next t ∧ t.dp.fab.ports[p.val]? = some y
        ∧ y.state = .align ∧ y.disagreed = true ∧ t.dp.obs.log.head? = some e ∧ e.block = 9 ∧ e.event = 5 ∧ e.package = i.id ∧ t.mgt = s.mgt ∧ t.dp.store = s.dp.store)
    ∧ (x.state = .align → x.disagreed = true → x.since + 100000 ≤ s.mgt.clk.ltb
      → exec (.alignRetryExpiry p) s = .next (withPort s p.val { x with state := .detect, disagreed := false, since := s.mgt.clk.ltb }))
    ∧ (∀ e : Nat × Nat, x.state.carries = true → x.rxEpisode = some e ∨ x.txEpisode = some e → e.2 + s.mgt.timers.retryBudgetUs * 100 < s.mgt.clk.ltb → Quiet s.dp
      → ∃ (t : State) (y : DarPort), exec (.retryBudgetExpiry p) s = .next t ∧ t.dp.fab.ports[p.val]? = some y
        ∧ y.state = .down ∧ y.replayBuf = [] ∧ y.rxEpisode = none ∧ y.txEpisode = none ∧ t.mgt = s.mgt ∧ t.dp.store = s.dp.store)
    ∧ (x.state = .down → s.mgt.sec.power ≠ .retain → x.since + 100000 ≤ s.mgt.clk.ltb
      → exec (.downTimer p) s = .next (withPort s p.val { x with state := .detect, since := s.mgt.clk.ltb }))

/-- In service with lane 8 trained and idle and no lane spared, a failed active lane is named to the far end, counted and logged as LANES, and the port is SPARING. The far end's naming of a failed lane, with none spared on this side, is answered with a LANE_MAP and the port is SPARING. When the sparing is done the port leaves SPARING, to REPLAY where an episode runs and otherwise to service. (R336, R337, R343) -/
def Obligations.LaneEightTakesOver : Prop :=
  (∀ (s : State) (p : Fin 8) (x : DarPort) (l : Fin 9), s.dp.fab.ports[p.val]? = some x → x.state.carries = true → l.val ∈ x.active → x.spared = none → 8 ∈ x.trained → 8 ∉ x.active → Sendable x
    → ∃ (t : State) (y : DarPort) (f : Bytes) (e : LogEntry), exec (.laneFailed p l) s = .next t ∧ t.dp.fab.ports[p.val]? = some y
      ∧ y.state = .sparing ∧ y.spared = some l.val ∧ y.mapAwaited = true ∧ y.replayBuf = x.replayBuf ∧ y.rxSeq = x.rxSeq
      ∧ t.dp.out = s.dp.out ++ [.flit p.val f] ∧ bits (wordAt f 0) 63 60 = 4
      ∧ t.dp.obs.log.head? = some e ∧ e.block = 9 ∧ e.event = 3 ∧ e.detail = [p.val, l.val, x.width] ∧ t.mgt = s.mgt ∧ t.dp.store = s.dp.store)
  ∧ (∀ (s : State) (p : Fin 8) (x : DarPort) (l : Fin 9), s.dp.fab.ports[p.val]? = some x → x.state.carries = true → x.mapAwaited = false → x.txSpared = none → Sendable x
    → ∃ (t : State) (y : DarPort) (f : Bytes), exec (.laneMap p l) s = .next t ∧ t.dp.fab.ports[p.val]? = some y
      ∧ y.state = .sparing ∧ y.txSpared = some l.val ∧ y.replayBuf = x.replayBuf ∧ t.dp.out = s.dp.out ++ [.flit p.val f] ∧ bits (wordAt f 0) 63 60 = 4
      ∧ t.mgt = s.mgt ∧ t.dp.store = s.dp.store ∧ t.dp.obs = s.dp.obs)
  ∧ (∀ (s : State) (p : Fin 8) (x : DarPort), s.dp.fab.ports[p.val]? = some x → x.state = .sparing
    → ∃ (t : State) (y : DarPort), exec (.sparingDone p) s = .next t ∧ t.dp.fab.ports[p.val]? = some y ∧ y.mapAwaited = false
      ∧ y.state = (if x.rxEpisode ≠ none ∨ x.txEpisode ≠ none then .replay else if x.loop then .self else .up)
      ∧ y.rxSeq = x.rxSeq ∧ y.txSeq = x.txSeq ∧ t.mgt = s.mgt ∧ t.dp.store = s.dp.store)

/-- At a Daras port in service with room to keep a flit, outside forerunner mode, with no deal running or waiting, one queue that is not metered and a quantum of at least 1,024 bytes, whose head has a credit of its class: a grant takes that head out of the queue, takes one credit of its class, and sends one PAYLOAD flit with the port's next number and the message's bytes, which is kept for replay. At a host link that is up, the head goes to the host as it is. Nothing of the store, the tasks or the management side changes. When the present entry's ticks have passed, a point's deal goes to its next entry, from the last back to entry 0, and begins it at the tick the present one ends; when the tick of a takeover has come, the point runs the new deal from entry 0 with no takeover waiting. Queues keep their items and meters, and a queue whose gate is then closed has no deficit. Nothing but that point changes. (R340, R368, R369, R371, R373, R379, R374, R375, R377) -/
def Obligations.GrantsGoWholeAndDealsTakeTurns : Prop :=
  (
  (∀ (s : State) (p : Fin 8) (x : DarPort) (pt : Point) (q : Queue) (i : QItem) (rest : List QItem), s.dp.fab.ports[p.val]? = some x
    → x.state = .up ∨ x.state = .self ∨ x.state = .replay → x.replayBuf.length < 2048 → Sendable x → s.dp.fab.points[2 + p.val]? = some pt
    → pt.deal = none → pt.takeover = none → pt.queues = [q] → q.items = i :: rest → 0 < x.credits.getD i.coh 0
    → s.mgt.forerunner = false → (s.mgt.queueEntry (2 + p.val) q.number).metered = false → 1024 ≤ (s.mgt.queueEntry (2 + p.val) q.number).quantum → i.colour = 0
    → ∃ (t : State) (y : DarPort) (r : Queue) (f : Bytes), exec (.schedulingGrant ⟨2 + p.val, by omega⟩) s = .next t ∧ t.dp.fab.ports[p.val]? = some y
      ∧ y.txSeq = (x.txSeq + 1) % 4096 ∧ y.credits = modAt x.credits i.coh (· - 1) ∧ y.replayBuf = x.replayBuf ++ [(x.txSeq, s.mgt.clk.ltb, f)]
      ∧ slice f 8 240 = fit 240 (msgBytes i.msg) ∧ flitSound f = true ∧ bits (wordAt f 0) 63 60 = 1
      ∧ t.dp.out = s.dp.out ++ [.flit p.val f]
      ∧ (∃ u : Point, t.dp.fab.points[2 + p.val]? = some u ∧ u.queues = [r] ∧ u.last = q.number) ∧ r.items.map (·.msg) = rest.map (·.msg) ∧ r.items.length = rest.length ∧ r.number = q.number
      ∧ t.dp.store = s.dp.store ∧ t.dp.tasks = s.dp.tasks ∧ t.dp.coh = s.dp.coh ∧ t.dp.fab.inbox = s.dp.fab.inbox ∧ t.mgt = s.mgt)
  ∧ (∀ (s : State) (p : Fin 2) (pt : Point) (q : Queue) (i : QItem) (rest : List QItem) (tag : Nat) (data : Bytes),
    (s.dp.hostPort p.val).mode ≠ 0 → (s.dp.hostPort p.val).perst = false → s.dp.fab.points[10 + p.val]? = some pt
    → pt.deal = none → pt.takeover = none → pt.queues = [q] → q.items = i :: rest → i.host = some (tag, data)
    → s.mgt.forerunner = false → (s.mgt.queueEntry (10 + p.val) q.number).metered = false → 1024 ≤ (s.mgt.queueEntry (10 + p.val) q.number).quantum → i.colour = 0
    → ∃ (t : State) (r : Queue), exec (.schedulingGrant ⟨10 + p.val, by omega⟩) s = .next t ∧ t.dp.out = s.dp.out ++ [.host p.val tag i.msg.status data]
      ∧ (∃ u : Point, t.dp.fab.points[10 + p.val]? = some u ∧ u.queues = [r] ∧ u.last = q.number) ∧ r.items.map (·.msg) = rest.map (·.msg) ∧ r.items.length = rest.length ∧ r.number = q.number
      ∧ t.dp.store = s.dp.store ∧ t.dp.tasks = s.dp.tasks ∧ t.dp.coh = s.dp.coh ∧ t.dp.fab.ports = s.dp.fab.ports ∧ t.mgt = s.mgt)
  )
  ∧ (
  (∀ (s : State) (p : Fin 12) (x : Point) (l : Deal), s.dp.fab.points[p.val]? = some x → x.deal = some l → l ≠ [] → x.entryStart + (l.getD x.entry (0, 0)).2 ≤ s.mgt.clk.ltb
    → ∃ (t : State) (y : Point), exec (.dealEntryEnd p) s = .next t ∧ t = { s with dp := { s.dp with fab := { s.dp.fab with points := s.dp.fab.points.set p.val y } } }
      ∧ y.entry = (x.entry + 1) % l.length ∧ y.entryStart = x.entryStart + (l.getD x.entry (0, 0)).2 ∧ y.deal = some l ∧ y.takeover = x.takeover ∧ y.last = x.last
      ∧ y.queues = x.queues.map (fun q => if gateOpen y q.number then q else { q with deficit := 0 }))
  ∧ (∀ (s : State) (p : Fin 12) (x : Point) (tick : Nat) (l : Deal), s.dp.fab.points[p.val]? = some x → x.takeover = some (tick, l) → tick ≤ s.mgt.clk.ltb
    → ∃ (t : State) (y : Point), exec (.dealTakeover p) s = .next t ∧ t = { s with dp := { s.dp with fab := { s.dp.fab with points := s.dp.fab.points.set p.val y } } }
      ∧ y.entry = 0 ∧ y.entryStart = tick ∧ y.deal = some l ∧ y.takeover = none ∧ y.last = x.last
      ∧ y.queues = x.queues.map (fun q => if gateOpen y q.number then q else { q with deficit := 0 }))
  )

/-- With the sampling time at zero QUEUE_SAMPLE leaves the state as it is, and every word of the sample records reads zero. An accepted OBS_SET that selects the sampling time changes nothing in the tick of its acceptance and sets it in a later one. When a sample is taken, every queue keeps its number, items, meters and deficit, and every point its deal, its entry and the queue it last granted, so that the next grant is the same. (R380) -/
def Obligations.SamplingIsSetAndNeverChangesAGrant : Prop :=
  (∀ s : State, s.dp.fab.sampleTicks = 0 → exec .queueSample s = .next s ∧ ∀ a : Nat, 0x080000 ≤ a → a < 0x083000 → counterWord s.dp a = 0)
  ∧ (∀ (s : State) (a : Accepted), s.mgt.comp.accepted = some a → a.code = 0x40 → bitAt (wordAt a.body 0) 59 = true →
    if s.mgt.clk.ltb ≤ a.tick then exec .obsSet s = .next s
    else ∃ t : State, exec .obsSet s = .next t ∧ t.dp.fab.sampleTicks = bits (wordAt a.body 0) 19 0)
  ∧ (∀ s : State, ∃ t : State, exec .queueSample s = .next t ∧ t.dp.fab.ports = s.dp.fab.ports ∧ t.dp.fab.points.length = s.dp.fab.points.length ∧ t.mgt = s.mgt
    ∧ { t.dp with fab := s.dp.fab } = s.dp
    ∧ ∀ (i : Nat) (x : Point), s.dp.fab.points[i]? = some x → ∃ y : Point, t.dp.fab.points[i]? = some y ∧ { y with queues := x.queues } = x
      ∧ y.queues.map (fun q => (q.number, q.items, q.cb, q.pb, q.deficit)) = x.queues.map (fun q => (q.number, q.items, q.cb, q.pb, q.deficit)))

/-- A read that is let in and that nothing holds up at its home is answered with the line as memory holds it and its poison marker: a task and a host port gather it, a package is sent DATA, or GRANT where it is a sharer named by pointer that asks to own the line, and under owner ordering ACKS_DONE besides. READ_SHARED adds the requester to a SHARED entry, READ_OWN leaves an entry OWNED by the requester alone, and READ_NOALLOC, or a requester without a cache, leaves the directory as it was; every other line's entry stays. Under home ordering the line stays busy for the COMPLETE of a package that is to hold it. Memory, versions and sessions stay; a line is poisoned only where the tag of a sealed line fails. (R121, R123, R132, R133, R136, R142, R347) -/
def Obligations.ReadsReachTheirHome : Prop :=
  ∀ (s : State) (c : Instr) (via : Via) (q : Msg) (r : Nat) (reach : Reach) (a : Nat),
    (c = .readShared via q ∧ q.opcode ∈ [0x01, 0x03] ∨ c = .readOwn via q ∧ q.opcode ∈ [0x02, 0x04] ∨ c = .readNoalloc via q ∧ q.opcode = 0x05)
    → q.payload = [] → Quiet s.dp → admitted s via q = true → unhindered s.mgt (entered via q s.dp) via q r reach a = true
    → (kindOf s.mgt via q = .noalloc ∨ (s.dp.entry (lineOf q.addr)).isSome = true ∨ setFull s.mgt (entered via q s.dp) (lineOf q.addr) = false)
    → ∃ t : State, exec c s = .next t
      ∧ t.mgt = s.mgt ∧ t.dp.snaps = s.dp.snaps ∧ t.dp.out = s.dp.out
      ∧ (let l := readLine s.mgt (entered via q s.dp) r a
        { t.dp.store with frames := s.dp.store.frames, poison := s.dp.store.poison } = s.dp.store
        ∧ (l.2 = false → t.dp.store.poison = s.dp.store.poison)
        ∧ (match via with
          | .daras => t.dp.fab = (sendAll s.mgt (readAnswers s.mgt s.dp q r l) (takeInbox q s.dp)).fab ∧ t.dp.tasks = s.dp.tasks ∧ t.dp.hosts = s.dp.hosts
          | .task id => t.dp.tasks = (deliverTask id ⟨q.addr / 64, l.1, if l.2 then some r else none⟩ (oneMore id s.dp)).tasks ∧ t.dp.fab = s.dp.fab ∧ t.dp.hosts = s.dp.hosts
          | .host p => t.dp.hosts = (deliverHost s.mgt p.val (q.addr / 64) l.1 (if l.2 then some r else none) s.dp).hosts
            ∧ t.dp.fab = (deliverHost s.mgt p.val (q.addr / 64) l.1 (if l.2 then some r else none) s.dp).fab ∧ t.dp.tasks = s.dp.tasks))
      ∧ (∀ x : Nat, x ≠ lineOf q.addr → t.dp.entry x = s.dp.entry x)
      ∧ (match kindOf s.mgt via q, holderOf s.dp via q with
        | .shared, some h => ∃ e : DirEntry, startsFrom s.dp (lineOf q.addr) e ∧ t.dp.entry (lineOf q.addr) = some (DirEntry.add { e with owned := false } h)
        | .own, some h => ∃ e : DirEntry, startsFrom s.dp (lineOf q.addr) e
            ∧ t.dp.entry (lineOf q.addr) = some (DirEntry.add { e with owned := true, clusters := 0, hosts := 0, coarse := false, ptrs := [], groups := 0 } h)
        | _, _ => t.dp.coh.dir = s.dp.coh.dir)
      ∧ t.dp.coh.trackers = s.dp.coh.trackers ++ (if via = .daras ∧ kindOf s.mgt via q ≠ .noalloc ∧ s.mgt.pkg.ownerOrdered = false
          then [⟨lineOf q.addr, via, q, [], some s.mgt.clk.ltb, [], none, false, 0⟩] else [])
      ∧ t.dp.coh.remote = s.dp.coh.remote ∧ t.dp.coh.txns = s.dp.coh.txns ∧ t.dp.coh.waiting = []

/-- WRITE_LINE, WRITE_PART, ATOMIC_RET, ADD_U64, RT_RESERVE, RT_CLOSE and a task's store, let in and held up by nothing, with a sealed region's keys in place, do to their line what their code does to its bytes and poison: read again, an unsealed line reads so, and a sealed one stands as ciphertext with its tag; every byte outside the line stays, but for a sealed frame's first write, which encrypts the frame. The line is uncached after a write or atomic that no host port made, and OWNED by its cluster after a task's store. Where no guard protects the region, a package is answered with the status and value, and a task has its access performed or receives what the status means; where one does and must be written, the change waits for its guards' answers. An operation that does not apply, as on a poisoned line, leaves memory as it was. (R123, R142, R213, R347, R349, R393, R420, R421, R532) -/
def Obligations.ChangesReachTheirLine : Prop :=
  ∀ (s : State) (c : Instr) (via : Via) (q : Msg) (r : Nat) (reach : Reach) (a : Nat),
    (c = .writeNoalloc via q ∧ q.opcode ∈ [0x06, 0x07] ∨ c = .atomic via q ∧ q.opcode ∈ [0x11, 0x12] ∨ c = .rtReserve via q ∧ q.opcode = 0x18 ∨ c = .rtClose via q ∧ q.opcode = 0x19
      ∨ via = .daras ∧ (c = .writeLine q ∧ q.opcode = 0x06 ∨ c = .writePart q ∧ q.opcode = 0x07 ∨ c = .atomicRet q ∧ q.opcode = 0x11 ∨ c = .addU64 q ∧ q.opcode = 0x12)
      ∨ (∃ id : Nat, via = .task id) ∧ c = .readOwn via q ∧ q.opcode ∈ [0x02, 0x04] ∧ q.payload ≠ [])
    → Memory.wf s.dp.store.mem = true → (∀ g : Region, s.mgt.region r = some g → g.sealed = true → (s.mgt.partKeys g.partition).length = 96)
    → Quiet s.dp → admitted s via q = true → unhindered s.mgt (entered via q s.dp) via q r reach a = true → heldKind s.dp q a = false
    → (kindOf s.mgt via q ≠ .own ∨ (s.dp.entry (lineOf q.addr)).isSome = true ∨ setFull s.mgt (entered via q s.dp) (lineOf q.addr) = false)
    → ∃ t : State, exec c s = .next t
      ∧ t.mgt = s.mgt ∧ t.dp.snaps = s.dp.snaps ∧ t.dp.out = s.dp.out
      ∧ (let l := readLine s.mgt (entered via q s.dp) r a
        let x := changeOf q l.1 l.2
        let sealed := ((s.mgt.region r).map (·.sealed)).getD false
        let guarded := ((s.mgt.region r).map (·.guard)).getD 0 ≠ 0
        let arg := if x.status = 0x04 ∨ x.status = 0x05 then r else x.arg
        (if x.changed then
          (sealed = false → readLine s.mgt t.dp r a = (x.data, x.poison))
          ∧ (sealed = true → (∀ g : Region, s.mgt.region r = some g →
              rawLine t.dp a = xtsEncrypt ((s.mgt.partKeys g.partition).take 64) (a / 64) x.data
              ∧ assoc t.dp.store.tags (a / 64) = some (lineTag ((s.mgt.partKeys g.partition).drop 64) (rawLine t.dp a) (a / 64 * 64))))
          ∧ (a / 64 ∈ t.dp.store.poison ↔ x.poison = true)
          ∧ (∀ b : Nat, b / 64 ≠ a / 64 → (sealed = true → (frameRec s.mgt s.dp (a / 65536)).fresh = true → b / 65536 ≠ a / 65536)
            → cellGet 0 t.dp.store.mem b = cellGet 0 s.dp.store.mem b)
        else t.dp.store.mem = s.dp.store.mem ∧ t.dp.store.tags = s.dp.store.tags)
        ∧ Memory.wf t.dp.store.mem = true
        ∧ (∀ b : Nat, b ≠ a / 64 → (b ∈ t.dp.store.poison ↔ b ∈ s.dp.store.poison))
        ∧ (¬guarded ∨ x.changed = false → t.dp.coh.trackers = s.dp.coh.trackers
          ∧ match via with
            | .daras => t.dp.fab = (reply s.mgt q (if q.opcode = 0x11 then 0x61 else 0x58) x.status arg (if q.opcode = 0x11 then x.payload else []) (takeInbox q s.dp)).fab ∧ t.dp.tasks = s.dp.tasks
            | .task id => t.dp.fab = s.dp.fab ∧ t.dp.tasks = (if q.opcode = 0x18 ∨ q.opcode = 0x19
                then modTask id (fun k => { k with outstanding := k.outstanding + 1 - 1, prog := { k.prog with asked := (q.addr, x.status, arg) :: k.prog.asked.filter (·.1 ≠ q.addr) } }) s.dp
                else taskDone id x.status arg (oneMore id s.dp)).tasks
            | .host p => t.dp.tasks = s.dp.tasks ∧ t.dp.fab = (if q.origin = 1 then hostAnswer s.mgt p.val q.txn 0 [] q.partition q.bwClass s.dp else s.dp).fab)
        ∧ (∀ (g : Region) (p : Nat), s.mgt.region r = some g → g.guard = 1 → s.mgt.partner = some p → p ∉ s.dp.fab.whist.degraded → x.changed = true
          → t.dp.tasks = (entered via q s.dp).tasks ∧ ∃ (k : Tracker) (n : Nat), t.dp.coh.trackers = s.dp.coh.trackers ++ [k] ∧ k.line = lineOf q.addr ∧ k.via = via ∧ k.cause = 4
            ∧ k.guards = [(p, n, rawLine t.dp a, s.mgt.clk.ltb)]))
      ∧ (∀ b : Nat, b ≠ lineOf q.addr → t.dp.entry b = s.dp.entry b)
      ∧ (match via with
        | .host _ => True
        | _ => if kindOf s.mgt via q = .own then ∃ e : DirEntry, t.dp.entry (lineOf q.addr) = some e ∧ e.owned = true ∧ holderOf s.dp via q = (e.holders s.mgt).head? ∧ (e.holders s.mgt).length = 1
          else t.dp.entry (lineOf q.addr) = none)

/-- An ADD_FLOAT of a package, let in at a line that is not poisoned and whose frame no flip or hold stops, joins its entry, in the side buffer while its frame is copied and otherwise among the combining entries, and is acknowledged, memory unchanged; with no entry free it waits; on a poisoned line it is refused with POISON and the region. Where nothing of its line is in flight and no holder must be snooped, a combining entry is applied and is gone: of an unsealed, unguarded line that is not poisoned each marked element becomes the sum of R291, every other byte of memory stays, and the line is uncached. An entry whose line is busy, held or being moved stays. Keys of combining entries for other packages' adds are the model's choice (log entry 68). (R43, R123, R142, R291, R292, R347) -/
def Obligations.AddsAreHeldAndApplied : Prop :=
  (∀ (s : State) (q : Msg) (r : Nat) (reach : Reach) (a : Nat), q.opcode = 0x10 → Quiet s.dp → admitted s .daras q = true
    → placeOffset s.mgt s.dp (q.addr % 2 ^ 50) = .store r reach a → (∀ p : Fin 2, hostGone s.dp p = false)
    → (match reach with | .view v => viewWritable s.dp r v = true | _ => True)
    → ∃ t : State, exec (.addFloat q) s = .next t ∧ t.mgt = s.mgt ∧ t.dp.store.mem = s.dp.store.mem ∧ t.dp.store.poison = s.dp.store.poison ∧ t.dp.coh.dir = s.dp.coh.dir
      ∧ if (readLine s.mgt s.dp r a).2 = true then
          t.dp.store = s.dp.store ∧ t.dp.coh.waiting = [] ∧ t.dp.fab = (reply s.mgt q 0x58 0x04 r [] (takeInbox q s.dp)).fab
        else (frameHeld s.dp (a / 65536) = false → (s.dp.store.moves.any fun v => v.covers (a / 65536) && v.flipping) = false
            → needsCopy s.dp r reach (frameIndex s.mgt r reach (q.addr % 2 ^ 50)) = none →
          let moved := s.dp.store.moves.any fun v => v.covers (a / 65536)
          let f := bits q.arg 7 0
          let e : AddEntry := if moved then ⟨a / 64, q.addr / 64 * 64, f, 0, 0, addendsOf q⟩ else ⟨a / 64, q.addr / 64 * 64, f, 2 ^ 40 + q.source, q.txn, addendsOf q⟩
          match putEntry (if moved then 4096 else 1024) e (if moved then s.dp.store.side else s.dp.store.combine) with
          | some es => t.dp.store = (if moved then { s.dp.store with side := es } else { s.dp.store with combine := es })
            ∧ t.dp.coh.waiting = [] ∧ t.dp.fab = (reply s.mgt q 0x58 0 0 [] (takeInbox q s.dp)).fab
          | none => t.dp.store = s.dp.store ∧ t.dp.coh.waiting = [(.daras, q)] ∧ t.dp.fab = (takeInbox q s.dp).fab))
  ∧ (∀ (s : State) (line : Nat) (e : AddEntry) (r : Nat) (reach : Reach) (a : Nat), s.dp.store.combine.find? (fun x => lineOf x.pool = line) = some e → Quiet s.dp
    → (if busy s.dp line = true ∨ s.dp.store.moves.any (·.covers (e.line / 1024)) = true ∨ frameHeld s.dp (e.line / 1024) = true then
        ∃ t : State, exec (.combiningEntryApply line) s = .next t ∧ t.dp.store = s.dp.store ∧ t.dp.coh.dir = s.dp.coh.dir ∧ t.dp.fab = s.dp.fab ∧ t.mgt = s.mgt
      else storePlace s.mgt s.dp e.pool = some (r, reach, a) → (match s.dp.entry line with | some x => snoopsFor s.mgt .atomic none x = [] | none => True)
        → Memory.wf s.dp.store.mem = true → (∀ g : Region, s.mgt.region r = some g → g.sealed = false ∧ g.guard = 0)
        → e.format ∈ [0x03, 0x04, 0x05] → (∀ x ∈ e.sums, x.1 < 512 / fmtBits e.format)
        → ∃ t : State, exec (.combiningEntryApply line) s = .next t ∧ t.mgt = s.mgt ∧ t.dp.fab = s.dp.fab ∧ t.dp.tasks = s.dp.tasks ∧ t.dp.coh.trackers = s.dp.coh.trackers
          ∧ t.dp.store.combine = s.dp.store.combine.erase e ∧ t.dp.entry line = none
          ∧ (let l := readLine s.mgt s.dp r (e.line * 64)
            readLine s.mgt t.dp r (e.line * 64) = (if l.2 then l else (addLine e.format l.1 e.sums, false)))
          ∧ (∀ b : Nat, b / 64 ≠ e.line → cellGet 0 t.dp.store.mem b = cellGet 0 s.dp.store.mem b)))

/-- With a request at a busy line that waits for one snoop alone, INV_ACK, BIRSP, SNP_ACK or SNOOP_TIMEOUT from that holder ends the wait: the holder leaves the entry where its copy is gone, dirty data of a host goes to memory first, a time-out of the owner poisons the line first and is logged, and the request is served. A time-out before COH.SNOOP_TIMEOUT, or of a cluster of the package, changes nothing. COMPLETE, or its time-out, frees the line. A WB_REQ of the package that the entry names as owner reserves a buffer and is answered WB_GO, and of any other WB_DONE with the count of FWDs it has not answered; the owner's DATA then goes to memory, the entry loses it, and WB_DONE is sent. (R126, R128, R132, R133, R137, R138, R139, R140, R141, R364) -/
def Obligations.HomeFollowsItsAnswers : Prop :=
  (∀ (s : State) (q : Msg) (h : Holder) (k : Tracker) (w : Snoop) (l₁ l₂ : List Tracker) (r : Nat) (reach : Reach) (a : Nat),
    s.dp.coh.trackers = l₁ ++ k :: l₂ → (∀ x ∈ l₁ ++ l₂, x.line ≠ k.line) → k.snoops = [w] → w.holder = h → w.sent = true
    → k.guards = [] → k.complete = none → k.cause = 0 → storePlace s.mgt s.dp k.req.addr = some (r, reach, a)
    → (let left := fun (gone supplied : Bool) (d : Dp) =>
        settle s.mgt (serve s.mgt k.via k.req r a (k.supplied || supplied) ((if gone then removeHolder k.line h else id) { d with coh := { d.coh with trackers := l₁ ++ l₂ } }))
      (h = .pkg q.source → lineOf q.addr = k.line → q.opcode = 0x50
        → exec (.invAck q) s = .next { s with dp := left true false (takeInbox q s.dp) })
      ∧ (h = .pkg q.source → lineOf q.addr = k.line → q.opcode = 0x51
        → exec (.snpAck q) s = .next { s with dp := left (w.kind = .fwd && kindOf s.mgt k.via k.req = .own) (w.kind = .fwd && k.via = .daras) (takeInbox q s.dp) })
      ∧ (∀ (p : Fin 2) (addr : BitVec 64), h = .host p → lineOf addr.toNat = k.line
        → exec (.birsp p addr none false) s = .next { s with dp := left (w.kind = .inv) false s.dp })
      ∧ ((∀ c : Fin 8, h ≠ .cluster c) → s.mgt.clk.ltb < w.since + s.mgt.snoopTicks → exec (.snoopTimeout k.line h) s = .next s)))
  ∧ (∀ (s : State) (h : Holder) (k : Tracker) (w : Snoop), k ∈ s.dp.coh.trackers → (∀ x ∈ s.dp.coh.trackers, x.line = k.line → x = k) → w ∈ k.snoops → (∀ x ∈ k.snoops, x.holder = h → x = w)
    → w.holder = h → (∀ c : Fin 8, h ≠ .cluster c) → k.cause = 0 → w.since + s.mgt.snoopTicks ≤ s.mgt.clk.ltb
    → ∃ d : Dp, exec (.snoopTimeout k.line h) s = .next { s with dp := settle s.mgt (snoopAnswered s.mgt k.line h true false d) }
      ∧ (∃ e : LogEntry, d.obs.log.head? = some e ∧ e.severity = 3 ∧ e.block = 8 ∧ e.event = 1 ∧ e.addr = s.mgt.homeId * 2 ^ 50 + k.line * 64
        ∧ e.detail = [match h with | .cluster _ => 0 | .host _ => 1 | .pkg _ => 2, match w.kind with | .inv => 0 | .share => 1 | .cur => 2 | .fwd => 3])
      ∧ d.coh.dir = s.dp.coh.dir
      ∧ (let owned := (s.dp.entry k.line).any fun e => e.owned && h ∈ e.holders s.mgt
        match storePlace s.mgt s.dp (k.line * 64) with
        | some (_, _, a) => (owned = true → a / 64 ∈ d.store.poison) ∧ (owned = false → d.store = s.dp.store)
        | none => d.store = s.dp.store))
  ∧ (∀ (s : State) (c : Fin 8) (line : Nat), exec (.snoopTimeout line (.cluster c)) s = .next s)
  ∧ (∀ (s : State) (p : Fin 2) (addr : BitVec 64) (b : Bytes) (poison : Bool) (k : Tracker) (w : Snoop), k ∈ s.dp.coh.trackers → (∀ x ∈ s.dp.coh.trackers, x.line = k.line → x = k)
    → w ∈ k.snoops → (∀ x ∈ k.snoops, x.holder = .host p → x = w) → w.holder = .host p → w.sent = true → lineOf addr.toNat = k.line
    → exec (.birsp p addr (some b) poison) s = .next { s with dp := settle s.mgt (snoopAnswered s.mgt k.line (.host p) (w.kind = .inv) false (takeData s.mgt k.line (fit 64 b) poison s.dp)) })
  ∧ (∀ (s : State) (q : Msg) (k : Tracker) (l₁ l₂ : List Tracker) (since : Nat), Quiet s.dp → s.dp.coh.trackers = l₁ ++ k :: l₂ → (∀ x ∈ l₁ ++ l₂, x.line ≠ k.line) → k.complete = some since
    → (q.opcode = 0x54 → lineOf q.addr = k.line → k.req.source = q.source → k.req.txn = q.txn
        → exec (.complete q) s = .next { s with dp := stampWaits s.mgt { takeInbox q s.dp with coh := { s.dp.coh with trackers := l₁ ++ l₂ } } })
      ∧ (since + s.mgt.snoopTicks ≤ s.mgt.clk.ltb → exec (.completeTimeout k.line) s = .next { s with dp := stampWaits s.mgt { s.dp with coh := { s.dp.coh with trackers := l₁ ++ l₂ } } })
      ∧ (s.mgt.clk.ltb < since + s.mgt.snoopTicks → exec (.completeTimeout k.line) s = .next s))
  ∧ (∀ (s : State) (q : Msg) (r : Nat) (reach : Reach) (a : Nat), q.opcode = 0x08 → Quiet s.dp → admitted s .daras q = true → unhindered s.mgt (entered .daras q s.dp) .daras q r reach a = true
    → (s.dp.coh.writebacks.filter fun w => homeSlice w.1 = homeSlice (lineOf q.addr)).length < 2048
    → ∃ t : State, exec (.wbReq q) s = .next t ∧ t.mgt = s.mgt ∧ t.dp.store = s.dp.store ∧ t.dp.coh.dir = s.dp.coh.dir
      ∧ if (s.dp.entry (lineOf q.addr)).any (fun e => e.owned && q.source ∈ e.ptrs) = true then
          t.dp.fab = (reply s.mgt q 0x55 0 0 [] (takeInbox q s.dp)).fab ∧ t.dp.coh.writebacks = (lineOf q.addr, q.source) :: s.dp.coh.writebacks ∧ busy t.dp (lineOf q.addr) = true
        else t.dp.fab = (reply s.mgt q 0x56 0 (unanswered s.dp (lineOf q.addr) q.source) [] (takeInbox q s.dp)).fab ∧ t.dp.coh.trackers = s.dp.coh.trackers)
  ∧ (∀ (s : State) (q : Msg) (k : Tracker) (l₁ l₂ : List Tracker), q.opcode = 0x60 → Quiet s.dp → (∀ x ∈ s.dp.coh.txns, x.txn ≠ q.txn) → s.dp.coh.trackers = l₁ ++ k :: l₂ → (∀ x ∈ l₁ ++ l₂, x.line ≠ k.line)
    → k.line = lineOf q.addr → k.cause = 5 → k.owner = some q.source
    → ∃ d : Dp, exec (.data q) s = .next { s with dp := settle s.mgt (send s.mgt (answerMsg k.req s.mgt.self 0x56 0 0 []) (takeData s.mgt k.line q.payload q.poison (removeHolder k.line (.pkg q.source) d))) }
      ∧ d.coh.trackers = l₁ ++ l₂ ∧ d.coh.writebacks = s.dp.coh.writebacks.filter (· ≠ (k.line, q.source)) ∧ d.store = s.dp.store ∧ d.coh.dir = s.dp.coh.dir)

/-- A package without a copy answers a FWD or snoop with INV_ACK. With a copy, a FWD is answered to its requester with the data and to the home with SNP_ACK, a dirty or owner-ordered line read shared also with data to its home; the copy is kept shared, kept as it was, or given up, as the FWD's code says. A snoop is answered with the data where the copy is dirty or SNP_CUR asks for it, and with INV_ACK, the copy given up, or SNP_ACK. A package named owner whose data has not come queues a FWD, and, once it has ACKS_DONE, a snoop. WB_GO is answered with the buffered data, and WB_DONE frees the buffer, or leaves it to the one FWD that its count tells of. Memory, directory and tasks stay. (R122, R126, R132, R134, R137, R138, R346, R347) -/
def Obligations.HolderAnswersItsHome : Prop :=
  (∀ (s : State) (c : Instr) (q : Msg), Quiet s.dp → owning s.dp (q.addr / 64) = none
    → (c = .fwd q ∧ q.opcode ∈ [0x40, 0x41, 0x42] ∨ c = .snpInv q ∧ q.opcode = 0x48 ∨ c = .snpShare q ∧ q.opcode = 0x49 ∨ c = .snpCur q ∧ q.opcode = 0x4A)
    → ∃ t : State, exec c s = .next t ∧ t.mgt = s.mgt ∧ t.dp.store = s.dp.store ∧ t.dp.tasks = s.dp.tasks ∧ t.dp.coh.dir = s.dp.coh.dir ∧ t.dp.coh.trackers = s.dp.coh.trackers ∧ t.dp.coh.txns = s.dp.coh.txns
      ∧ match copyOf s.dp (q.addr / 64) with
        | none => t.dp.fab = (reply s.mgt q 0x50 0 0 [] (takeInbox q s.dp)).fab ∧ t.dp.coh.remote = s.dp.coh.remote
        | some x =>
          let left := fun (st : Nat) => s.dp.coh.remote.flatMap fun z => if z = x then (leftAs x st).toList else [z]
          let line := { answerMsg q s.mgt.self 0x60 0 (x.poison.getD 0) x.data with poison := x.poison.isSome }
          match q.opcode with
          | 0x40 => t.dp.coh.remote = left 1 ∧ t.dp.fab = (sendAll s.mgt ([{ line with target := q.origin }]
              ++ (if q.origin ≠ q.source ∧ (x.state ≥ 3 ∨ s.mgt.pkg.ownerOrdered = true) then [{ line with txn := 0xFFFF }] else []) ++ [answerMsg q s.mgt.self 0x51 0 0 []]) (takeInbox q s.dp)).fab
          | 0x41 => t.dp.coh.remote = left 0 ∧ t.dp.fab = (sendAll s.mgt [{ line with target := q.origin }, answerMsg q s.mgt.self 0x51 0 0 []] (takeInbox q s.dp)).fab
          | 0x42 => t.dp.coh.remote = left x.state ∧ t.dp.fab = (sendAll s.mgt [{ line with target := q.origin }, answerMsg q s.mgt.self 0x51 0 0 []] (takeInbox q s.dp)).fab
          | 0x48 => t.dp.coh.remote = left 0 ∧ t.dp.fab = (sendAll s.mgt ((if x.state ≥ 3 then [line] else []) ++ [answerMsg q s.mgt.self 0x50 0 0 []]) (takeInbox q s.dp)).fab
          | 0x49 => t.dp.coh.remote = s.dp.coh.remote.map (fun z => if z = x then { x with state := 1 } else z)
              ∧ t.dp.fab = (sendAll s.mgt ((if x.state ≥ 3 then [line] else []) ++ [answerMsg q s.mgt.self 0x51 0 0 []]) (takeInbox q s.dp)).fab
          | _ => t.dp.coh.remote = s.dp.coh.remote ∧ t.dp.fab = (sendAll s.mgt [line, answerMsg q s.mgt.self 0x51 0 0 []] (takeInbox q s.dp)).fab)
  ∧ (∀ (s : State) (c : Instr) (q : Msg) (k : Txn), owning s.dp (q.addr / 64) = some k
    → (c = .fwd q ∧ q.opcode ∈ [0x40, 0x41, 0x42] ∧ (∀ x : RemoteLine, copyOf s.dp (q.addr / 64) = some x → x.state < 2)
      ∨ k.acks = true ∧ k.data = none ∧ (c = .snpInv q ∧ q.opcode = 0x48 ∨ c = .snpShare q ∧ q.opcode = 0x49 ∨ c = .snpCur q ∧ q.opcode = 0x4A))
    → exec c s = .next { s with dp := { takeInbox q s.dp with coh := { s.dp.coh with txns := s.dp.coh.txns.map fun x => if x = k then { k with fwds := k.fwds ++ [q] } else x } } })
  ∧ (∀ (s : State) (q : Msg) (k : Txn) (x : RemoteLine), answered s.mgt s.dp q (fun r => r.opcode = 0x08) = some k → bufferOf s.dp (k.msg.addr / 64) = some x →
    (q.opcode = 0x55 → exec (.wbGo q) s = .next { s with dp := send s.mgt (k.reply 0x60 x.data x.poison) (takeInbox q s.dp) })
    ∧ (q.opcode = 0x56 → Quiet s.dp → ∃ t : State, exec (.wbDone q) s = .next t ∧ t.mgt = s.mgt ∧ t.dp.store = s.dp.store ∧ t.dp.coh.dir = s.dp.coh.dir ∧ t.dp.tasks = s.dp.tasks
      ∧ t.dp.coh.txns = s.dp.coh.txns.erase k
      ∧ t.dp.coh.remote = s.dp.coh.remote.flatMap (fun z => if z = x then (if q.arg = 0 ∨ x.state = 0 ∨ x.state = 1 then [] else [{ x with state := 4 }]) else [z])))

/-- The answer of an outstanding request ends it. DATA of a READ_NOALLOC reaches its task or host read with its poison; DATA or GRANT of a request to hold a line, and under owner ordering ACKS_DONE with it, whichever comes last, makes this package hold the line, COMPLETE going out under home ordering, and the task has its line or its store; what comes first is kept. DATA with a status, an ACK or a DATA_RET gives the task what its status means. The ACK of the last guard write of a change acknowledges the change; one with LOST fences the package. WAKE ends a task's wait with the tally's value. A first REDIRECT makes the request wait for the epoch named, a second ends the task with ABORTED. A request that has waited for the end-to-end timeout ends its task with FAIL_TIMEOUT and its target, and is dead. (R132, R133, R144, R346, R347, R349, R361, R363, R393, R396, R536) -/
def Obligations.RequesterTakesItsAnswers : Prop :=
  (∀ (s : State) (q : Msg) (k : Txn), q.opcode = 0x60 → Quiet s.dp → answered s.mgt s.dp q (fun r => r.opcode ≤ 0x05) = some k → k.dead = false → k.fwds = [] →
    let poison := if q.poison then some (bits q.arg 31 0) else none
    (∀ id : Nat, k.via = .task id → ∃ t : State, exec (.data q) s = .next t
      ∧ if q.status ≠ 0 then OnlyTasks s t q k ∧ t.dp.tasks = (taskDone id q.status (bits q.arg 31 0) s.dp).tasks
        else if k.msg.opcode = 0x05 then OnlyTasks s t q k ∧ t.dp.tasks = (deliverTask id ⟨k.msg.addr / 64, q.payload, poison⟩ s.dp).tasks
        else if (k.msg.opcode = 0x03 ∨ k.msg.opcode = 0x04) ∧ k.acks = false then
          t.dp.coh.txns = s.dp.coh.txns.map (fun x => if x = k then { k with data := some q.payload, poison := poison } else x) ∧ t.dp.tasks = s.dp.tasks ∧ t.dp.coh.remote = s.dp.coh.remote
          ∧ t.dp.store = s.dp.store ∧ t.mgt = s.mgt
        else 0x01 ≤ k.msg.opcode → Performed s t q k id q.payload poison)
    ∧ (∀ p : Fin 2, k.via = .host p → k.msg.opcode = 0x05 → q.status = 0 → ∃ t : State, exec (.data q) s = .next t ∧ t.mgt = s.mgt ∧ t.dp.store = s.dp.store ∧ t.dp.tasks = s.dp.tasks
      ∧ t.dp.coh.txns = s.dp.coh.txns.erase k ∧ t.dp.hosts = (deliverHost s.mgt p.val (k.msg.addr / 64) q.payload poison s.dp).hosts))
  ∧ (∀ (s : State) (q : Msg) (k : Txn) (id : Nat) (x : RemoteLine), q.opcode = 0x52 → Quiet s.dp → answered s.mgt s.dp q (fun r => r.opcode = 0x02 || r.opcode = 0x04) = some k → k.dead = false → k.fwds = []
    → k.via = .task id → s.dp.coh.remote.find? (fun x => x.line = k.msg.addr / 64 && !x.writeback) = some x → (k.msg.opcode = 0x02 ∨ k.acks = true)
    → ∃ t : State, exec (.grant q) s = .next t ∧ Performed s t q k id x.data x.poison)
  ∧ (∀ (s : State) (q : Msg) (k : Txn) (id : Nat), q.opcode = 0x53 → Quiet s.dp → answered s.mgt s.dp q (fun r => r.opcode = 0x03 || r.opcode = 0x04) = some k → k.dead = false → k.fwds = [] → k.via = .task id
    → ∃ t : State, exec (.acksDone q) s = .next t
      ∧ match k.data with
        | some b => Performed s t q k id b k.poison
        | none => t = { s with dp := { takeInbox q s.dp with coh := { s.dp.coh with txns := s.dp.coh.txns.map fun x => if x = k then { k with acks := true } else x } } })
  ∧ (∀ (s : State) (q : Msg) (k : Txn) (id : Nat), q.opcode = 0x58 → Quiet s.dp → answered s.mgt s.dp q (fun r => 0x05 < r.opcode && r.opcode ≠ 0x08) = some k → k.dead = false → k.via = .task id
    → (s.dp.task id).isSome = true → k.msg.opcode ≠ 0x1B → k.msg.opcode ≠ 0x1C → ∃ t : State, exec (.ack q) s = .next t ∧ OnlyTasks s t q k
      ∧ t.dp.tasks = (if k.msg.opcode = 0x18 ∨ k.msg.opcode = 0x19
          then modTask id (fun x => { x with outstanding := x.outstanding - 1, prog := { x.prog with asked := (k.msg.addr, q.status, q.arg) :: x.prog.asked.filter (·.1 ≠ k.msg.addr) } }) s.dp
          else taskDone id q.status (if q.status = 0x03 then 0xFFFFFFFF else bits q.arg 31 0) s.dp).tasks)
  ∧ (∀ (s : State) (q : Msg) (k : Txn) (w : Tracker) (l₁ l₂ : List Tracker) (r : Nat) (reach : Reach) (a : Nat) (g : Nat × Nat × Bytes × Nat), q.opcode = 0x58 → Quiet s.dp
    → answered s.mgt s.dp q (fun r => 0x05 < r.opcode && r.opcode ≠ 0x08) = some k → k.via = .daras → s.dp.coh.trackers = l₁ ++ w :: l₂ → (∀ x ∈ l₁ ++ l₂, x.line ≠ w.line ∧ (∀ y ∈ x.guards, y.2.1 ≠ q.txn) ∧ x.settled = false)
    → w.guards = [g] → g.2.1 = q.txn → w.cause = 4 → w.snoops = [] → w.complete = none → w.via = .daras → w.req.opcode ∈ [0x06, 0x07, 0x12, 0x18, 0x19] → w.req.status ≠ 0x04 → w.req.status ≠ 0x05
    → storePlace s.mgt s.dp w.req.addr = some (r, reach, a) → q.status ≠ 0x05
    → ∃ t : State, exec (.ack q) s = .next t ∧ t.mgt = s.mgt ∧ t.dp.store = s.dp.store ∧ t.dp.coh.trackers = l₁ ++ l₂ ∧ t.dp.coh.txns = s.dp.coh.txns.erase k
      ∧ t.dp.fab = (reply s.mgt w.req 0x58 w.req.status w.req.arg [] (takeInbox q s.dp)).fab)
  ∧ (∀ (s : State) (q : Msg) (k : Txn), q.opcode = 0x58 → answered s.mgt s.dp q (fun r => 0x05 < r.opcode && r.opcode ≠ 0x08) = some k → k.via = .daras → q.status = 0x05
    → ∃ t : State, exec (.ack q) s = .next t ∧ t.dp.fab.whist.fenced = true ∧ t.mgt = s.mgt)
  ∧ (∀ (s : State) (q : Msg) (k : Txn) (id : Nat), Quiet s.dp → k.dead = false → k.via = .task id →
    (q.opcode = 0x61 → answered s.mgt s.dp q (fun r => r.opcode = 0x11 || r.opcode = 0x28) = some k
      → ∃ t : State, exec (.dataRet q) s = .next t ∧ OnlyTasks s t q k ∧ t.dp.tasks = (taskDone id (if q.poison then 0x04 else q.status) (bits q.arg 31 0) s.dp).tasks)
    ∧ (q.opcode = 0x59 → answered s.mgt s.dp q (fun r => r.opcode = 0x1B) = some k
      → ∃ t : State, exec (.wake q) s = .next t ∧ OnlyTasks s t q k ∧ t.dp.tasks = (wakeTask id q.arg s.dp).tasks)
    ∧ (q.opcode = 0x57 → s.dp.coh.txns.find? (fun t => t.txn = q.txn && (fromTarget s.mgt t.msg.target q || t.msg.addr = q.addr)) = some k →
      if k.msg.redirected = true then
        ∃ t : State, exec (.redirect q) s = .next t ∧ OnlyTasks s t q k ∧ t.dp.tasks = (abortTask id 0x02 (modTask id (fun x => { x with outstanding := x.outstanding - 1 }) s.dp)).tasks
      else bits q.arg 7 0 ∉ s.mgt.epochs → (∀ x ∈ s.dp.coh.txns, x.txn = q.txn → x = k) → k.msg.txn = k.txn
        → ∃ (t : State) (w : Msg), exec (.redirect q) s = .next t ∧ t.mgt = s.mgt ∧ t.dp.tasks = s.dp.tasks ∧ t.dp.store = s.dp.store ∧ t.dp.coh.heldHome = [w] ∧ w.epoch = bits q.arg 7 0 ∧ w.redirected = true ∧ w.txn = k.msg.txn
          ∧ t.dp.coh.txns = s.dp.coh.txns.map (fun x => if x = k then { k with msg := { k.msg with redirected := true, epoch := bits q.arg 7 0 } } else x)))
  ∧ (∀ (s : State) (id : Nat) (addr : BitVec 64), Quiet s.dp → id ≠ 0 → outWindow s.mgt addr.toNat = none → (s.dp.task id).isSome = true
    → (∀ x ∈ s.dp.coh.stamps, x.1 = id → x.2.1 = addr.toNat / 64 → s.mgt.clk.ltb < x.2.2 + s.mgt.e2e)
    → ∃ t : State, exec (.e2eTimeout id addr) s = .next t ∧ t.mgt = s.mgt ∧ t.dp.store = s.dp.store ∧ t.dp.fab = s.dp.fab
      ∧ match s.dp.coh.txns.find? (fun t => t.via = .task id && !t.dead && t.msg.addr / 64 = addr.toNat / 64 && t.msg.opcode ≠ 0x1B && t.msg.opcode ≠ 0x08 && decide (s.mgt.clk.ltb ≥ t.since + s.mgt.e2e)) with
        | some k => t.dp.coh.txns = s.dp.coh.txns.map (fun x => if x = k then { k with dead := true } else x)
          ∧ t.dp.tasks = (failTask id 0x25 (addr.toNat / 2 ^ 50) (modTask id (fun x => { x with outstanding := x.outstanding - 1 }) s.dp)).tasks
        | none => t.dp.coh.txns = s.dp.coh.txns ∧ t.dp.tasks = s.dp.tasks)

/-- A watch of a PLAIN tally already reached is answered WAKE with its value, one that is not is registered unanswered, and with 16,384 watches at the home it is answered NO_WATCH; outside PLAIN memory it is refused with ACCESS. A TALLY_UNWATCH takes its watch out and is acknowledged. A TOKEN_POST within one line, held up by nothing in an unguarded, unsealed region, replaces the bytes it carries and is acknowledged. A MGMT_READ of a composed package at an offset of R353 returns the bytes of the status window there, in any partition; at any other offset, or from a package not composed, it is answered with ACCESS. (R353) -/
def Obligations.OtherDarasRequestsAreAnswered : Prop :=
  (∀ (s : State) (q : Msg) (r : Nat) (reach : Reach) (a v : Nat), q.opcode = 0x1B → Quiet s.dp → gate s.mgt (takeInbox q s.dp) q = .pass
    → storePlace s.mgt s.dp q.addr = some (r, reach, a) → tallyValue s.mgt s.dp q.addr = some v
    → ∃ t : State, exec (.tallyWatch q) s = .next t ∧ t.mgt = s.mgt ∧ t.dp.store = s.dp.store ∧ t.dp.coh.dir = s.dp.coh.dir ∧ t.dp.tasks.tasks = s.dp.tasks.tasks
      ∧ if reach ≠ .plain ∨ (s.mgt.region r).map (·.kind) ≠ some 1 then t.dp.fab = (reply s.mgt q 0x58 0x01 0 [] (takeInbox q s.dp)).fab ∧ t.dp.tasks.watches = s.dp.tasks.watches
        else if q.arg ≤ v then t.dp.fab = (reply s.mgt q 0x59 0 v [] (takeInbox q s.dp)).fab ∧ t.dp.tasks.watches = s.dp.tasks.watches
        else if 16384 ≤ watchCount s.dp (lineOf q.addr) then t.dp.fab = (reply s.mgt q 0x58 0x08 0 [] (takeInbox q s.dp)).fab ∧ t.dp.tasks.watches = s.dp.tasks.watches
        else t.dp.fab = (takeInbox q s.dp).fab ∧ t.dp.tasks.watches = s.dp.tasks.watches ++ [⟨q.addr, q.arg, none, some q, false⟩])
  ∧ (∀ (s : State) (q : Msg) (x : Watch) (l₁ l₂ : List Watch) (w : Msg), q.opcode = 0x1C → gate s.mgt (takeInbox q s.dp) q = .pass → s.dp.tasks.watches = l₁ ++ x :: l₂
    → x.addr = q.addr → x.msg = some w → w.source = q.source → (∀ y ∈ l₁ ++ l₂, y.addr = q.addr → (y.msg.map (·.source)) ≠ some q.source)
    → ∃ t : State, exec (.tallyUnwatch q) s = .next t ∧ t.dp.tasks = { s.dp.tasks with watches := l₁ ++ l₂ } ∧ t.dp.fab = (reply s.mgt q 0x58 0 0 [] (takeInbox q s.dp)).fab
      ∧ t.mgt = s.mgt ∧ t.dp.store = s.dp.store ∧ t.dp.coh = s.dp.coh)
  ∧ (∀ (s : State) (q : Msg) (r a : Nat) (g : Region), q.opcode = 0x21 → q.payload ≠ [] → q.addr % 64 + q.payload.length ≤ 64 → Memory.wf s.dp.store.mem = true → Quiet s.dp
    → gate s.mgt (entered .daras q s.dp) q = .pass → gate s.mgt (entered .daras q s.dp) { q with addr := q.addr + (q.payload.length - 1) } = .pass
    → unhindered s.mgt (entered .daras q s.dp) (.task groupBase) { q with opcode := 0x06, addr := q.addr / 64 * 64, payload := [0] } r .plain a = true
    → s.mgt.region r = some g → g.sealed = false → g.guard = 0 → s.dp.coh.groups = [] → (∀ x ∈ s.dp.tasks.tasks, x.id < groupBase)
    → ∃ t : State, exec (.tokenPost q) s = .next t ∧ t.mgt = s.mgt ∧ t.dp.tasks = s.dp.tasks ∧ t.dp.fab = (reply s.mgt q 0x58 0 0 [] (takeInbox q s.dp)).fab ∧ t.dp.coh.groups = []
      ∧ (∀ i : Nat, i < 64 → (readLine s.mgt t.dp r a).1.getD i 0
        = (if q.addr % 64 ≤ i ∧ i < q.addr % 64 + q.payload.length then q.payload.getD (i - q.addr % 64) 0 else (readLine s.mgt s.dp r a).1.getD i 0))
      ∧ (∀ b : Nat, b / 64 ≠ a / 64 → cellGet 0 t.dp.store.mem b = cellGet 0 s.dp.store.mem b)
      ∧ t.dp.entry (lineOf q.addr) = none ∧ ∀ b : Nat, b ≠ lineOf q.addr → t.dp.entry b = s.dp.entry b)
  ∧ (∀ (s : State) (q : Msg), q.opcode = 0x28 → s.dp.fab.whist.fenced = false → q.epoch ∈ s.mgt.epochs
    → ∃ t : State, exec (.mgmtRead q) s = .next t ∧ t.mgt = s.mgt ∧ t.dp.store = s.dp.store ∧ t.dp.tasks = s.dp.tasks ∧ t.dp.coh = s.dp.coh ∧ t.dp.hosts = s.dp.hosts
      ∧ (let n := bits q.arg 7 0
        let listed := 8 ≤ n ∧ n ≤ 128 ∧ (q.addr + n ≤ 0x10 ∨ 0x200 ≤ q.addr ∧ q.addr + n ≤ 0x280)
        if listed ∧ s.mgt.composed q.source = true then
          t.dp.fab = (reply s.mgt q 0x61 0 0 (fit (roundUp n 16) (statusBytes s.mgt (takeInbox q s.dp) none q.addr n)) (takeInbox q s.dp)).fab ∧ t.dp.obs = s.dp.obs
        else t.dp.fab = (reply s.mgt q 0x61 0x01 0 (zeros 8) (takeInbox q s.dp)).fab))

/-- With scrubbing enabled and the line's device in service, a corrected error is logged with its device, rank, bank and row and leaves the store as it was; an uncorrectable one poisons its line, is logged, and leaves every byte and every other line's poison; the eighth different row within 1 ms fails the device. A sound read, or a line of a failed device, changes nothing. A successful recalibration forgets the channel's failures, a failed one counts, and the third in a row fails every DIMM of the channel; a channel without a DIMM changes nothing. (R33, R34, R47, R142, R398) -/
def Obligations.ErrorsAndFailuresOfTheTiers : Prop :=
  (∀ (s : State) (line : Nat), s.mgt.pkg.scrubHours ≠ 0 → frameFailed s.mgt s.dp (line / 1024) = false →
    let dev := deviceOf s.mgt (line / 1024) (frameRec s.mgt s.dp (line / 1024)).loc
    exec (.patrolScrub line .none) s = .next s
    ∧ (∀ rank bank row : Nat, ∃ (t : State) (e : LogEntry), exec (.patrolScrub line (.corrected rank bank row)) s = .next t ∧ t.dp.obs.log.head? = some e ∧ e.severity = 2 ∧ e.block = 7 ∧ e.event = 3
      ∧ e.addr = s.mgt.homeId * 2 ^ 50 + line * 64 ∧ e.detail = [dev, rank, bank, row] ∧ { t.dp with obs := s.dp.obs } = s.dp ∧ t.mgt = s.mgt)
    ∧ (∀ rank bank row : Nat, ∃ (t : State) (e : LogEntry), exec (.patrolScrub line (.uncorrectable rank bank row)) s = .next t ∧ e ∈ t.dp.obs.log.take 2 ∧ e.severity = 3 ∧ e.block = 7 ∧ e.event = 4
      ∧ e.addr = s.mgt.homeId * 2 ^ 50 + line * 64 ∧ e.detail = [dev, rank, bank, row] ∧ t.mgt = s.mgt ∧ t.dp.store.mem = s.dp.store.mem
      ∧ (∀ l : Nat, l ∈ t.dp.store.poison ↔ l = line ∨ l ∈ s.dp.store.poison)
      ∧ (let l := (frameRec s.mgt s.dp (line / 1024)).loc
        let key := if l.far then dev else 64 + dev + 8 * rank
        let rows := (key, rank * 2 ^ 48 + bank * 2 ^ 40 + row, s.mgt.clk.ltb) :: s.dp.store.badRows.filter fun x => s.mgt.clk.ltb < x.2.2 + 100000
        t.dp.store.failed = s.dp.store.failed ++ (if 8 ≤ ((rows.filter (·.1 = key)).map (·.2.1)).eraseDups.length then [(l.far, dev)] else []))))
  ∧ (∀ (s : State) (line : Nat) (e : LineError), frameFailed s.mgt s.dp (line / 1024) = true → exec (.patrolScrub line e) s = .next s)
  ∧ (∀ (s : State) (c : Fin 16), (∀ x ∈ s.mgt.far.trained, x.channel ≠ c.val) → ∀ ok : Bool, exec (.channelRecalibration c ok) s = .next s)
  ∧ (∀ (s : State) (c : Fin 16), (∃ x ∈ s.mgt.far.trained, x.channel = c.val) →
    exec (.channelRecalibration c true) s = .next { s with dp := { s.dp with store := { s.dp.store with recalFails := dropKey s.dp.store.recalFails c.val } } }
    ∧ ∃ t : State, exec (.channelRecalibration c false) s = .next t ∧ t.mgt = s.mgt ∧ t.dp.store.mem = s.dp.store.mem ∧ t.dp.store.poison = s.dp.store.poison
      ∧ assoc t.dp.store.recalFails c.val = some ((assoc s.dp.store.recalFails c.val).getD 0 + 1)
      ∧ (if (assoc s.dp.store.recalFails c.val).getD 0 < 2 then t.dp.store.failed = s.dp.store.failed
        else (∀ x ∈ s.mgt.far.trained, x.channel = c.val → (true, 2 * c.val + x.slot) ∈ t.dp.store.failed)
          ∧ ∀ y ∈ t.dp.store.failed, y ∈ s.dp.store.failed ∨ ∃ x ∈ s.mgt.far.trained, x.channel = c.val ∧ y = (true, 2 * c.val + x.slot)))

/-- In service, when the heat epoch has passed, every frame's two heat counters are halved, each half's migrator begins at most its budget of moves, those under way stay, and no byte, poison or directory entry changes; before that it changes nothing. A pass that ends with 64 dirty lines or fewer begins the flip; with more, the first three begin the next pass with none, and the fourth abandons the move, its frame where it was. The end of a flip puts the frame at its destination, and a frame it swaps with where the frame was; the move is over, memory and poison are as they were, and the held adds and waiting requests go on from there. (R25, R36, R37, R40, R41, R42, R44, R46) -/
def Obligations.FramesMoveWithTheirHeat : Prop :=
  (∀ s : State, if s.mgt.running = true ∧ s.dp.store.heatTick + s.mgt.pkg.heatEpochMs * 100000 ≤ s.mgt.clk.ltb then
      ∃ (t : State) (begun : List Move), exec .heatEpochEnd s = .next t ∧ t.mgt = s.mgt ∧ t.dp.coh = s.dp.coh ∧ t.dp.tasks = s.dp.tasks ∧ t.dp.fab = s.dp.fab
        ∧ t.dp.store.mem = s.dp.store.mem ∧ t.dp.store.poison = s.dp.store.poison ∧ t.dp.store.heatTick = s.mgt.clk.ltb
        ∧ (∀ f : Nat, (frameRec s.mgt t.dp f).heatW = (frameRec s.mgt s.dp f).heatW / 2 ∧ (frameRec s.mgt t.dp f).heatE = (frameRec s.mgt s.dp f).heatE / 2 ∧ (frameRec s.mgt t.dp f).fresh = (frameRec s.mgt s.dp f).fresh)
        ∧ t.dp.store.moves = s.dp.store.moves ++ begun ∧ begun.length ≤ 2 * s.mgt.pkg.migrateBudget ∧ ∀ v ∈ begun, v.pass = 1 ∧ v.dirty = [] ∧ v.flipping = false
    else exec .heatEpochEnd s = .next s)
  ∧ (∀ (s : State) (v : Move) (l₁ l₂ : List Move), s.dp.store.moves = l₁ ++ v :: l₂ → (∀ x ∈ l₁ ++ l₂, x.frame ≠ v.frame) →
    (v.flipping = false →
      (v.dirty.length ≤ 64 → exec (.migrationPassEnd v.frame) s = .next { s with dp := { s.dp with store := { s.dp.store with moves := l₁ ++ { v with flipping := true } :: l₂ } } })
      ∧ (64 < v.dirty.length → v.pass < 4 → exec (.migrationPassEnd v.frame) s = .next { s with dp := { s.dp with store := { s.dp.store with moves := l₁ ++ { v with pass := v.pass + 1, dirty := [] } :: l₂ } } })
      ∧ (64 < v.dirty.length → 4 ≤ v.pass → exec (.migrationPassEnd v.frame) s
          = .next { s with dp := settle s.mgt (replayAdds s.mgt v (countNamed 4 { s.dp with store := { s.dp.store with moves := l₁ ++ l₂ } })) }))
    ∧ (v.flipping = true → exec (.migrationPassEnd v.frame) s = .next s
      ∧ ∃ d : Dp, exec (.migrationFlipEnd v.frame) s = .next { s with dp := settle s.mgt (replayAdds s.mgt v d) }
        ∧ d.store.moves = l₁ ++ l₂ ∧ d.store.mem = s.dp.store.mem ∧ d.store.poison = s.dp.store.poison ∧ d.store.side = s.dp.store.side ∧ d.coh = s.dp.coh ∧ d.tasks = s.dp.tasks ∧ d.fab = s.dp.fab
        ∧ (v.swap ≠ some v.frame → frameRec s.mgt d v.frame = { frameRec s.mgt s.dp v.frame with loc := v.dest })
        ∧ (∀ g : Nat, v.swap = some g → g ≠ v.frame → frameRec s.mgt d g = { frameRec s.mgt s.dp g with loc := (frameRec s.mgt s.dp v.frame).loc })
        ∧ (∀ f : Nat, f ≠ v.frame → v.swap ≠ some f → frameRec s.mgt d f = frameRec s.mgt s.dp f)
        ∧ (v.flipping = true → Quiet s.dp → (∀ e ∈ s.dp.store.side, v.covers (e.line / 1024) = false) → settle s.mgt (replayAdds s.mgt v d) = stampWaits s.mgt d)))

/-- For a frame of a dual-resolution region whose coarse copy is stale and whose device is in service, the end of the rebuild clears the mark and leaves every byte of memory and every other frame's codes; a frame marked coarse-absent is counted and has no code. A frame that is not stale, or of no such region, is unchanged. A deadline that passes for a far-tier block of a running task makes the block late under COARSE and ends the task with FAIL_LATE and the region under FAIL; under WAIT, and for a near block or a task that does not run, it changes nothing. (R47, R49, R50, R51, R52) -/
def Obligations.CoarseCopiesAndDeadlines : Prop :=
  (∀ (s : State) (f : Nat) (g : Region), frameRegion s.mgt f = some g → g.coarse ≠ 0 →
    if (frameRec s.mgt s.dp f).coarseStale = true ∧ frameFailed s.mgt s.dp f = false then
      ∃ t : State, exec (.coarseRebuildDone f) s = .next t ∧ t.mgt = s.mgt ∧ t.dp.store.mem = s.dp.store.mem ∧ t.dp.store.poison = s.dp.store.poison ∧ t.dp.coh = s.dp.coh ∧ t.dp.tasks = s.dp.tasks
        ∧ (frameRec s.mgt t.dp f).coarseStale = false ∧ (frameRec s.mgt t.dp f).heatW = (frameRec s.mgt s.dp f).heatW ∧ (frameRec s.mgt t.dp f).heatE = (frameRec s.mgt s.dp f).heatE
        ∧ ((frameRec s.mgt t.dp f).coarseAbsent = true → (∀ c ∈ t.dp.store.coarse, c.1 / 65536 ≠ f) ∧ t.dp.obs = (countNamed 6 s.dp).obs)
        ∧ (∀ c ∈ s.dp.store.coarse, c.1 / 65536 ≠ f → c ∈ t.dp.store.coarse)
        ∧ ∀ x : Nat, x ≠ f → frameRec s.mgt t.dp x = frameRec s.mgt s.dp x
    else exec (.coarseRebuildDone f) s = .next s)
  ∧ (∀ (s : State) (id block : Nat) (k : Task), s.dp.task id = some k →
    if k.state = .running ∧ k.result = none ∧ (frameAt s.mgt s.dp block).any (fun f => (frameRec s.mgt s.dp f).loc.far) = true then
      (k.latePolicy = 2 → Quiet s.dp → ∃ (t : State) (x : Task), exec (.blockDeadlineExpiry id block) s = .next t ∧ t.mgt = s.mgt ∧ t.dp.store = s.dp.store ∧ t.dp.fab = s.dp.fab
        ∧ t.dp.task id = some x ∧ x.result = some ⟨0x23, regionOf s.mgt s.dp block, 0, 0, 0⟩ ∧ x.state = .ending ∧ ∀ y : Nat, y ≠ id → t.dp.task y = s.dp.task y)
      ∧ (k.latePolicy = 1 → exec (.blockDeadlineExpiry id block) s = .next { s with dp := modTask id (fun x => { x with late := addNew x.late block }) s.dp })
      ∧ (k.latePolicy ≠ 1 → k.latePolicy ≠ 2 → exec (.blockDeadlineExpiry id block) s = .next s)
    else exec (.blockDeadlineExpiry id block) s = .next s)

/-- The completion of an outstanding translation that grants the page, and that no invalidation covers, puts it into the cache of every cluster that asked; one with an error, a smaller range or no permission ends the tasks that asked with HOST_ERROR, SMALL_PAGE or REFUSED; one under an invalidation is discarded and the request waits. Of fewer than 32 invalidations one more is taken and marks the entries in its range. It ends when no transfer under an old translation is left: the entries in its range go, the others stay, and the host is answered with its tag. An outbound read's data reaches its task; a read past the Completion Timeout is reported and given up, and a completion that nothing awaits is reported as Unexpected Completion. Memory and the directory stay. (R63, R65, R66, R68, R69, R70, R71, R113, R324) -/
def Obligations.TranslationsAndOutboundReads : Prop :=
  (∀ (s : State) (p : Fin 2) (page : BitVec 64) (a : AtsAnswer) (r : XltReq), s.dp.hosts.reqs.find? (fun r => r.port = p.val && r.page = page.toNat && r.sent) = some r →
    if invalidating s.dp r.port r.page r.bytes = true then
      exec (.translationCompletion p page a) s = .next { s with dp := { s.dp with hosts := { s.dp.hosts with reqs := s.dp.hosts.reqs.map fun x => if x = r then { r with sent := false } else x } } }
    else Quiet s.dp → s.dp.tasks.due = [] → ∃ t : State, exec (.translationCompletion p page a) s = .next t ∧ t.mgt = s.mgt ∧ t.dp.store = s.dp.store ∧ t.dp.coh.dir = s.dp.coh.dir ∧ t.dp.fab = s.dp.fab
      ∧ if a.error = false ∧ r.bytes ≤ a.bytes ∧ (a.read || a.write) = true then
          t.dp.tasks = s.dp.tasks ∧ ∀ c ∈ r.clusters, ∃ x ∈ t.dp.hosts.caches, x.cluster = c ∧ x.port = r.port ∧ x.page = r.page ∧ x.bytes = r.bytes
            ∧ x.base = a.base / a.bytes * a.bytes + r.page % a.bytes ∧ x.read = a.read ∧ x.write = a.write ∧ x.invalidating = false
        else t.dp.hosts.caches = s.dp.hosts.caches ∧ ∀ (i : Nat) (k : Task), s.dp.task i = some k → k.prog.stage ≠ 23 →
          ∃ x : Task, t.dp.task i = some x ∧ x.result = (if i ∈ r.tasks ∧ (k.result.map (·.status)).getD 0 = 0 then some ⟨0x24, if a.error then 0x03 else if a.bytes < r.bytes then 0x04 else 0x02, 0, 0, 0⟩ else k.result))
  ∧ (∀ (s : State) (p : Fin 2) (g : Fin 32) (base : BitVec 64) (n : Nat),
    if (s.dp.hosts.invals.filter fun v => v.port = p.val && v.answer).length < 32 then
      ∃ t : State, exec (.atsInvalidateRequest p g base n) s = .next t ∧ t.mgt = s.mgt ∧ { t.dp with hosts := s.dp.hosts } = s.dp
        ∧ t.dp.hosts.invals = s.dp.hosts.invals ++ [⟨p.val, g.val, base.toNat, n, true⟩]
        ∧ t.dp.hosts.caches = s.dp.hosts.caches.map (fun x => if x.port = p.val ∧ x.page < base.toNat + n ∧ base.toNat < x.page + x.bytes then { x with invalidating := true } else x)
        ∧ t.dp.hosts.reqs = s.dp.hosts.reqs ∧ t.dp.hosts.reads = s.dp.hosts.reads ∧ t.dp.hosts.ports = s.dp.hosts.ports
    else exec (.atsInvalidateRequest p g base n) s = .next s)
  ∧ (∀ (s : State) (p : Fin 2) (g : Fin 32) (v : Inval), s.dp.hosts.invals.find? (fun v => v.port = p.val && v.itag = g.val) = some v →
    if underOld s.mgt s.dp v = true then exec (.invalidateDrainEnd p g) s = .next s
    else ∃ (t : State) (asked : List Out), exec (.invalidateDrainEnd p g) s = .next t ∧ t.mgt = s.mgt ∧ t.dp.store = s.dp.store ∧ t.dp.tasks = s.dp.tasks ∧ t.dp.coh = s.dp.coh
      ∧ t.dp.hosts.caches = s.dp.hosts.caches.filter (fun x => !(x.port = v.port && x.page < v.base + v.bytes && v.base < x.page + x.bytes)) ∧ t.dp.hosts.invals = s.dp.hosts.invals.erase v
      ∧ t.dp.out = s.dp.out ++ (if v.answer then [.atsInvalidated p.val g.val] else []) ++ asked ∧ ∀ o ∈ asked, ∃ q a n : Nat, o = .atsRequest q a n)
  ∧ (∀ (s : State) (p : Fin 2) (tag : Nat) (r : OutRead), s.dp.hosts.reads.find? (fun r => r.port = p.val && r.tag = tag) = some r → r.lost = false → r.drained = false →
    (∀ b : Bytes, exec (.outboundReadCompletion p tag (some b)) s = .next { s with dp :=
      (if r.flush then id else modTask r.task fun k => { k with arrived := ⟨r.line, fit 64 b, none⟩ :: k.arrived.filter (·.line ≠ r.line) }) { s.dp with hosts := { s.dp.hosts with reads := s.dp.hosts.reads.erase r } } })
    ∧ exec (.outboundReadCompletion p tag none) s = .next { s with dp := { s.dp with hosts := { s.dp.hosts with reads := s.dp.hosts.reads.map fun x => if x = r then { r with drained := true, lost := true } else x } } }
    ∧ (r.since + 100 * (s.dp.hostPort p.val).timeoutUs ≤ s.mgt.clk.ltb → p.val < s.dp.hosts.ports.length → ∃ t : State, exec (.outboundCompletionTimeout p tag) s = .next t ∧ t.mgt = s.mgt ∧ t.dp.tasks = s.dp.tasks ∧ t.dp.store = s.dp.store
      ∧ (t.dp.hostPort p.val).uncorrStatus = (s.dp.hostPort p.val).uncorrStatus ||| 0x4000 ∧ (∃ x ∈ t.dp.hosts.reads, x = { r with lost := true }) ∧ t.dp.hosts.reads.length = s.dp.hosts.reads.length))
  ∧ (∀ (s : State) (p : Fin 2) (tag : Nat), p.val < s.dp.hosts.ports.length → (∀ r ∈ s.dp.hosts.reads, r.port = p.val → r.tag ≠ tag) →
    (∀ c : Option Bytes, ∃ t : State, exec (.outboundReadCompletion p tag c) s = .next t ∧ (t.dp.hostPort p.val).uncorrStatus = (s.dp.hostPort p.val).uncorrStatus ||| 0x10000 ∧ t.dp.hosts.reads = s.dp.hosts.reads ∧ t.dp.tasks = s.dp.tasks ∧ t.dp.store = s.dp.store ∧ t.mgt = s.mgt)
    ∧ ∃ t : State, exec (.unexpectedCompletion p tag) s = .next t ∧ (t.dp.hostPort p.val).uncorrStatus = (s.dp.hostPort p.val).uncorrStatus ||| 0x10000 ∧ t.dp.hosts.reads = s.dp.hosts.reads ∧ t.dp.tasks = s.dp.tasks ∧ t.dp.store = s.dp.store ∧ t.mgt = s.mgt)

/-- A record that comes through a port that decodes its BARs, in service and not fenced, is decided at once, or waits behind the port's earlier writes; a task post of another package, in a partition that is attached, is decided at once and acknowledged. A record for a slot the image does not declare is logged and discarded, a post besides refused with NO_SLOT. Otherwise the first check of R153 that the record fails rejects it, with that check's status, detail and place, and no task is taken. A record that passes every check, of an opcode whose object is not a view or session, is accepted: one task more, with the record, its slot, partition and tick, and the slot's expected alive value one past the record's, but for LEASE_RENEW and SLOT_RESET; with no wait it is ready, and memory and the directory stay. That accepting these two leaves the alive value is the model's choice (log entry 60). (R118, R148, R149, R150, R151, R153, R155, R162, R308, R349, R351) -/
def Obligations.RecordsAreDecidedInOrder : Prop :=
  (∀ (s : State) (p : Fin 2) (off : Nat) (b : Bytes),
    ((s.dp.hostPort p.val).decodes = false → exec (.taskRecordWrite p off b) s = .next s)
    ∧ ((s.dp.hostPort p.val).decodes = true → s.mgt.running = true → s.dp.fab.whist.fenced = false →
      if overLimit s.mgt s.dp p.val = true ∨ portWrites s.dp p.val = true ∨ (s.dp.lease p.val).held ≠ [] then
        exec (.taskRecordWrite p off b) s = .next { s with dp := modLease p.val (fun l => { l with held := l.held ++ [.taskRecordWrite p off b] }) s.dp }
      else exec (.taskRecordWrite p off b) s = .next { s with dp := acceptRecord s.mgt (off % 0x400000 / 4096) (off % 128 = 0) (.host p.val) b (hostBytes p.val b.length s.dp) }))
  ∧ (∀ (s : State) (q : Msg), s.dp.fab.whist.fenced = false → q.source ≠ s.mgt.self → ((s.mgt.part q.partition).isSome = true → s.mgt.attach q.partition = 1) →
    if (s.mgt.slotEntry q.slot).isSome = true then exec (.taskPost q) s = .next { s with dp := reply s.mgt q 0x58 0 0 [] (acceptRecord s.mgt q.slot true (.pkg q.source q.partition) q.payload (takeInbox q s.dp)) }
    else ∃ (t : State) (e : LogEntry), exec (.taskPost q) s = .next t ∧ t.mgt = s.mgt ∧ t.dp.tasks = s.dp.tasks ∧ t.dp.store = s.dp.store ∧ t.dp.fab = (reply s.mgt q 0x58 0x03 0 [] (takeInbox q s.dp)).fab
      ∧ e ∈ t.dp.obs.log ∧ e.block = 2 ∧ e.event = 3 ∧ e.package = q.source ∧ e.slot = q.slot)
  ∧ (∀ (m : Mgt) (d : Dp) (n : Nat) (e : SlotEntry) (x : Slot) (aligned : Bool) (route : Route) (r : Bytes), m.slotEntry n = some e → d.slot e.number = some x → x.alive < 256 →
    match firstFailure m d e x aligned route r with
    | some f => Rejected m e x r f.2.2 f.1 f.2.1 d (acceptRecord m n aligned route r d)
    | none => fieldAt r 0 63 56 < 0x60 → (fieldAt r 0 63 56 = 0x32 → (attOps r).fn = 2) → step10 m d e (fieldAt r 0 63 56) r = .ok none → fieldAt r 5 63 62 = 0 → Quiet d
      → ∃ (d' : Dp) (k : Task), acceptRecord m n aligned route r d = d' ∧ d'.tasks.tasks.map (fun y => { y with state := .running }) = (d.tasks.tasks ++ [k]).map (fun y => { y with state := .running }) ∧ k.record = r ∧ k.slot = e.number ∧ k.part = e.partition ∧ k.tick = m.clk.ltb ∧ k.result = none
        ∧ k.id = d.tasks.nextTask + 1 ∧ d'.tasks.nextTask = k.id ∧ ((∀ y ∈ d.tasks.tasks, y.id ≠ k.id) → d'.tasks.tasks = d.tasks.tasks ++ [k] ∧ k.state = readyState d' k)
        ∧ d'.slot e.number = some (if fieldAt r 0 63 56 = 0x02 then { x with state := .resetting } else if fieldAt r 0 63 56 = 0x01 then x else { x with alive := (fieldAt r 0 47 40 + 1) % 256 })
        ∧ d'.store = d.store ∧ d'.coh.dir = d.coh.dir ∧ d'.fab = d.fab ∧ d'.hosts = d.hosts)

/-- LEASE_RENEW holds its port's lease as of the record's acceptance, counts and grants a new one where none was held, and ends DONE with the grants, the tick of expiry and the loss time. SLOT_RESET ends every other task of the slot that has no result with ABORTED, sets the expected alive value and ends DONE with their number. A slot left without task and view goes from RESETTING to OPEN and from CLOSING to UNBOUND, or on to OPEN where its owner is bound. TALLY_ONLY ends DONE. A ready task takes its cluster's unit, or a free context of an engine with the fewest, RUNNING where the engine runs none, and the package leaves Idle; with no context, or for an EXPERT no share of the cluster store, free it joins the queue. After 65,536 ENG cycles a RUNNING context gives way to the oldest READY one. A task whose answers have come is READY again. (R151, R152, R160, R162, R175, R177, R178, R179, R224, R390, R432, R466) -/
def Obligations.SlotsAndContextsFollowTheirTasks : Prop :=
  (∀ (s : State) (id : Nat) (k : Task) (e : SlotEntry), controlTask s.dp id [0x01] = some k → s.mgt.slotEntry k.slot = some e → e.owner - 0x4000 < s.dp.hosts.leases.length →
    ∃ (t : State) (x : Task), exec (.leaseRenew id) s = .next t ∧ t.mgt = s.mgt ∧ t.dp.store = s.dp.store ∧ t.dp.coh = s.dp.coh ∧ t.dp.fab = s.dp.fab
      ∧ (let l := s.dp.lease (e.owner - 0x4000)
        let g := if l.state = 1 then l.grants else l.grants + 1
        t.dp.lease (e.owner - 0x4000) = { l with state := 1, renewed := k.tick, grants := g }
        ∧ t.dp.task id = some x ∧ x.state = .ending ∧ x.result = some ⟨0, g, 0, k.tick + s.mgt.timers.leaseLossMs * 100000, s.mgt.timers.leaseLossMs * 100000⟩)
      ∧ (∀ y : Nat, y ≠ id → t.dp.task y = s.dp.task y))
  ∧ (∀ (s : State) (id : Nat) (k : Task), s.dp.task id = some k → k.opcode = 0x02 → k.result = none → Quiet s.dp →
    ∃ (t : State) (x : Task), exec (.slotReset id) s = .next t ∧ t.mgt = s.mgt ∧ t.dp.task id = some x ∧ x.state = .ending ∧ x.result = some ⟨0, (s.dp.tasks.tasks.filter fun y => y.slot = k.slot && y.id ≠ id && y.result.isNone).length, 0, 0, 0⟩
      ∧ (∀ (y : Nat) (z : Task), y ≠ id → s.dp.task y = some z → ∃ w : Task, t.dp.task y = some w ∧ w.result = (if z.slot = k.slot ∧ z.result = none ∧ (∀ u ∈ s.dp.tasks.tasks, u.id = y → u = z) then some ⟨0x30, 0x03, 0, 0, 0⟩ else w.result)
        ∧ (z.slot ≠ k.slot → (∀ u ∈ s.dp.tasks.tasks, u.id = y → u = z) → w = z))
      ∧ (∀ z : Slot, s.dp.slot k.slot = some z → ∃ w : Slot, t.dp.slot k.slot = some w ∧ w.alive = fieldAt k.record 6 7 0 ∧ w.state = z.state))
  ∧ (∀ (s : State) (n : Nat) (x : Slot), s.dp.slot n = some x →
    if s.dp.tasks.tasks.any (·.slot = n) = true ∨ ownsViews s.dp n = true then exec (.slotCloseDone n) s = .next s
    else ∃ (t : State) (y : Slot), exec (.slotCloseDone n) s = .next t ∧ t.mgt = s.mgt ∧ { t.dp with tasks := { t.dp.tasks with slots := s.dp.tasks.slots } } = s.dp ∧ t.dp.slot n = some y ∧ y.alive = x.alive
      ∧ y.state = (match x.state with
        | .resetting => .open_
        | .closing => if (s.mgt.slotEntry n).any (fun e => e.number = n && ownerBound s.mgt s.dp e && s.mgt.attach e.partition = 1) then .open_ else .unbound
        | z => z)
      ∧ ∀ z : Nat, z ≠ n → t.dp.slot z = s.dp.slot z)
  ∧ (∀ (s : State) (id : Nat) (k : Task), controlTask s.dp id [0x03] = some k →
    ∃ x : Task, exec (.tallyOnly id) s = .next { s with dp := finish id ⟨0, 0, 0, 0, 0⟩ s.dp } ∧ (finish id ⟨0, 0, 0, 0, 0⟩ s.dp).task id = some x ∧ x.result = some ⟨0, 0, 0, 0, 0⟩ ∧ x.state = .ending)
  ∧ (∀ (s : State) (id : Nat) (k : Task), s.dp.task id = some k → k.state = .waitContext → k.result = none → isControl k.opcode = false → k.context = none → k.unitHeld = false →
    ∃ (t : State) (x : Task), exec (.contextAssign id) s = .next t ∧ t.dp.task id = some x ∧ t.dp.store = s.dp.store ∧ t.dp.coh = s.dp.coh ∧ t.dp.fab = s.dp.fab ∧ { t.mgt with sec := s.mgt.sec } = s.mgt
      ∧ (if unitOp k.opcode = true then x = { k with unitHeld := true, state := .running } ∧ t.dp.tasks.ctxs = s.dp.tasks.ctxs ∧ t.mgt.sec.power ≠ .idle
        else if partFull s.mgt s.dp k.part = true ∨ storeFull s.dp k = true ∨ (∀ g ∈ enginesOf s.mgt k.cluster, 16 ≤ ctxCount s.dp g) then id ∈ t.dp.tasks.queue ∧ x = k ∧ t.dp.tasks.ctxs = s.dp.tasks.ctxs ∧ t.mgt = s.mgt
        else s.dp.tasks.queue = [] → (∀ c ∈ s.dp.tasks.ctxs, c.task ≠ id) → ∃ g n : Nat, g ∈ enginesOf s.mgt k.cluster ∧ (∀ h ∈ enginesOf s.mgt k.cluster, ctxCount s.dp g ≤ ctxCount s.dp h) ∧ n < 16
          ∧ (∀ c ∈ s.dp.tasks.ctxs, c.engine = g → c.number ≠ n) ∧ x.context = some (g, n) ∧ t.dp.tasks.queue = [] ∧ t.mgt.sec.power ≠ .idle
          ∧ (¬(∃ c ∈ s.dp.tasks.ctxs, c.engine = g ∧ (c.state = .running ∨ c.state = .ready)) → x.state = .running ∧ t.dp.tasks.ctxs = s.dp.tasks.ctxs ++ [⟨g, n, id, .running, s.mgt.clk.ltb⟩])
          ∧ ((∃ c ∈ s.dp.tasks.ctxs, c.engine = g ∧ c.state = .running) → x.state = .waitContext ∧ t.dp.tasks.ctxs = s.dp.tasks.ctxs ++ [⟨g, n, id, .ready, s.mgt.clk.ltb⟩])))
  ∧ (∀ (s : State) (g : Nat) (a b : Ctx), s.dp.tasks.ctxs = [a, b] → a.engine = g → b.engine = g → a.state = .running → b.state = .ready → a.task ≠ b.task →
    if (s.mgt.clk.ltb - a.since) * s.mgt.clk.engMhz / 100 < 65536 then exec (.contextTimeSlice g) s = .next s
    else ∃ t : State, exec (.contextTimeSlice g) s = .next t ∧ t.mgt = s.mgt ∧ t.dp.tasks.ctxs = [{ a with state := .ready, since := s.mgt.clk.ltb }, { b with state := .running, since := s.mgt.clk.ltb }]
      ∧ (∀ k : Task, s.dp.task b.task = some k → k.state = .waitContext → (t.dp.task b.task).map (·.state) = some .running) ∧ (∀ k : Task, s.dp.task a.task = some k → k.state = .running → (t.dp.task a.task).map (·.state) = some .waitContext)
      ∧ t.dp.store = s.dp.store)
  ∧ (∀ (s : State) (id : Nat) (k : Task) (c : Ctx), s.dp.task id = some k → k.state = .waitRemote → k.result = none → s.dp.tasks.ctxs = [c] → c.task = id →
    if pendingReads s.dp id = true then exec (.contextAnswerArrives id) s = .next s
    else ∃ (t : State) (x : Task), exec (.contextAnswerArrives id) s = .next t ∧ t.mgt = s.mgt ∧ t.dp.store = s.dp.store ∧ t.dp.task id = some x ∧ x = { k with state := .running } ∧ t.dp.tasks.ctxs = [{ c with state := .running, since := s.mgt.clk.ltb }])

/-- A watch whose tally has reached its value is gone and wakes its task, or sends its package WAKE with the value; one that has not stays. A polling task whose 200 ticks have passed reads its tally, and is woken or waits on. A fence at SYSTEM scope moves ROUTE on only when nothing of the task is outstanding and every host port it wrote to has been read since. A task with a result that has not begun its end lets go of context, unit, watches and queue place, and leaves memory alone where it has not failed or had not begun. One whose writes are performed and whose signal is made writes its completion record: the 32 bytes at its address read so, every other byte outside that line stays, and the task is gone; while an access is outstanding it stays. (R112, R113, R117, R152, R164, R165, R166, R168, R171, R221) -/
def Obligations.WaitsFencesAndEnds : Prop :=
  (∀ (s : State) (addr : BitVec 64) (w : Watch) (v : Nat), s.dp.tasks.watches = [w] → w.claim = false → lineOf w.addr = lineOf addr.toNat → tallyValue s.mgt s.dp w.addr = some v → Quiet s.dp →
    ∃ t : State, exec (.tallyWake addr) s = .next t ∧ t.mgt = s.mgt ∧ t.dp.store = s.dp.store ∧ t.dp.coh.dir = s.dp.coh.dir
      ∧ if v < w.value then t.dp.tasks = s.dp.tasks ∧ t.dp.fab = s.dp.fab
        else t.dp.tasks.watches = [] ∧ match w.task, w.msg with
          | some id, _ => t.dp.fab = s.dp.fab ∧ ∀ k : Task, s.dp.task id = some k → k.state = .waitTally → k.result = none → t.dp.task id = some { k with state := readyState s.dp k, seen := v, polling := false }
          | none, some q => t.dp.tasks.tasks = s.dp.tasks.tasks ∧ t.dp.fab = (reply s.mgt q 0x59 0 v [] s.dp).fab
          | none, none => t.dp.fab = s.dp.fab)
  ∧ (∀ (s : State) (id : Nat) (k : Task), s.dp.task id = some k → k.polling = true → k.result = none →
    if s.mgt.clk.ltb < k.seen + 200 then exec (.tallyPoll id) s = .next s
    else ∀ b : Bytes, (k.arrived.find? (·.line = k.waitAddr / 64)) = some ⟨k.waitAddr / 64, b, none⟩ → k.waitAddr % 64 ≤ 56 → k.waitAddr % 8 = 0 → Quiet s.dp → ∃ t : State, exec (.tallyPoll id) s = .next t ∧ t.mgt = s.mgt ∧ t.dp.store = s.dp.store
      ∧ t.dp.tasks = (if leNat (slice b (k.waitAddr % 64) 8) ≥ k.waitValue then wakeTask id (leNat (slice b (k.waitAddr % 64) 8)) (modTask id (fun x => { x with arrived := [] }) s.dp)
        else modTask id (fun x => { x with arrived := [], seen := s.mgt.clk.ltb }) s.dp).tasks)
  ∧ (∀ (s : State) (id : Nat) (k : Task), s.dp.task id = some k → Quiet s.dp →
    (k.outstanding ≠ 0 → ∃ t : State, exec (.fenceComplete id) s = .next t ∧ t.dp.tasks = s.dp.tasks ∧ t.dp.store = s.dp.store ∧ t.dp.hosts = s.dp.hosts)
    ∧ (k.outstanding = 0 → (∀ f ∈ s.dp.hosts.flushDue, f.1 ≠ id) → (∀ r ∈ s.dp.hosts.reads, r.task = id → r.flush = false) →
      if k.opcode = 0x30 ∧ k.prog.stage = 3 ∧ k.result = none then
        ∃ t : State, exec (.fenceComplete id) s = .next t ∧ t.dp.tasks = (resumeTask s.mgt id (modTask id (fun x => { x with prog := { x.prog with stage := 4 } }) s.dp)).tasks ∧ t.dp.store = s.dp.store ∧ t.mgt = s.mgt
      else exec (.fenceComplete id) s = .next s))
  ∧ (∀ (s : State) (id : Nat) (k : Task) (r : Result), s.dp.task id = some k → k.result = some r → k.prog.stage < 20 → k.opcode ≠ 0x31 → k.entry = none → 0 < k.outstanding → k.opcode < 0x60 → Quiet s.dp
    → (∀ x ∈ s.dp.coh.txns, x.via = .task id → x.dead = false → 0x05 < x.msg.opcode ∧ x.msg.opcode ≠ 0x1B) → s.dp.hosts.flushDue = []
    → ∃ (t : State) (x : Task), exec (.taskEnd id) s = .next t ∧ t.mgt = s.mgt ∧ (r.status < 0x20 ∨ k.context = none ∧ k.unitHeld = false ∧ k.written = [] → t.dp.store = s.dp.store) ∧ t.dp.task id = some x ∧ x.result = some r ∧ x.prog.stage = 22 ∧ x.unitHeld = false ∧ x.state = .ending ∧ x.outstanding = k.outstanding
      ∧ (∀ c ∈ t.dp.tasks.ctxs, c.task ≠ id) ∧ (∀ w ∈ t.dp.tasks.watches, w.task ≠ some id) ∧ id ∉ t.dp.tasks.queue)
  ∧ (∀ (s : State) (id : Nat) (k : Task) (r : Result) (g : Region) (a : Nat), s.dp.task id = some k → k.result = some r → k.prog.stage = 23 → Quiet s.dp →
    (k.outstanding ≠ 0 → ∃ (t : State) (x : Task), exec (.taskEnd id) s = .next t ∧ t.dp.store = s.dp.store ∧ t.dp.task id = some x ∧ x = k)
    ∧ (let addr := wordAt k.record 1
      let q := s.mgt.newMsg 0x07 s.mgt.self k.part k.cls (addr / 64 * 64) ((2 ^ 32 - 1) * 2 ^ (addr % 64)) (zeros (addr % 64) ++ taskCpl s.mgt s.dp k ++ zeros (32 - addr % 64))
      systemFence s.dp id = true → addr % 32 = 0 → addr / 2 ^ 50 = s.mgt.self → s.mgt.pkg.loopEnable = false → hostMapped s.mgt addr = false → Memory.wf s.dp.store.mem = true
      → unhindered s.mgt s.dp (.task id) q g.id .plain a = true → s.mgt.region g.id = some g → g.sealed = false → g.guard = 0 → deliverable s.mgt s.dp g.id .plain a = true
      → (∀ y ∈ s.dp.tasks.tasks, y.id = id → y = k) → id < groupBase
      → ∃ t : State, exec (.taskEnd id) s = .next t ∧ t.mgt = s.mgt ∧ t.dp.task id = none ∧ t.dp.fab = s.dp.fab
        ∧ (∀ i : Nat, i < 32 → (readLine s.mgt t.dp g.id a).1.getD (addr % 64 + i) 0 = (taskCpl s.mgt s.dp k).getD i 0)
        ∧ (∀ b : Nat, b / 64 ≠ a / 64 → cellGet 0 t.dp.store.mem b = cellGet 0 s.dp.store.mem b)
        ∧ (∀ i : Nat, i < 64 → i / 32 ≠ addr % 64 / 32 → (readLine s.mgt t.dp g.id a).1.getD i 0 = (readLine s.mgt s.dp g.id a).1.getD i 0)))

/-- A running task of a vector operator whose output is ready and whose operands come without a wait ends DONE. Every input is taken as FP32. ELEMWISE gives sum, difference, product, maximum or minimum of each pair; ACTIVATE its function of each element; NORM each element times the reciprocal root of the mean square plus s, times its gain, or, for layer norm, of the element less the mean, and plus its bias; SOFTMAX each exponential of an element less the row's maximum, over their sum; CONVERT the element, or s times it; REDUCE one result for each row: sum, maximum, or sum of squares. The results convert in the task's rounding mode, and under SR each takes the next draw, in output order, from the seed or, with none, from where the context's generator stands. The order of sums is open. (R183, R189, R190, R191, R192, R202, R204, R205) -/
def Obligations.VectorOperatorsComputeTheirRows : Prop :=
  ∀ (s : State) (id : Nat) (k : Task) (p : Instr × Nat), p ∈ [(.elemwise id, 0x18), (.activate id, 0x19), (.norm id, 0x1A), (.softmax id, 0x1B), (.convert id, 0x1C), (.reduce id, 0x1D)]
    → runningTask s.dp id [p.2] = some k →
    let o := vecOps k.record
    let zn := if p.2 = 0x1D then o.n else o.k
    let zr := if p.2 = 0x1D then 1 else o.n
    let opening : Acc Unit := do
      (vecExtents p.2 k.record).forM fun e => checkWindow s.mgt k.part e.addr e.bytes
      readyOutput s.mgt id o.z (tensorBytes o.zf zr zn)
    let loadX := loadTensor s.mgt id o.x o.xf o.n o.k
    let loadY : Acc (List (List FVal)) := if p.2 = 0x18 then loadTensor s.mgt id o.y o.yf o.n o.k else if p.2 = 0x1A then loadTensor s.mgt id o.y o.yf 1 o.k else pure []
    let loadB : Acc (List (List FVal)) := if p.2 = 0x1A ∧ o.fn = 2 then loadTensor s.mgt id o.beta o.yf 1 o.k else pure []
    let d1 := after opening s.dp
    let d2 := after loadX d1
    let d3 := after loadY d2
    let d4 := after loadB d3
    let sr : Bool := o.round = 2 && o.zf ≠ 0x05
    let c := f32Val o.s
    let x := fun i j : Nat => f32 (at_ (got loadX d1) i j)
    let y := at_ (got loadY d2)
    let b := at_ (got loadB d3) 0
    let row := fun i : Nat => (List.range o.k).map (x i)
    let squares := fun (v : List FVal) => v.map fun a => fmul a a
    let mean := fun (key : Nat) (v : List FVal) => fdiv (openSum key fzero v) (fnat o.k)
    let most := fun (key : Nat) (v : List FVal) => v.foldl (fun a e => openMax key a e) (v.headD fzero)
    let z := fun i j : Nat =>
      let key := openKey id (2 * i)
      if p.2 = 0x18 then
        (let kj := openKey id (i * o.k + j)
        if o.fn = 1 then fadd (x i j) (y i j) else if o.fn = 2 then fsub (x i j) (y i j) else if o.fn = 3 then fmul (x i j) (y i j)
        else if o.fn = 4 then openMax kj (x i j) (y i j) else openMin kj (x i j) (y i j))
      else if p.2 = 0x19 then
        (if o.fn = 1 then (if (x i j).isNan = true then .nan else if (x i j).lt fzero = true then fzero else x i j)
        else if o.fn = 3 then fgelu (x i j) else if o.fn = 4 then fsilu (x i j) else if o.fn = 5 then fexp (x i j) else if o.fn = 6 then ftanh (x i j)
        else activation.geluTanh (x i j))
      else if p.2 = 0x1A then
        (if o.fn = 1 then fmul (fmul (x i j) (frsqrt (fadd (mean key (squares (row i))) c))) (y 0 j)
        else
          let centred := (row i).map fun v => fsub v (mean key (row i))
          fadd (fmul (fmul (fsub (x i j) (mean key (row i))) (frsqrt (fadd (mean (key + 1) (squares centred)) c))) (y 0 j)) (b j))
      else if p.2 = 0x1B then
        (let u := if o.fn = 1 then (row i).map fun v => fmul v c else row i
        let e := u.map fun v => fexp (fsub v (most key u))
        fdiv (e.getD j fzero) (openSum key fzero e))
      else if p.2 = 0x1C then (if o.fn = 1 then fmul c (x i j) else x i j)
      else
        (let key := openKey id (2 * j)
        if o.fn = 1 then openSum key fzero (row j) else if o.fn = 2 then most key (row j) else openSum key fzero (squares (row j)))
    let rows := (List.range zr).map fun i =>
      encodeRow o.zf o.round o.sat (if sr = true then (List.range zn).map fun j => drawAt (startValue d4 id o.seed) (i * zn + j) else []) ((List.range zn).map (z i))
    let write := writeTensor s.mgt id (anyOverlap (vecExtents p.2 k.record)) o.z o.zf false rows zn
    let d5 := drawn d4 id o.seed sr (zr * zn)
    o.fn ∈ vecCodes p.2 → 1 ≤ o.n → 1 ≤ o.k → ran opening s.dp = true → ran loadX d1 = true → ran loadY d2 = true → ran loadB d3 = true → (d4.ctxOf id).isSome = true → ran write d5 = true
    → Ends p.1 s id ⟨0, 0, 0, 0, 0⟩ (after write d5)

/-- A running MATMUL or MATMUL_ACC whose output is ready and whose operands come without a wait ends DONE, with its flags. Output (n, m) is the sum over k of A[m][k] times B[n][k], from +0 or, for MATMUL_ACC, from the FP32 value the output held: in groups of 32 positions, each summed exactly and rounded once to FP32, where both formats have 8 bits or fewer, and else product by product; groups that token n's zero mask marks contribute nothing. It is multiplied by alpha, the bias of m is added where there is one, and the activation applied; ReLU turns a negative value into zero. Results convert in the task's rounding mode; under SR each takes the next draw, in output order. The multiply-accumulates performed are counted for the task's partition and formats. The order of sums is open. (R185, R186, R187, R189, R190, R191, R192, R196, R199, R200, R203, R205) -/
def Obligations.MatrixOperatorsComputeTheirSums : Prop :=
  ∀ (s : State) (id : Nat) (k : Task) (acc : Bool), runningTask s.dp id [if acc = true then 0x11 else 0x10] = some k →
    let o := matOps k.record
    let opening : Acc Unit := do
      (matExtents k.record).forM fun e => checkWindow s.mgt k.part e.addr e.bytes
      readyOutput s.mgt id o.c (tensorBytes o.cf o.n o.rows)
    let loadMeta : Acc Bytes := if o.sparse ≠ 0 then load s.mgt id true o.metaAt o.metaBytes else pure []
    let loadMask : Acc Bytes := if o.bMask = true then load s.mgt id true (o.b + maskAt o.bf o.n o.k) (o.n * maskRow o.k) else pure []
    let d1 := after opening s.dp
    let d2 := after loadMeta d1
    let d3 := after loadMask d2
    let tbl := maskTable o (got loadMask d2)
    let loadA := if o.coded = true then readCoded s.mgt id o.a (o.storedValues (got loadMeta d1)) o.af else loadAValues s.mgt id o (got loadMeta d1) tbl
    let d4 := after loadA d3
    let loadB := (List.range o.n).mapM (loadBRow s.mgt id o tbl)
    let d5 := after loadB d4
    let loadBias : Acc Bytes := if o.bias ≠ 0 then load s.mgt id true o.bias (2 * o.rows) else pure []
    let d6 := after loadBias d5
    let loadC : Acc (List (List FVal)) := if acc = true then loadTensor s.mgt id o.c 0x05 o.n o.rows else pure []
    let d7 := after loadC d6
    let sr : Bool := o.round = 2 && o.cf ≠ 0x05
    let a : Nat → List (Nat × FVal) := fun r =>
      if o.sparse = 1 ∨ o.sparse = 2 then (arrangeA o (got loadMeta d1) (got loadA d3)).getD r [] else (List.range o.k).map fun i => (i, (got loadA d3).getD (r * o.k + i) fzero)
    let live := fun n r : Nat => (a r).filter fun e => !(o.bMask && bitAt (tbl.getD n 0) (e.1 / 32))
    let term := fun (n : Nat) (e : Nat × FVal) => e.2.mul (at_ (got loadB d4) n e.1)
    let sum := fun n r : Nat =>
      let start := if acc = true then at_ (got loadC d6) n r else fzero
      let key := openKey id (n * o.rows + r)
      if fmtBits o.af ≤ 8 ∧ fmtBits o.bf ≤ 8 then
        openSum key start ((((live n r).map fun e => e.1 / 32).eraseDups).map fun g => f32 (((live n r).filter fun e => e.1 / 32 = g).foldl (fun t e => t.add (term n e)) fzero))
      else openSum key start ((live n r).map fun e => match f32 (term n e) with
        | .inf x => .inf x
        | _ => term n e)
    let out := fun n r : Nat =>
      let v := fmul (sum n r) (f32Val o.alpha)
      let w := if o.bias ≠ 0 then fadd v (decodeFloat bf16 (leNat (slice (got loadBias d5) (2 * r) 2))) else v
      if o.act = 1 then (if w.isNan = true then .nan else if w.lt fzero = true then fzero else w) else activation o.act w
    let rows := (List.range o.n).map fun n =>
      encodeRow o.cf o.round o.sat (if sr = true then (List.range o.rows).map fun r => drawAt (startValue d7 id o.seed) (n * o.rows + r) else []) ((List.range o.rows).map (out n))
    let d8 := countAt 1 (0x030000 + 8 * (256 * k.part + 16 * fmtIndex o.af + fmtIndex o.bf)) (macCount o tbl (arrangeA o (got loadMeta d1) (got loadA d3))) (drawn d7 id o.seed sr (o.n * o.rows))
    let clash := (matExtents k.record).any fun e => !e.write && e.addr ≠ o.c && overlaps e (outExt o.c (tensorBytes o.cf o.n o.rows))
    let write := writeTensor s.mgt id (clash || o.a = o.c || o.b = o.c) o.c o.cf o.cMask rows o.rows
    1 ≤ o.n → ran opening s.dp = true → ran loadMeta d1 = true → ran loadMask d2 = true → ran loadA d3 = true → ran loadB d4 = true → ran loadBias d5 = true → ran loadC d6 = true → (d7.ctxOf id).isSome = true
    → ran write d8 = true → Ends (if acc = true then .matmulAcc id else .matmul id) s id ⟨0, 0, (((after write d8).task id).map (·.flags)).getD 0, 0, 0⟩ (after write d8)

/-- ROUTE's first step, once what it reads has come, writes a pair table with each token's k best-ranked present experts, zeroes the return tally, and sends one reservation per chosen expert in increasing number for the tokens that chose it; with answers open it waits. When the last answer has come it writes each pair's expert, replica, state and gate, and the pairs dispatched with the round. After the fence it closes every replica's bank of every present expert, and waits for its tally without a context. Resumed at phase 2 it waits at once. Then COMBINE: the first trailer with a status ends it with that status; else each token's output is the sum of gate times return over its dispatched pairs, from the output's value under RT_ACC, and it ends DONE with the union of flags, the round, and the pairs dispatched, rerouted and skipped. Past its limit it ends FAIL_TIMEOUT naming the package of a pair that waits, the first in order of token and rank. 200 ticks after a MISMATCH the operation is sent again. (R214, R215, R217, R218, R219, R221, R222, R228, R229, R230, R231) -/
def Obligations.RouteChoosesSendsAndCombines : Prop :=
  (∀ (s : State) (id : Nat) (k : Task), runningTask s.dp id [0x30] = some k → k.phase = 0 → k.prog.stage = 0 →
    let o := routeOps k.record
    let loadMap := load s.mgt id true o.map (64 * o.e)
    let d1 := after loadMap s.dp
    let b := got loadMap s.dp
    let d2 := after (loadLogits s.mgt id o) d1
    let lb := got (loadLogits s.mgt id o) d1
    let present := (List.range o.e).filter fun e => fieldAt (slice b (64 * e) 64) 0 63 56 ≠ 0
    let chosen := fun t : Nat => (rankExperts (expertKeys o (openKey id (2 * t)) present (at_ lb.1 t) (fun e => lb.2.getD e fzero))).take o.k
    let pairs : List Pair := (List.range o.n).flatMap fun t => (List.range (chosen t).length).map fun j => (t, j, (chosen t).getD j 0, 0)
    let table := store s.mgt id true (o.work + 64) (wordsBytes ((List.range (o.n * o.k)).map fun i =>
      if i % o.k < (chosen (i / o.k)).length then (chosen (i / o.k)).getD (i % o.k) 0 % 1024 * 2 ^ 54 else 0))
    let d3 := after table d2
    let d4 := withProg id (fun p => { p with stage := 1, started := s.mgt.clk.ltb, pairs := pairs }) d3
    let zero := store s.mgt id true o.work (zeros 8)
    let d5 := after zero d4
    let asks : Acc Unit := present.forM fun e => do
      let n := (pairs.filter fun p => p.2.2.1 = e).length
      if n > 0 then reserve s.mgt id o b e 0 n else pure ()
    let d6 := after asks d5
    let d7 := withProg id (fun p => { p with stage := 2 }) d6
    let drain := drainAnswers s.mgt id o b (16 * o.e * (o.k + 4))
    let d8 := after drain d7
    ran loadMap s.dp = true → ran (loadLogits s.mgt id o) d1 = true → ran table d2 = true → ran zero d4 = true → ran asks d5 = true → ran drain d7 = true
    → (prog d1 id).stage = 0 → (prog d4 id).stage = 1 → (prog d5 id).pairs = pairs → (prog d7 id).stage = 2 → (prog d8 id).stage = 2 → (prog d8 id).pend ≠ [] → (d8.task id).any (·.result.isNone) = true
    → exec (.route id) s = .next { s with dp := settle s.mgt (routeRests s.mgt id o.work d8) })
  ∧ (∀ (s : State) (id : Nat) (k : Task), runningTask s.dp id [0x30] = some k → k.prog.stage = 2 →
    let o := routeOps k.record
    let loadMap := load s.mgt id true o.map (64 * o.e)
    let d1 := after loadMap s.dp
    let b := got loadMap s.dp
    let drain := drainAnswers s.mgt id o b (16 * o.e * (o.k + 4))
    let d2 := after drain d1
    let lb := got (loadLogits s.mgt id o) d2
    let d3 := after (loadLogits s.mgt id o) d2
    let ps : List Pair := (prog d3 id).pairs
    let present := presentExperts o b
    let mine := fun t : Nat => ps.filter fun p => p.1 = t && (p.2.2.2 % 16 = 1 || p.2.2.2 % 16 = 2)
    let gate := fun t j : Nat => ((((mine t).map (·.2.1)).zip (finalGates o (openKey id (2 * t)) present ((mine t).map (·.2.2.1)) (at_ lb.1 t))).find? (·.1 = j)).map (·.2)
    let entry := fun i : Nat => match ps.find? (fun x => x.1 * o.k + x.2.1 = i) with
      | some x => x.2.2.1 % 1024 * 2 ^ 54 + x.2.2.2 / 16 % 4 * 2 ^ 52 + (if x.2.2.2 = 0 ∨ x.2.2.2 = 4 then 0 else x.2.2.2 % 16) * 2 ^ 48 + f32Code ((if x.1 < o.n then gate x.1 x.2.1 else none).getD fzero)
      | none => 0
    let table := store s.mgt id true (o.work + 64) (wordsBytes ((List.range (o.n * o.k)).map entry))
    let sent := (ps.filter Pair.sent).length
    let header := store s.mgt id true (o.work + 8) (natBytes 8 (sent * 2 ^ 32 + o.round))
    let d4 := after table d3
    let d5 := after header d4
    let d6 := withProg id (fun p => { p with stage := 3, count := (p.pairs.filter Pair.sent).length }) d5
    ran loadMap s.dp = true → ran drain d1 = true → ran (loadLogits s.mgt id o) d2 = true → ran table d3 = true → ran header d4 = true
    → (prog d1 id).stage = 2 → (prog d2 id).pend = [] → (prog d6 id).stage = 3 → (d6.task id).any (·.result.isNone) = true
    → exec (.route id) s = .next { s with dp := settle s.mgt (routeRests s.mgt id o.work d6) })
  ∧ (∀ (s : State) (id : Nat) (k : Task), runningTask s.dp id [0x30] = some k → k.prog.stage = 4 →
    let o := routeOps k.record
    let loadMap := load s.mgt id true o.map (64 * o.e)
    let d1 := after loadMap s.dp
    let b := got loadMap s.dp
    let banks := (presentExperts o b).flatMap fun e => (List.range (fieldAt (slice b (64 * e) 64) 0 63 56)).map fun i => (e, i, (if i < 4 then wordAt (slice b (64 * e) 64) (1 + i) else 0) + 64 * (o.round % 2), 0)
    let d2 := withProg id (fun p => { p with stage := 5, pend := banks }) d1
    let close : Acc Unit := banks.forM fun x => postAtomic s.mgt id 0x19 x.2.2.1 (o.round * 2 ^ 32) [] 0
    let d3 := after close d2
    let drain := drainCloses s.mgt id (16 * o.e * (o.k + 4))
    let d4 := after drain d3
    ran loadMap s.dp = true → ran close d2 = true → ran drain d3 = true → (prog d1 id).stage = 4 → (prog d3 id).stage = 5 → (d4.task id).any (·.result.isNone) = true
    → exec (.route id) s = .next { s with dp := settle s.mgt (routeRests s.mgt id o.work d4) })
  ∧ (∀ (s : State) (id : Nat) (k : Task), runningTask s.dp id [0x30] = some k → k.phase = 2 → k.prog.stage = 0 →
    let o := routeOps k.record
    let header := load s.mgt id true o.work 16
    let n := fieldAt (got header s.dp) 1 63 32
    let d1 := freeCtx s.mgt id (withProg id (fun p => { p with stage := 5, count := n, started := s.mgt.clk.ltb }) (after header s.dp))
    ran header s.dp = true → exec (.route id) s = .next { s with dp := settle s.mgt (beginWait s.mgt id o.work n .waitReturn d1) })
  ∧ (∀ (s : State) (id : Nat) (k : Task), runningTask s.dp id [0x30] = some k → k.prog.stage = 6 →
    let o := routeOps k.record
    let opening := readyOutput s.mgt id o.out (tensorBytes o.outF o.n o.dim)
    let d1 := after opening s.dp
    let loadTable := load s.mgt id true (o.work + 64) (8 * (o.n * o.k))
    let d2 := after loadTable d1
    let table := got loadTable d1
    let state := fun i : Nat => fieldAt table i 51 48
    let sent := (List.range (o.n * o.k)).filter fun i => state i = 1 || state i = 2
    let loadEnds := sent.mapM fun i => load s.mgt id true (o.slotAt i + rowBytes o.yf o.dim) 64
    let d3 := after loadEnds d2
    let ends := got loadEnds d2
    let loadReturns := sent.mapM fun i => load s.mgt id true (o.slotAt i) (elemBytes o.yf o.dim)
    let d4 := after loadReturns d3
    let prior : Acc (List (List FVal)) := if o.acc = true then loadTensor s.mgt id o.out o.outF o.n o.dim else pure []
    let d5 := after prior d4
    let value := fun q j : Nat => (rowValues o.yf o.dim ((got loadReturns d3).getD q []) []).getD j fzero
    let out := fun t j : Nat =>
      let start := if o.acc = true then f32 (at_ (got prior d4) t j) else fzero
      let parts := ((List.range sent.length).filter fun q => sent.getD q 0 / o.k = t).map fun q => fmul (f32Val (fieldAt table (sent.getD q 0) 31 0)) (value q j)
      if parts = [] then start else openSum (openKey id (2 ^ 40 + t * o.dim + j)) start parts
    let write := writeTensor s.mgt id false o.out o.outF false ((List.range o.n).map fun t => encodeRow o.outF o.mode o.sat [] ((List.range o.dim).map (out t))) o.dim
    let count := fun x : Nat => ((List.range (o.n * o.k)).filter fun i => state i = x).length
    ran opening s.dp = true → ran loadTable d1 = true → ran loadEnds d2 = true →
    match ends.find? (fun b => fieldAt b 0 63 56 ≠ 0) with
    | some b => Ends (.routeCombine id) s id ⟨fieldAt b 0 63 56, fieldAt b 0 31 0, 0, 0, 0⟩ d3
    | none => ran loadReturns d3 = true → ran prior d4 = true → ran write d5 = true
      → Ends (.routeCombine id) s id ⟨0, o.round, ends.foldl (fun f b => f ||| (fieldAt b 0 32 32 + 8 * fieldAt b 0 35 35)) 0, sent.length, min (count 2) 65535 * 65536 + min (count 3) 65535⟩ (after write d5))
  ∧ (∀ (s : State) (id : Nat) (k : Task), s.dp.task id = some k → k.opcode = 0x30 → k.result = none → Quiet s.dp →
    let o := routeOps k.record
    let b := got (load s.mgt id true o.map (64 * o.e)) s.dp
    let place := fun (p : Pair) => p.1 * o.k + p.2.1
    (if o.limitUs = 0 ∨ k.prog.stage = 0 ∨ s.mgt.clk.ltb < k.prog.started + 100 * o.limitUs then exec (.routeLimitExpiry id) s = .next s
    else ∃ (t : State) (x : Task), exec (.routeLimitExpiry id) s = .next t ∧ t.mgt = s.mgt ∧ t.dp.store = s.dp.store ∧ t.dp.fab = s.dp.fab ∧ t.dp.coh.dir = s.dp.coh.dir ∧ t.dp.task id = some x ∧ (∀ c ∈ t.dp.tasks.ctxs, c.task ≠ id)
      ∧ (∃ n : Nat, x.result = some ⟨0x25, n, 0, 0, 0⟩
        ∧ (∀ p : Pair, p ∈ k.prog.pairs → Pair.waits p = true → (∀ q : Pair, q ∈ k.prog.pairs → Pair.waits q = true → q ≠ p → place p < place q) → k.prog.pairs.Nodup →
          n = (mapEntry b p.2.2.1).2.getD ((s.mgt.self + o.round) % (mapEntry b p.2.2.1).1) 0 / 2 ^ 50)))
    ∧ (let due := k.prog.retry.filter fun r => r.2 + 200 ≤ s.mgt.clk.ltb
      let again : Acc Unit := (k.prog.pend.filter fun x => due.any fun r => r.1 = x.2.2.1).forM fun x => postAtomic s.mgt id (if k.prog.stage = 5 then 0x19 else 0x18) x.2.2.1 (o.round * 2 ^ 32 + if k.prog.stage = 5 then 0 else x.2.2.2) [] 0
      let d1 := modTask id (fun t => { t with state := if t.state = .waitBank then .waitRemote else t.state, prog := { t.prog with retry := t.prog.retry.filter fun r => r.2 + 200 > s.mgt.clk.ltb } }) s.dp
      if due = [] then exec (.mismatchRetry id) s = .next s
      else (∀ u ∈ s.dp.tasks.tasks, u.id = id → u = k) → ran again d1 = true → exec (.mismatchRetry id) s = .next { s with dp := settle s.mgt (after again d1) }))

/-- A waiting EXPERT claims its bank where the header's round is its own, unclaimed, and closed by as many sources as it names: CLAIMED is set by the home atomic unit and the task waits for a context, to serve the slots filled. Otherwise nothing of the line changes and one watch stands on it; a poisoned header ends the task FAIL_POISON. A pass reads at most 128 slots' tags and vectors and the matrices, counts their multiply-accumulates, and for each token writes W2 times the activated W1 x, by W3 x where there is a W3, in the return format at the tag's address, then its trailer with the flags and this package. The last pass turns the bank over to round r + 2. When the pass's writes are performed at SYSTEM scope each distinct tally takes the number of its tokens; then the next pass follows, or the task ends DONE with the round, the flags, the slots and the passes. Before that its fence asks for the flushing reads it needs. (R165, R213, R222, R223, R224, R225, R226, R230) -/
def Obligations.ExpertClaimsServesAndReturns : Prop :=
  (∀ (s : State) (id : Nat) (k : Task), s.dp.task id = some k → k.opcode = 0x31 → k.state = .waitClaim → k.result = none →
    let o := expertOps k.record
    let addr := o.inbox + 64 * (o.round % 2)
    ∀ (r : Nat) (reach : Reach) (a : Nat), storePlace s.mgt s.dp addr = some (r, reach, a) → busy s.dp (lineOf addr) = false → heldAdds s.dp (a / 64) = false →
      let l := readLine s.mgt s.dp r a
      let mine := fun w : Watch => w.task = some id && w.claim
      if l.2 = true then exec (.exClaim id) s = .next { s with dp := settle s.mgt (failTask id 0x20 r s.dp) }
      else if fieldAt l.1 0 63 32 = o.round ∧ fieldAt l.1 1 32 32 = 0 ∧ o.sources ≤ fieldAt l.1 1 31 0 then
        (let d := arriveAt s.mgt (.task id) { s.mgt.newMsg 0x1A s.mgt.self k.part k.cls addr (o.round * 2 ^ 32 + o.sources) [] with slot := 0 } (oneMore id s.dp)
        let d := { d with tasks := { d.tasks with watches := d.tasks.watches.filter fun w => !mine w } }
        let d := modTask id (fun t => { t with state := .waitContext, prog := { t.prog with stage := 1, next := 0, count := fieldAt l.1 0 31 0, rerouted := 0, skipped := 0 } }) d
        exec (.exClaim id) s = .next { s with dp := settle s.mgt d })
      else exec (.exClaim id) s = .next (if s.dp.tasks.watches.any mine = true then s else { s with dp := { s.dp with tasks := { s.dp.tasks with watches := s.dp.tasks.watches ++ [⟨addr, 0, some id, none, true⟩] } } }))
  ∧ (∀ (s : State) (id : Nat) (k : Task), runningTask s.dp id [0x31] = some k → k.prog.stage = 1 →
    let o := expertOps k.record
    let first := k.prog.next
    let n := min 128 (k.prog.count - first)
    let loadHeads := load s.mgt id true o.inbox 128
    let d1 := after loadHeads s.dp
    let heads := got loadHeads s.dp
    let slots := (List.range n).map fun i => bankSlot o.inbox o.round (fieldAt heads 1 63 48) (inboxSlot o.xf o.dim) (first + i)
    let loadTags := slots.mapM fun a => load s.mgt id true a 64
    let d2 := after loadTags d1
    let tag := fun i w : Nat => wordAt ((got loadTags d1).getD i []) w
    let loadX : Acc (List (List FVal)) := slots.mapM fun a => do
      let e ← load s.mgt id true (a + 64) (elemBytes o.xf o.dim)
      let c ← if fmtMx o.xf = true then load s.mgt id true (a + 64 + rowBytes o.xf o.dim) (ceilDiv o.dim 32) else pure []
      pure (rowValues o.xf o.dim e c)
    let d3 := modTask id (fun t => { t with flags := 0 }) (after loadX d2)
    let load1 : Acc (List (List (Nat × FVal))) := if n = 0 then pure [] else expertMatrix s.mgt id o o.w1 o.hid o.dim o.metas.1 n
    let d4 := after load1 d3
    let load3 : Acc (List (List (Nat × FVal))) := if o.w3 = 0 ∨ n = 0 then pure [] else expertMatrix s.mgt id o o.w3 o.hid o.dim o.metas.2.1 n
    let d5 := after load3 d4
    let load2 : Acc (List (List (Nat × FVal))) := if n = 0 then pure [] else expertMatrix s.mgt id o o.w2 o.dim o.hid o.metas.2.2 n
    let d6 := after load2 d5
    let d7 := if first = 0 ∧ o.seed ≠ 0 then setGenerator id (BitVec.ofNat 32 o.seed) d6 else d6
    let flags := ((d7.task id).map (·.flags)).getD 0
    let macs := fun (f g : Nat) (w : List (List (Nat × FVal))) => countAt 1 (0x030000 + 8 * (256 * k.part + 16 * fmtIndex f + fmtIndex g)) (n * (w.map (·.length)).sum)
    let d8 := macs o.wf o.mid (got load2 d5) (macs o.wf o.xf (got load1 d3 ++ got load3 d4) d7)
    let serve : Acc Unit := (List.range n).forM fun i => do
      let x := (got loadX d2).getD i []
      let key := (first + i) * 4 * (o.hid + o.dim)
      let h := (applyMatrix id key o.wf o.xf (got load1 d3) x).map (activation o.act)
      let g := if o.w3 = 0 then h else List.zipWith fmul h (applyMatrix id (key + o.hid) o.wf o.xf (got load3 d4) x)
      let e ← if o.mode = 2 then drawMany id o.hid else pure []
      let y := applyMatrix id (key + 2 * o.hid) o.wf o.mid (got load2 d5) (toMid o e g)
      let f ← if o.mode = 2 ∧ o.yf ≠ 0x05 then drawMany id o.dim else pure []
      let v := packRow o.yf (encodeRow o.yf o.mode o.sat f y).1
      noteRow id o.yf o.dim v []
      store s.mgt id true (tag i 0) v
      store s.mgt id true (tag i 0 + rowBytes o.yf o.dim) (wordsBytes [(flags &&& 9) * 2 ^ 32, s.mgt.self, 0, 0, 0, 0, 0, 0])
    let d9 := after serve d8
    let turn : Acc Unit := if k.prog.count ≤ first + n then
        store s.mgt id true (o.inbox + 64 * (o.round % 2)) (wordsBytes [(o.round + 2) % 2 ^ 32 * 2 ^ 32, fieldAt (slice heads (64 * (o.round % 2)) 16) 1 63 48 * 2 ^ 48])
      else pure ()
    let d10 := withProg id (fun p => { p with stage := 2, rerouted := p.rerouted + min n 1, skipped := p.skipped ||| flags, seen := (got loadTags d1).map fun b => wordAt b 1, asked := (List.range n).map fun i => (first + i, tag i 0, tag i 1) }) (after turn d9)
    ran loadHeads s.dp = true → ran loadTags d1 = true → ran loadX d2 = true → ran load1 d3 = true → ran load3 d4 = true → ran load2 d5 = true → ran serve d8 = true → ran turn d9 = true
    → exec (.expert id) s = .next { s with dp := settle s.mgt (modTask id (fun t => { t with arrived := [] }) d10) })
  ∧ (∀ (s : State) (id : Nat) (k : Task), s.dp.task id = some k → k.opcode = 0x31 → k.prog.stage = 2 → k.result = none →
    let o := expertOps k.record
    let adds : Acc Unit := k.prog.seen.eraseDups.forM fun a => postAtomic s.mgt id 0x12 a ((k.prog.seen.filter (· = a)).length) [] 0
    let next := k.prog.next + min 128 (k.prog.count - k.prog.next)
    let d1 := withProg id (fun p => { p with stage := 1, next := next, seen := [] }) (after adds s.dp)
    if systemFence s.dp id = false then exec (.expertPassEnd id) s = .next { s with dp := settle s.mgt (flushHosts s.mgt id s.dp) }
    else ran adds s.dp = true →
      (let d2 := if k.prog.count ≤ next then finish id ⟨0, o.round, k.prog.skipped, k.prog.count, k.prog.rerouted⟩ d1 else d1
      exec (.expertPassEnd id) s = .next { s with dp := settle s.mgt d2 }))

/-- A running ATTEND whose operands come without a wait, of a session with no attended page on a failed device, ends DONE: for each query head FINAL writes o over l in the output format, PARTIAL o, the largest score and l, over the range's pages below T, all of them or, under SPARSE, those chosen for its key-value head; the list of pages is written where one is asked for; the completion has the session's version, the positions attended and the pages scored. A failed page ends it FAIL_LOST. COMBINE writes for each head the partials' o weighed by the exponential of their largest scores less the greatest, over l so weighed, or zero where every l is zero. CHK_SCAN folds the range into the register of its algorithm, from the initial value or a sound context; an unsound context ends it FAIL_DAMAGED, nothing saved. It ends DONE with the algorithm, the register, XORed where asked, and the bytes; it saves a context that is sound, and a scan that goes on from it yields what one scan of both stretches would. (R233, R234, R236, R237, R299, R301, R303, R304, R305, R306) -/
def Obligations.AttendsAndScans : Prop :=
  (∀ (s : State) (id : Nat) (k : Task) (g : Region), runningTask s.dp id [0x32] = some k → (attOps k.record).fn ≠ 2 → s.mgt.region (attOps k.record).region = some g →
    let o := attOps k.record
    let dim := 16 * g.kvDim16
    let opening : Acc Unit := do
      (attExtents s.mgt k.record).forM fun e => checkWindow s.mgt k.part e.addr e.bytes
      readyOutput s.mgt id o.out (if o.fn = 1 then o.heads * partialRow dim else tensorBytes o.outF o.heads dim)
      if o.selected ≠ 0 then readyOutput s.mgt id o.selected (selectedBytes o g.kvHeads) else pure ()
    let d1 := after opening s.dp
    let loadQ := loadTensor s.mgt id o.q g.kvFormat o.heads dim
    let d2 := after loadQ d1
    let q := got loadQ d1
    let range := sortBy (fun a b => a.1 < b.1) ((k.bind.pages.filter fun p => o.first ≤ p.1 && p.1 < min (if o.last = 0 then ceilDiv o.t 128 else o.last) (ceilDiv o.t 128)).filterMap fun p =>
      (d2.snaps.pages.find? (·.id = p.2)).map fun x => (p.1, x))
    let chosen := fun h : Nat => if o.sparse = true then chosenPages o id g k.bind.committed h q range else range.map (·.1)
    let loadKv := (List.range g.kvHeads).mapM fun h => do
      let rows ← (range.filter fun p => p.1 ∈ chosen h).mapM fun p =>
        (List.range (min 128 (o.t - 128 * p.1))).mapM fun i => do
          let a ← pageVector s.mgt id g p.2 0 i h
          let b ← pageVector s.mgt id g p.2 1 i h
          pure (128 * p.1 + i, a, b)
      pure rows.flatten
    let d3 := after loadKv d2
    let kv := got loadKv d2
    let keys := fun i : Nat => kv.getD (i / (o.heads / g.kvHeads)) []
    let d4 := countAt 1 (0x030000 + 8 * (256 * k.part + 17 * fmtIndex g.kvFormat)) (2 * dim * ((List.range o.heads).map fun i => (keys i).length).sum) (if o.seed = 0 then d3 else setGenerator id (BitVec.ofNat 32 o.seed) d3)
    let sum := fun i : Nat => headSum o (openKey id (i * 2 ^ 32)) g (q.getD i []) (keys i)
    let write : Acc Unit := if o.fn = 1 then do
        (List.range o.heads).forM fun i => noteRow id 0x05 (dim + 2) ((partialBytes (sum i)).take (4 * (dim + 2))) []
        writeAll s.mgt id true false o.out ((List.range o.heads).map fun i => (i * partialRow dim, partialBytes (sum i)))
      else do
        let rows ← convertRows id o ((List.range o.heads).map fun i => (sum i).o.map fun v => fdiv v (sum i).l)
        writeTensor s.mgt id (anyOverlap (attExtents s.mgt k.record)) o.out o.outF false rows dim
    let d5 := after write d4
    let list : Acc Unit := if o.selected ≠ 0 then
        store s.mgt id true o.selected ((List.range g.kvHeads).flatMap fun h => (chosen h).flatMap (natBytes 4) ++ zeros (roundUp (4 * (chosen h).length) 64 - 4 * (chosen h).length))
      else pure ()
    ran opening s.dp = true → ran loadQ d1 = true →
    if range.any (fun p => pageFailed s.mgt d2 g p.2) = true then Ends (.attend id) s id ⟨0x21, o.region, 0, 0, 0⟩ d2
    else ran loadKv d2 = true → ran write d4 = true → ran list d5 = true
      → Ends (.attend id) s id ⟨0, k.bind.version, 0, (kv.map (·.length)).sum, if o.sparse = true then (range.filter fun p => !alwaysPage o k.bind.committed p.1).length else 0⟩ (after list d5))
  ∧ (∀ (s : State) (id : Nat) (k : Task), runningTask s.dp id [0x32] = some k → (attOps k.record).fn = 2 →
    let o := attOps k.record
    let dim := attDim s.mgt k.record
    let opening : Acc Unit := do
      (attExtents s.mgt k.record).forM fun e => checkWindow s.mgt k.part e.addr e.bytes
      readyOutput s.mgt id o.out (tensorBytes o.outF o.heads dim)
    let d1 := after opening s.dp
    let loadParts := load s.mgt id true o.q (o.parts * (o.heads * partialRow dim))
    let d2 := after loadParts d1
    let d3 := if o.seed = 0 then d2 else setGenerator id (BitVec.ofNat 32 o.seed) d2
    let value := fun p h i : Nat => f32Val (leNat (slice (got loadParts d1) ((p * o.heads + h) * partialRow dim + 4 * i) 4))
    let weight := fun h : Nat =>
      let ms := (List.range o.parts).map fun p => value p h dim
      ms.map fun v => fexp (fsub v (topOf (openKey id (h * 2 ^ 32)) ms))
    let total := fun (h key : Nat) (v : Nat → FVal) => openSum key fzero (List.zipWith (fun w p => fmul w (v p)) (weight h) (List.range o.parts))
    let row := fun h : Nat => (List.range dim).map fun j =>
      if ∀ p < o.parts, (value p h (dim + 1)).isZero = true then fzero
      else fdiv (total h (openKey id (h * 2 ^ 32) + 1 + j) (fun p => value p h j)) (total h (openKey id (h * 2 ^ 32)) (fun p => value p h (dim + 1)))
    let write : Acc Unit := do
      let rows ← convertRows id o ((List.range o.heads).map row)
      writeTensor s.mgt id (anyOverlap (attExtents s.mgt k.record)) o.out o.outF false rows dim
    ran opening s.dp = true → ran loadParts d1 = true → ran write d3 = true → Ends (.attend id) s id ⟨0, 0, 0, 0, 0⟩ (after write d3))
  ∧ (∀ (s : State) (id : Nat) (k : Task) (alg : CrcAlg), runningTask s.dp id [0x50] = some k → crcAlg (scanOps k.record).algo = some alg →
    let o := scanOps k.record
    let opening : Acc Unit := do
      (scanExtents k.record).forM fun e => checkWindow s.mgt k.part e.addr e.bytes
      if o.save ≠ 0 then readyOutput s.mgt id o.save 32 else pure ()
    let d1 := after opening s.dp
    let loadContext : Acc Bytes := if o.load ≠ 0 then load s.mgt id true o.load 32 else pure []
    let d2 := after loadContext d1
    let c := got loadContext d1
    let d3 := after (streamCheck s.mgt id o.start o.length) d2
    let loadRange := load s.mgt id false o.start o.length
    let d4 := after loadRange d3
    let reg := crcFold alg (if o.load ≠ 0 then wordAt c 0 else alg.init) (got loadRange d3)
    let count := ((if o.load ≠ 0 then wordAt c 1 else 0) + o.length) % 2 ^ 64
    let save : Acc Unit := if o.save ≠ 0 then store s.mgt id true o.save (contextBytes o.algo reg count) else pure ()
    ran opening s.dp = true → ran loadContext d1 = true →
    if o.load ≠ 0 ∧ contextSound o.algo c = false then Ends (.chkScan id) s id ⟨0x22, regionOf s.mgt s.dp o.load, 0, 0, 0⟩ d2
    else ran (streamCheck s.mgt id o.start o.length) d2 = true → ran loadRange d3 = true → ran save d4 = true
      → Ends (.chkScan id) s id ⟨0, o.algo, 0, if o.final = true then reg ^^^ alg.final else reg, min count 0xFFFFFFFF⟩ (after save d4))
  ∧ (∀ (algo reg count : Nat) (alg : CrcAlg), crcAlg algo = some alg → reg < 2 ^ alg.width → count < 2 ^ 64 →
    contextSound algo (contextBytes algo reg count) = true ∧ (contextBytes algo reg count).length = 32 ∧ wordAt (contextBytes algo reg count) 0 = reg ∧ wordAt (contextBytes algo reg count) 1 = count
    ∧ ∀ a b : Bytes, crcFold alg reg (a ++ b) = crcFold alg (crcFold alg reg a) b ∧ crcFold alg reg a < 2 ^ alg.width)

/-- A running HST_SEARCH whose shard and queries come without a wait probes, for each query, the lists whose centroids are nearest under the index's metric. Their entries are read, a bad list gives none and is logged; entries that are empty, out of the attribute range or not in the bitmap are left out. A RECALL index takes the entries nearest by sketch, at most the rerank depth, and their vectors' distances; a BULK index takes product-code scores. Each query's block holds its k nearest hits with what was scanned, admitted, probed and bad; the task ends DONE with the index's tag, SHORT where a query found fewer than k, the hits, and the queries short and bad lists. MERGE puts every part's real entries for a query in order of distance, identifiers breaking ties, drops repeats where asked, and writes the first k with the parts' counts summed; it ends DONE with the parts, SHORT likewise and the entries written. (R266, R267, R269, R272, R273, R274, R275, R276, R277, R278, R279, R280) -/
def Obligations.SearchesAndMerges : Prop :=
  (∀ (s : State) (id : Nat) (k : Task), runningTask s.dp id [0x40] = some k →
    let o := searchOps k.record
    let m := s.mgt
    let loadIndex := load m id false o.index 64
    let d1 := after loadIndex s.dp
    let x := indexOf o.index (got loadIndex s.dp)
    let opening : Acc Unit := do
      (searchExtents m s.dp k.record).forM fun e => checkWindow m k.part e.addr e.bytes
      readyOutput m id o.out (o.q * (64 + 16 * o.k))
    let d2 := after opening d1
    let loadQueries := load m id true o.query (o.q * x.rowLen)
    let d3 := after loadQueries d2
    let query := fun i : Nat => bf16Row (slice (got loadQueries d2) (i * x.rowLen) x.rowLen) x.dim
    let loadShard : Acc (Bytes × Bytes) := do
      streamCheck m id x.centroids (x.lists * x.rowLen)
      let c ← load m id false x.centroids (x.lists * x.rowLen)
      let p ← load m id false x.project x.projectLen
      pure (c, p)
    let d4 := after loadShard d3
    let row := fun (b : Bytes) (i : Nat) => bf16Row (slice b (i * x.rowLen) x.rowLen) x.dim
    let centroids := (List.range x.lists).map (row (got loadShard d3).1)
    let project := if x.recall = true then (List.range x.sketchBits).map (row (got loadShard d3).2) else []
    let books := if x.recall = true then [] else (List.range x.pqM).map fun t => (List.range 256).map fun i => bf16Row (slice (got loadShard d3).2 (t * x.bookLen + 2 * x.sub * i) (2 * x.sub)) x.sub
    let distance := fun i l : Nat => metricDistance x.metric (openKey id (i * 2 ^ 40) + l) (query i) (row (got loadShard d3).1 l)
    let probed := fun i : Nat => nearestOf o.nprobe ((List.range x.lists).map fun l => (distance i l, l))
    let loadLists := ((List.range o.q).flatMap probed).eraseDups.mapM fun l => do
      let r ← readList m id x l
      pure (l, r)
    let d5 := after loadLists d4
    let lists := got loadLists d4
    let find := fun i : Nat => do
      let key := openKey id (i * 2 ^ 40)
      let all := (probed i).flatMap fun l => (((lists.find? (·.1 = l)).bind (·.2)).getD []).map fun e => (l, e)
      let keep ← all.filterM fun p => Machine.admitted m id o p.2
      let hits ← if x.recall = true then
          ((sortBy (fun (a b : Nat × ListEntry) => a.1 < b.1 || (a.1 = b.1 && a.2.row < b.2.row)) (keep.map fun p => (hamming (sketchOf (key + 2 ^ 30) project (query i)) p.2.code, p.2))).take o.rerank).mapM fun p => do
            let b ← load m id false (x.vectors + p.2.row * rowBytes x.vformat x.dim) (elemBytes x.vformat x.dim)
            pure (⟨p.2.id, f32Code (metricDistance x.metric (key + 2 ^ 31 + p.2.row) (query i) (rowValues x.vformat x.dim b [])), x.addr / 2 ^ 50⟩ : Hit)
        else pure ((List.range keep.length).map fun j =>
          (⟨(keep.getD j default).2.id, f32Code (productScore x books (key + 2 ^ 32 + 256 * j) (query i) (centroids.getD (keep.getD j default).1 []) (keep.getD j default).2.code), x.addr / 2 ^ 50⟩ : Hit))
      pure (⟨(orderHits hits).take o.k, all.length, keep.length, (probed i).length, ((probed i).filter fun l => ((lists.find? (·.1 = l)).bind (·.2)).isNone).length⟩ : Found)
    let search := (List.range o.q).mapM find
    let d6 := after search d5
    let found := got search d5
    let bad := lists.filter (·.2.isNone)
    let d7 := bad.foldl (fun d l => logEvent m 3 4 1 (some k.part) 0 k.slot o.index [l.1] d) d6
    let write : Acc Unit := (List.range o.q).forM fun i => store m id true (o.out + i * (64 + 16 * o.k))
      (resultBlock o.k (found.getD i default).scanned (found.getD i default).adm (found.getD i default).lists (found.getD i default).bad (found.getD i default).hits)
    let short := (found.filter fun f => f.hits.length < o.k).length
    ran loadIndex s.dp = true → ran opening d1 = true → ran loadQueries d2 = true → ran loadShard d3 = true → ran loadLists d4 = true → ran search d5 = true → ran write d7 = true
    → Ends (.hstSearch id) s id ⟨0, x.tag, if short = 0 then 0 else flagShort, (found.map (·.hits.length)).sum, min short 65535 * 65536 + min bad.length 65535⟩ (after write d7))
  ∧ (∀ (s : State) (id : Nat) (k : Task), runningTask s.dp id [0x41] = some k →
    let o := mergeOps k.record
    let m := s.mgt
    let opening : Acc Unit := do
      (mergeExtents k.record).forM fun e => checkWindow m k.part e.addr e.bytes
      readyOutput m id o.out (o.q * (64 + 16 * o.k))
    let d1 := after opening s.dp
    let loadList := load m id true o.list (8 * o.parts)
    let d2 := after loadList d1
    let part := fun p : Nat => wordAt (got loadList d1) p
    let ask := loadLines m id true ((List.range o.parts).flatMap fun p => linesOf (part p) (o.q * (64 + 16 * o.kIn))).eraseDups
    let d3 := after ask d2
    let merge := (List.range o.q).mapM fun i => do
      let bs ← ((List.range o.parts).map part).mapM fun a => load m id true (a + i * (64 + 16 * o.kIn)) (64 + 16 * o.kIn)
      let real := bs.flatMap fun b => ((List.range (min (fieldAt b 0 63 32) o.kIn)).map fun j =>
        (⟨wordAt (slice b (64 + 16 * j) 16) 0, fieldAt (slice b (64 + 16 * j) 16) 1 63 32, fieldAt (slice b (64 + 16 * j) 16) 1 31 18⟩ : Hit)).filter (·.id ≠ 0xFFFFFFFFFFFFFFFF)
      let hs := ((if o.dedup = true then dedupHits (orderHits real) else orderHits real)).take o.k
      store m id true (o.out + i * (64 + 16 * o.k)) (resultBlock o.k ((bs.map fun b => wordAt b 1).sum % 2 ^ 64) ((bs.map fun b => wordAt b 2).sum % 2 ^ 64)
        ((bs.map fun b => fieldAt b 3 63 32).sum % 2 ^ 32) ((bs.map fun b => fieldAt b 3 31 0).sum % 2 ^ 32) hs)
      pure hs.length
    let counts := got merge d3
    let short := (counts.filter (· < o.k)).length
    ran opening s.dp = true → ran loadList d1 = true → ran ask d2 = true → ran merge d3 = true
    → Ends (.merge id) s id ⟨0, o.parts, if short = 0 then 0 else flagShort, counts.sum, min short 65535 * 65536⟩ (after merge d3))
  ∧ (∀ (k scanned adm lists bad : Nat) (hs : List Hit), hs.length ≤ k → k < 2 ^ 16 → scanned < 2 ^ 64 → adm < 2 ^ 64 → lists < 2 ^ 32 → bad < 2 ^ 32 → (∀ h ∈ hs, h.id < 2 ^ 64 ∧ h.distance < 2 ^ 32 ∧ h.package < 2 ^ 14) →
    let b := resultBlock k scanned adm lists bad hs
    b.length = 64 + 16 * k ∧ fieldAt b 0 63 32 = hs.length ∧ fieldAt b 0 31 16 = k ∧ fieldAt b 0 0 0 = (if hs.length < k then 1 else 0) ∧ wordAt b 1 = scanned ∧ wordAt b 2 = adm ∧ fieldAt b 3 63 32 = lists ∧ fieldAt b 3 31 0 = bad
    ∧ ∀ i < k, wordAt b (8 + 2 * i) = (if i < hs.length then (hs.getD i default).id else 0xFFFFFFFFFFFFFFFF) ∧ fieldAt b (9 + 2 * i) 63 32 = (if i < hs.length then (hs.getD i default).distance else 0x7F800000))

/-- A running MLD_GATHER or MLD_ADD goes through its index list in windows of 4,096 positions and ends DONE with the groups, DROPPED where an index was missing or invalid, and the counts. A gather's window reads each distinct valid row once, and writes it at each of its positions, zeros elsewhere; packed, it writes valid positions only, one after another, and their numbers where asked. An add's window sends for each row its source elements times the scale in FP32, line by line: within the package one sum a line, to another package one message for each source. COC_ENCODE, its codebook set held, encodes each block of 2,048 values, writes the blocks from its start, at a 64 KiB boundary where they must not cross one, then the table of their offsets in 16 bytes, then the descriptor, and ends DONE with the blocks, the bytes, and how many are raw or decode at half rate. A set that waits takes the space that is free, or waits on. (R256, R259, R260, R261, R286, R287, R288, R289, R291, R292, R293, R295) -/
def Obligations.GathersAddsAndEncodes : Prop :=
  (∀ (s : State) (id : Nat) (k : Task) (add : Bool), runningTask s.dp id [if add = true then 0x49 else 0x48] = some k →
    let m := s.mgt
    let g := gatherOps k.record
    let a := addOps k.record
    let opening : Acc Unit := if add = true then (addExtents k.record).forM fun e => checkWindow m k.part e.addr e.bytes
      else do
        (gatherExtents k.record).forM fun e => checkWindow m k.part e.addr e.bytes
        readyOutput m id g.out (g.n * g.rowLen)
        if g.positions ≠ 0 then readyOutput m id g.positions (4 * g.n) else pure ()
    let d1 := after opening s.dp
    let n := if add = true then a.n else g.n
    let tag := fieldAt k.record 0 15 0
    let work := runWindows m id n (if add = true then addWindow m id a tag else gatherWindow m id g tag) (ceilDiv n 4096 + 1)
    let d2 := after work d1
    let p := prog d2 id
    ran opening s.dp = true → ran work d1 = true
    → Ends (if add = true then .mldAdd id else .mldGather id) s id ⟨0, min p.count 0xFFFFFFFF, if p.skipped + p.started = 0 then 0 else flagDropped, p.rerouted * 2 ^ 32 + p.started, p.skipped⟩ d2)
  ∧ (∀ (m : Mgt) (id n fuel : Nat) (body : Nat → Nat → Acc (Nat × Nat × Nat × Nat)) (d : Dp), (prog d id).next * 4096 < n →
    let p := prog d id
    let r := got (body p.next p.rerouted) d
    let d1 := modTask id (fun t => { t with arrived := [], prog := { t.prog with next := p.next + 1, count := p.count + r.1, rerouted := p.rerouted + r.2.1, skipped := p.skipped + r.2.2.1, started := p.started + r.2.2.2 } }) (after (body p.next p.rerouted) d)
    ran (body p.next p.rerouted) d = true → after (runWindows m id n body (fuel + 1)) d = after (runWindows m id n body fuel) d1 ∧ ran (runWindows m id n body (fuel + 1)) d = ran (runWindows m id n body fuel) d1)
  ∧ (∀ (m : Mgt) (id tag w done : Nat) (o : GatherOps) (d : Dp),
    let loadIndex := loadWindow m id o.index o.wide o.rows o.n w
    let ix := got loadIndex d
    let d1 := after loadIndex d
    let valid := ix.filterMap fun i => match i with
      | .valid r => some r
      | _ => none
    let rows := valid.eraseDups
    let ask := loadLines m id false (rows.flatMap fun r => linesOf (o.table + r * o.rowLen) o.rowLen).eraseDups tag
    let d2 := after ask d1
    let read := rows.mapM fun r => gatherRow m id tag (o.table + r * o.rowLen) o.rowLen
    let d3 := after read d2
    let row := fun r : Nat => ((((rows.zip (got read d2)).find? (·.1 = r)).map (·.2)).getD [])
    let packed := (List.range ix.length).filterMap fun i => match ix.getD i .missing with
      | .valid r => some (i, r)
      | _ => none
    let write : Acc Unit := if o.pack = true then
        (List.range packed.length).forM fun j => do
          putRow m id (o.out + (done + j) * o.rowLen) (row (packed.getD j (0, 0)).2)
          if o.positions ≠ 0 then store m id false (o.positions + 4 * (done + j)) (natBytes 4 (w * 4096 + (packed.getD j (0, 0)).1)) else pure ()
      else (List.range ix.length).forM fun i => putRow m id (o.out + (w * 4096 + i) * o.rowLen) (match ix.getD i .missing with
        | .valid r => row r
        | _ => zeros o.rowLen)
    ran loadIndex d = true → ran ask d1 = true → ran read d2 = true → ran write d3 = true
    → ran (gatherWindow m id o tag w done) d = true ∧ after (gatherWindow m id o tag w done) d = after write d3
      ∧ got (gatherWindow m id o tag w done) d = (rows.length, valid.length, (ix.filter (· = .missing)).length, (ix.filter (· = .invalid)).length)
      ∧ (ix.length = min 4096 (o.n - w * 4096)) ∧ valid.length + (ix.filter (· = .missing)).length + (ix.filter (· = .invalid)).length = ix.length)
  ∧ (∀ (m : Mgt) (id tag w before : Nat) (o : AddOps) (d : Dp),
    let loadIndex := loadWindow m id o.index o.wide o.rows o.n w
    let ix := got loadIndex d
    let d1 := after loadIndex d
    let gs := groupsOf ix
    let read := gs.mapM fun g => g.2.mapM fun i => do
      let a := o.src + (w * 4096 + i) * rowBytes o.sf o.dim
      streamCheck m id a (rowBytes o.sf o.dim)
      let b ← load m id false a (elemBytes o.sf o.dim)
      pure ((rowValues o.sf o.dim b []).map fun v => fmul (f32 v) (f32Val o.scale))
    let d2 := after read d1
    let lines := ceilDiv o.dim (512 / fmtBits o.tf)
    let send := fun (group row : Nat) (v : List FVal) (j : Nat) =>
      let n := 512 / fmtBits o.tf
      let part := (v.drop (j * n)).take n
      postAtomic m id 0x10 (o.table + row * rowBytes o.tf o.dim + 64 * j) ((2 ^ part.length - 1) * 2 ^ 32 + o.tf) (part.flatMap (fun v => natBytes 4 (f32Code v)) ++ zeros (4 * (n - part.length))) tag group
    let post : Acc Unit := (List.range gs.length).forM fun i =>
      let vs := (got read d1).getD i []
      let row := (gs.getD i (0, [])).1
      let group := (prog d1 id).count + i
      if o.table / 2 ^ 50 = m.self then
        (List.range lines).forM (send group row ((List.range o.dim).map fun j => openSum (openKey id (group * 16384 + j)) fzero (vs.map fun v => v.getD j fzero)))
      else vs.forM fun v => (List.range lines).forM (send group row v)
    ran loadIndex d = true → ran read d1 = true → ran post d2 = true
    → ran (addWindow m id o tag w before) d = true ∧ after (addWindow m id o tag w before) d = after post d2
      ∧ got (addWindow m id o tag w before) d = (gs.length, (ix.filter fun i => match i with | .valid _ => true | _ => false).length, (ix.filter (· = .missing)).length, (ix.filter (· = .invalid)).length))
  ∧ (∀ (s : State) (id : Nat) (k : Task), runningTask s.dp id [0x38] = some k →
    let o := encOps k.record
    let m := s.mgt
    let x := o.dsc
    let opening : Acc Unit := do
      (encExtents k.record).forM fun e => checkWindow m k.part e.addr e.bytes
      needSet id o.books (x.bookAt (x.booksN + 1))
    let d1 := after opening s.dp
    let loadBooks := load m id false o.books (x.bookAt (x.booksN + 1))
    let d2 := after loadBooks d1
    let loadX := loadTensor m id o.x o.xf 1 o.values
    let d3 := after loadX d2
    let values := ((got loadX d2).headD []).map f32
    let blocks := (List.range x.blocks).map fun i => encodeBlock x (bookTables x (got loadBooks d1)) (f32Val o.target) o.outMax i ((values.drop (2048 * i)).take 2048)
    let placed := placeBlocks o.align o.blocks (blocks.map (·.1))
    let write : Acc Unit := do
      placed.forM fun b => store m id false b.1 b.2
      store m id false o.table ((placed.map fun b => natBytes 4 ((b.1 - o.desc) / 16)).flatten)
      store m id false o.desc (dscBytes x)
    let raw := (blocks.filter (·.2.1)).length
    let half := (blocks.filter (·.2.2)).length
    ran opening s.dp = true → ran loadBooks d1 = true → ran loadX d2 = true → ran write d3 = true
    → Ends (.cocEncode id) s id ⟨0, x.blocks % 2 ^ 32, 0, (placed.getLast?.map fun b => b.1 + b.2.length - o.blocks).getD 0, min raw 65535 * 65536 + min half 65535⟩ (after write d3)
      ∧ placed.length = x.blocks ∧ (∀ i < placed.length, (placed.getD i (0, [])).2 = (blocks.getD i ([], false, false)).1 ∧ o.blocks ≤ (placed.getD i (0, [])).1
        ∧ (∀ j < i, (placed.getD j (0, [])).1 + (placed.getD j (0, [])).2.length ≤ (placed.getD i (0, [])).1)
        ∧ (o.align = true → (placed.getD i (0, [])).2.length ≤ 65536 → 0 < (placed.getD i (0, [])).2.length → (placed.getD i (0, [])).1 / 65536 = ((placed.getD i (0, [])).1 + (placed.getD i (0, [])).2.length - 1) / 65536)))
  ∧ (∀ (s : State) (id cluster part set bytes : Nat), s.dp.tasks.bookWaits.find? (·.1 = id) = some (id, cluster, part, set, bytes) →
    let here := fun (b : Nat × Nat × Nat × Nat × List Nat) => b.1 = cluster && b.2.1 = part && b.2.2.1 = set
    if s.dp.tasks.books.any here = true ∨ booksUsed s.dp cluster + bytes ≤ 2 ^ 21 then
      ∃ t : State, exec (.codebookSpaceFree id) s = .next t ∧ t.mgt = s.mgt ∧ { t.dp with tasks := { t.dp.tasks with books := s.dp.tasks.books, bookWaits := s.dp.tasks.bookWaits } } = s.dp
        ∧ t.dp.tasks.bookWaits = s.dp.tasks.bookWaits.erase (id, cluster, part, set, bytes) ∧ t.dp.tasks.books.any (fun b => here b && id ∈ b.2.2.2.2) = true ∧ booksUsed t.dp cluster = booksUsed s.dp cluster + (if s.dp.tasks.books.any here = true then 0 else bytes)
    else exec (.codebookSpaceFree id) s = .next s)

/-- SNAP_OPEN and SNAP_DRAFT end with the version or base, the view's address and its slot, and the slot is open; in a lost region FAIL_LOST. DRAFT_FRAME_COPY maps a draft's frame to a reserved one whose lines read as the base's, and keeps every other frame. SNAP_PUBLISH recalls the lines held modified. With none left, PUBLISH_RECALL_DONE compares: a poisoned draft ends FAIL_POISON, unfrozen and its copies kept; a base that is not the head FAIL_CONFLICT with the head, the draft STALE; else the head becomes base + 1 with the draft's map, the slot shows it, other drafts of the base become STALE, the reservation left returns, and with no cached head-view line of a replaced frame the publish ends with the new version. SNAP_CLOSE closes the slot; VIEW_CLOSE_DONE waits for its users, then frees slot, copies and reservation and ends with the version it held. VERSION_RECLAIM_DONE returns a retired version's frames that nothing else maps. (R78, R79, R80, R82, R83, R85, R86, R87) -/
def Obligations.SnapshotsFollowTheirViews : Prop :=
  (∀ (s : State) (id : Nat) (k : Task) (p : Instr × Nat) (g : Region) (v : View), p ∈ [(.snapOpen id, 0x60), (.snapDraft id, 0x61)] → controlTask s.dp id [p.2] = some k →
    s.mgt.region (recRegion k.record) = some g → openingView s.dp (recRegion k.record) id = some v → anyView s.dp (recRegion k.record) v.slot = some v →
    ∃ (t : State) (x : Task), exec p.1 s = .next t ∧ t.mgt = s.mgt ∧ t.dp.store = s.dp.store ∧ t.dp.coh = s.dp.coh ∧ t.dp.fab = s.dp.fab ∧ t.dp.task id = some x ∧ x.state = .ending
      ∧ (if regionDead s.mgt s.dp (recRegion k.record) = true then x.result = some ⟨0x21, recRegion k.record, 0, 0, 0⟩ ∧ t.dp.snaps = s.dp.snaps
        else x.result = some ⟨0, v.base, 0, s.mgt.self * 2 ^ 50 + (g.viewBase + v.slot * g.viewSize), v.slot⟩ ∧ anyView t.dp (recRegion k.record) v.slot = some { v with opening := none }
          ∧ ∀ n : Nat, n ≠ v.slot → anyView t.dp (recRegion k.record) n = anyView s.dp (recRegion k.record) n))
  ∧ (∀ (s : State) (region slot i f b : Nat) (rest : List Nat) (g : Region) (v : View) (dr : Draft), s.mgt.region region = some g → anyView s.dp region slot = some v → v.shown = .draft dr →
    dr.reserved = f :: rest → (assoc dr.copying i).isSome = true → mappedFrame g dr.map i = b → b ≠ f → Quiet s.dp →
    ∃ (t : State) (x : Draft), exec (.draftFrameCopy region slot i) s = .next t ∧ t.mgt = s.mgt ∧ t.dp.tasks = s.dp.tasks ∧ t.dp.fab.ports = s.dp.fab.ports ∧ (anyView t.dp region slot).bind (·.draft) = some x
      ∧ x = { dr with map := setKey dr.map i f, copies := setKey dr.copies i f, copying := dropKey dr.copying i, reserved := rest } ∧ mappedFrame g x.map i = f
      ∧ (∀ a : Nat, a / 65536 ≠ f → cellGet 0 t.dp.store.mem a = cellGet 0 s.dp.store.mem a)
      ∧ (g.sealed = false → restoredFrame s.dp f = false → (∀ a : Nat, a / 65536 = f → cellGet 0 s.dp.store.mem a = 0) → (∀ l ∈ s.dp.store.poison, l / 1024 ≠ f)
        → ((frameRec s.mgt s.dp b).fresh = true → restoredFrame s.dp b = false ∧ ∀ a : Nat, a / 65536 = b → cellGet 0 s.dp.store.mem a = 0) → Memory.wf s.dp.store.mem = true
        → ∀ l < 1024, readLine s.mgt t.dp region (f * 65536 + 64 * l) = readLine s.mgt s.dp region (b * 65536 + 64 * l)))
  ∧ (∀ (s : State) (id : Nat) (k : Task) (g : Region), controlTask s.dp id [0x62] = some k → s.mgt.region (recRegion k.record) = some g → k.prog.stage = 0 → regionDead s.mgt s.dp (recRegion k.record) = false →
    let lo := g.viewBase + fieldAt k.record 6 7 0 * g.viewSize
    let held := s.dp.coh.dir.filter fun e => lo ≤ e.line * 64 && e.line * 64 < lo + g.length && e.owned
    let d1 := modTask id (fun t => { t with state := .running, prog := { t.prog with stage := 1 } }) s.dp
    exec (.snapPublish id) s = .next { s with dp := settle s.mgt (held.foldl (fun d e => recallEntry s.mgt e d) d1) })
  ∧ (∀ (s : State) (id : Nat) (k : Task) (g : Region) (sr : SnapRegion) (v : View) (dr : Draft), controlTask s.dp id [0x62] = some k → k.prog.stage = 1 →
    let region := recRegion k.record
    let slot := fieldAt k.record 6 7 0
    let lo := g.viewBase + slot * g.viewSize
    s.mgt.region region = some g → s.dp.snap region = some sr → anyView s.dp region slot = some v → v.shown = .draft dr → dr.copying = []
    → (∀ t ∈ s.dp.coh.trackers, ¬(lo ≤ t.line * 64 ∧ t.line * 64 < lo + g.length)) → (∀ e ∈ s.dp.coh.dir, lo ≤ e.line * 64 → e.line * 64 < lo + g.length → e.owned = false)
    → regionDead s.mgt s.dp region = false → Quiet s.dp → (∀ w ∈ s.dp.snaps.regions, w.region = region → w = sr) → (∀ w ∈ sr.views, w.slot = slot → w = v) →
    ∃ (t : State) (x : Task) (w : View), exec (.publishRecallDone id) s = .next t ∧ t.mgt = s.mgt ∧ t.dp.task id = some x ∧ anyView t.dp region slot = some w
      ∧ (if mapPoisoned s.dp g dr.map = true then x.result = some ⟨0x20, region, 0, 0, 0⟩ ∧ w = { v with shown := .draft { dr with frozen := false }, publish := none } ∧ t.dp.store = s.dp.store
        else if dr.base ≠ sr.head then x.result = some ⟨0x26, sr.head, 0, 0, 0⟩ ∧ w = { v with shown := .draft { dr with frozen := false, state := .stale }, publish := none } ∧ t.dp.store = s.dp.store
        else ∃ sr' : SnapRegion, t.dp.snap region = some sr' ∧ sr'.head = dr.base + 1 ∧ w.shown = .version (dr.base + 1)
          ∧ ((∀ y ∈ sr.versions, y.number ≠ dr.base + 1) → ∃ y : Version, sr'.version (dr.base + 1) = some y ∧ y.map = dr.map ∧ y.state = .head)
          ∧ (∀ y ∈ sr.views, y.slot ≠ slot → ∀ z : Draft, y.shown = .draft z → z.base = dr.base → z.state = .draft → ({ y with shown := .draft { z with state := .stale } } : View) ∈ sr'.views)
          ∧ freeCount t.dp = freeCount s.dp + dr.reserved.length
          ∧ ((∀ c ∈ dr.copies, (∀ e ∈ s.dp.coh.dir, e.line * 64 / 65536 ≠ g.base / 65536 + c.1) ∧ ∀ e ∈ s.dp.coh.trackers, e.line * 64 / 65536 ≠ g.base / 65536 + c.1) → g.base % 65536 = 0
            → x.result = some ⟨0, dr.base + 1, 0, 0, 0⟩ ∧ w.publish = none)))
  ∧ (∀ (s : State) (id : Nat) (k : Task) (v : View), controlTask s.dp id [0x63] = some k → anyView s.dp (recRegion k.record) (fieldAt k.record 6 7 0) = some v →
    ∃ (t : State) (x : Task) (w : View), exec (.snapClose id) s = .next t ∧ t.mgt = s.mgt ∧ t.dp.store = s.dp.store ∧ t.dp.coh = s.dp.coh ∧ t.dp.fab = s.dp.fab ∧ t.dp.task id = some x ∧ x = { k with state := .running }
      ∧ anyView t.dp (recRegion k.record) (fieldAt k.record 6 7 0) = some w ∧ w = { v with closing := if v.closing = none then some (some id) else v.closing })
  ∧ (∀ (s : State) (region slot : Nat) (g : Region) (v : View) (closer : Option Nat), s.mgt.region region = some g → anyView s.dp region slot = some v → v.closing = some closer → Quiet s.dp →
    let lo := g.viewBase + slot * g.viewSize
    let waits := viewUsers s.dp region slot closer = true ∨ v.publish ≠ none ∨ (∃ (id : Nat) (k : Task), closer = some id ∧ s.dp.task id = some k ∧ k.state ≠ .running ∧ k.result = none) ∨ (∃ dr : Draft, v.shown = .draft dr ∧ dr.copying ≠ [])
    (waits → exec (.viewCloseDone region slot) s = .next s)
    ∧ (¬waits → (∀ t ∈ s.dp.coh.trackers, ¬(lo ≤ t.line * 64 ∧ t.line * 64 < lo + g.length)) → (∀ e ∈ s.dp.coh.dir, ¬(lo ≤ e.line * 64 ∧ e.line * 64 < lo + g.length)) →
      ∃ t : State, exec (.viewCloseDone region slot) s = .next t ∧ t.mgt = s.mgt ∧ anyView t.dp region slot = none ∧ (∀ n : Nat, n ≠ slot → anyView t.dp region n = anyView s.dp region n)
        ∧ freeCount t.dp = freeCount s.dp + (match v.shown with
          | .draft dr => dr.copies.length + dr.reserved.length
          | .version _ => 0)
        ∧ (∀ (id : Nat) (k : Task), closer = some id → s.dp.task id = some k → k.result = none → (t.dp.task id).map (·.result) = some (some ⟨0, v.base, 0, 0, 0⟩))))
  ∧ (∀ (s : State) (region n : Nat) (g : Region) (sr : SnapRegion) (v : Version), s.mgt.region region = some g → s.dp.snap region = some sr → sr.version n = some v →
    if v.state ≠ .retired then exec (.versionReclaimDone region n) s = .next s
    else ∃ t : State, exec (.versionReclaimDone region n) s = .next t ∧ t.mgt = s.mgt ∧ t.dp.tasks = s.dp.tasks ∧ t.dp.coh = s.dp.coh
      ∧ (t.dp.snap region).map (·.versions) = some (sr.versions.filter (·.number ≠ n)) ∧ (t.dp.snap region).map (·.views) = some sr.views
      ∧ (∀ a : Nat, (∃ w ∈ sr.versions, w.number ≠ n ∧ ∃ i : Nat, (∃ y ∈ v.map, y.1 = i) ∧ mappedFrame g w.map i = a / 65536) → cellGet 0 t.dp.store.mem a = cellGet 0 s.dp.store.mem a)
      ∧ (sr.versions.filter (·.number ≠ n) = [] → sr.views = [] → freeCount t.dp = freeCount s.dp + ((((v.map.map (·.1)).eraseDups).map (mappedFrame g v.map)).length)))

/-- KV_CREATE and KV_FORK end with version 1, the length and the session, which is then there; in a lost region FAIL_LOST. Accepting a create makes it ACTIVE, empty, at version 1; accepting a fork at whole pages makes the target with length T and shares each page wholly below T, its share count one higher, the source unchanged. KV_APPEND writes each token's keys and values at the positions and pages its task was bound to, and ends with the version and the layer's pending tokens; page bytes outside a write stay. KV_COMMIT starts the rebuild; at its end each changed page holds its committed tokens and their summary, and length, version and state move in one step. KV_ABANDON discards pending tokens and the pages wholly beyond the length. KV_DROP ends with the version it met and lets go of every page, unless tasks still read the session: then KV_DROP_RELEASE does once they have ended. A page that others share stays, its count one lower. (R89, R90, R92, R94, R95, R96, R97, R98, R99) -/
def Obligations.SessionsFollowTheirRecords : Prop :=
  (∀ (s : State) (id : Nat) (k : Task) (p : Instr × Nat) (n : Nat) (x : KvSession), p ∈ [(.kvCreate id, 0x68), (.kvFork id, 0x6C)] → controlTask s.dp id [p.2] = some k →
    let region := recRegion k.record
    k.bind.session = some (region, n) → s.dp.session region n = some x →
    ∃ (t : State) (y : Task), exec p.1 s = .next t ∧ t.mgt = s.mgt ∧ t.dp.store = s.dp.store ∧ t.dp.coh = s.dp.coh ∧ t.dp.snaps.pages = s.dp.snaps.pages ∧ t.dp.task id = some y ∧ y.state = .ending
      ∧ (if regionDead s.mgt s.dp region = true then y.result = some ⟨0x21, region, 0, 0, 0⟩ ∧ t.dp.snaps = s.dp.snaps
        else y.result = some ⟨0, 1, 0, if p.2 = 0x6C then fieldAt k.record 7 39 0 else 0, n⟩ ∧ t.dp.session region n = some { x with creating := none }
          ∧ ∀ z : Nat, z ≠ n → t.dp.session region z = s.dp.session region z))
  ∧ (∀ (m : Mgt) (d : Dp) (id owner : Nat) (r : Bytes) (g : Region), m.region (recRegion r) = some g → g.id = recRegion r →
    (let n := if recSession r = 0xFFFF then (freeSession g d).getD 0 else recSession r
      let e := kvAccept m id owner 0x68 r d
      d.session g.id n = none → e.session g.id n = some ⟨g.id, n, .active, 0, 1, none, List.replicate g.kvLayers 0, [], some id, none⟩ ∧ e.store = d.store ∧ e.snaps.pages = d.snaps.pages)
    ∧ (∀ x : KvSession, metSession d g.id (recSession r) = some x →
      let n := if fieldAt r 6 31 16 = 0xFFFF then (freeSession g d).getD 0 else fieldAt r 6 31 16
      let t := fieldAt r 7 39 0
      let whole := x.pages.filter fun p => (p.2.1 + 1) * 128 ≤ t
      let e := kvAccept m id owner 0x6C r d
      t % 128 = 0 → d.session g.id n = none → (whole.map (·.2.2)).Nodup →
      e.session g.id n = some ⟨g.id, n, .active, t, 1, none, List.replicate g.kvLayers 0, whole, some id, none⟩ ∧ e.session g.id (recSession r) = some x ∧ e.store = d.store
        ∧ ∀ (q : Nat) (y : KvPage), d.page q = some y → e.page q = some (if q ∈ whole.map (·.2.2) then { y with share := y.share + 1 } else y)))
  ∧ (∀ (s : State) (id : Nat) (k : Task) (g : Region), controlTask s.dp id [0x69] = some k → s.mgt.region (recRegion k.record) = some g →
    let n := fieldAt k.record 6 7 0
    let opening : Acc Unit := do
      checkWindow s.mgt k.part (wordAt k.record 8) (n * g.kvToken)
      checkWindow s.mgt k.part (wordAt k.record 9) (n * g.kvToken)
    let loadK := load s.mgt id true (wordAt k.record 8) (n * g.kvToken)
    let loadV := load s.mgt id true (wordAt k.record 9) (n * g.kvToken)
    let d1 := after opening s.dp
    let d2 := after loadK d1
    let d3 := after loadV d2
    let put := fun (d : Dp) (i : Nat) => match ((k.bind.pages.find? (·.1 = (k.bind.tokens + i) / 128)).bind fun p => d3.page p.2) with
      | some p => pageStore s.mgt id p (128 * g.kvToken + (k.bind.tokens + i) % 128 * g.kvToken) (slice (got loadV d2) (i * g.kvToken) g.kvToken)
          (pageStore s.mgt id p ((k.bind.tokens + i) % 128 * g.kvToken) (slice (got loadK d1) (i * g.kvToken) g.kvToken) d)
      | none => d
    let d4 := (List.range n).foldl put d3
    ran opening s.dp = true → ran loadK d1 = true → ran loadV d2 = true →
    if regionDead s.mgt d3 g.id = true then Ends (.kvAppend id) s id ⟨0x21, g.id, 0, 0, 0⟩ d3
    else Ends (.kvAppend id) s id ⟨0, k.bind.version, 0, ((d3.session g.id (recSession k.record)).map fun x => x.pending.getD (fieldAt k.record 6 15 8) 0).getD 0, 0⟩ d4)
  ∧ (∀ (m : Mgt) (id off : Nat) (p : KvPage) (g : Region) (b : Bytes) (d : Dp), m.region p.region = some g → g.sealed = false → g.guard = 0 → d.store.restored = [] → Memory.wf d.store.mem = true →
    let e := pageStore m id p off b d
    (∀ i < b.length, cellGet 0 e.store.mem (p.data * 65536 + off + i) = b.getD i 0) ∧ (∀ a : Nat, a < p.data * 65536 + off ∨ p.data * 65536 + off + b.length ≤ a → cellGet 0 e.store.mem a = cellGet 0 d.store.mem a)
    ∧ e.snaps = d.snaps ∧ e.tasks = d.tasks ∧ e.coh = d.coh)
  ∧ (∀ (s : State) (id : Nat) (k : Task), controlTask s.dp id [0x6A] = some k →
    let region := recRegion k.record
    ∃ (t : State) (y : Task), exec (.kvCommit id) s = .next t ∧ t.mgt = s.mgt ∧ t.dp.snaps = s.dp.snaps ∧ t.dp.store = s.dp.store ∧ t.dp.task id = some y
      ∧ (if regionDead s.mgt s.dp region = true then y.result = some ⟨0x21, region, 0, 0, 0⟩ else y = { k with state := .running, prog := { k.prog with stage := 1 } }))
  ∧ (∀ (s : State) (id n : Nat) (k : Task) (g : Region) (x : KvSession), controlTask s.dp id [0x6A] = some k → k.prog.stage = 1 → s.mgt.region (recRegion k.record) = some g → g.id = recRegion k.record
    → s.dp.session g.id (recSession k.record) = some x → x.committing = some (id, n) → Quiet s.dp → (x.pages.map (·.2.2)).Nodup →
    let len := x.length + fieldAt k.record 6 7 0
    let changed := x.pages.filter fun p => x.length < 128 * (p.2.1 + 1) && 128 * p.2.1 < len
    ∃ (t : State) (y : Task), exec (.kvCommitRebuildDone id) s = .next t ∧ t.mgt = s.mgt ∧ t.dp.task id = some y ∧ y.result = some ⟨0, (x.version + 1) % 2 ^ 32, 0, len, 0⟩
      ∧ t.dp.session g.id (recSession k.record) = some { x with state := .active, length := len, version := x.version + 1, holder := none, pending := List.replicate g.kvLayers 0, committing := none }
      ∧ (∀ q ∈ changed, ∀ z : KvPage, s.dp.page q.2.2 = some z → ∃ w : KvPage, t.dp.page q.2.2 = some w ∧ w.tokens = min 128 (len - 128 * q.2.1) ∧ (∃ e : Bytes, w.summary = some e ∧ e.length = g.summaryLen)
        ∧ (changed = [q] → w.summary = some (pageSummary s.mgt s.dp g (recSession k.record) z (min 128 (len - 128 * q.2.1)))) ∧ { w with tokens := z.tokens, summary := z.summary } = z)
      ∧ (∀ (q : Nat), q ∉ changed.map (·.2.2) → t.dp.page q = s.dp.page q))
  ∧ (∀ (s : State) (id : Nat) (k : Task) (g : Region) (x : KvSession), controlTask s.dp id [0x6B] = some k → s.mgt.region (recRegion k.record) = some g → g.id = recRegion k.record
    → s.dp.session g.id (recSession k.record) = some x → regionDead s.mgt s.dp g.id = false →
    ∃ (t : State) (y : Task), exec (.kvAbandon id) s = .next t ∧ t.mgt = s.mgt ∧ t.dp.task id = some y ∧ y.result = some ⟨0, x.version, 0, 0, 0⟩
      ∧ t.dp.session g.id (recSession k.record) = some (if x.state = .appending then { x with state := .active, holder := none, committing := none, pending := List.replicate g.kvLayers 0, pages := x.pages.filter fun p => 128 * p.2.1 < x.length } else x)
      ∧ (∀ q ∈ x.pages, ∀ z : KvPage, 128 * q.2.1 < x.length → (∀ p ∈ x.pages, p.2.2 = q.2.2 → p = q) → s.dp.page q.2.2 = some z → t.dp.page q.2.2 = some z)
      ∧ (∀ z : Nat, z ≠ recSession k.record → t.dp.session g.id z = s.dp.session g.id z))
  ∧ (∀ (s : State) (id : Nat) (k : Task) (g : Region) (x : KvSession), controlTask s.dp id [0x6D] = some k → s.mgt.region (recRegion k.record) = some g → g.id = recRegion k.record
    → s.dp.session g.id (recSession k.record) = some x → (x.pages.map (·.2.2)).Nodup → (∀ q ∈ x.pages, ∀ z : KvPage, s.dp.page q.2.2 = some z → z.region = g.id) →
    ∃ (t : State) (y : Task), exec (.kvDrop id) s = .next t ∧ t.mgt = s.mgt ∧ t.dp.task id = some y ∧ y.result = some ⟨0, k.bind.version, 0, 0, 0⟩
      ∧ (if sessionReaders s.dp g.id (recSession k.record) = true then t.dp.snaps = s.dp.snaps ∧ t.dp.store = s.dp.store
        else t.dp.session g.id (recSession k.record) = none ∧ (∀ z : Nat, z ≠ recSession k.record → t.dp.session g.id z = s.dp.session g.id z)
          ∧ ∀ (q : Nat) (z : KvPage), s.dp.page q = some z → t.dp.page q = if q ∈ x.pages.map (·.2.2) then (if 1 < z.share then some { z with share := z.share - 1 } else none) else some z))
  ∧ (∀ (s : State) (region session : Nat) (x : KvSession), s.dp.session region session = some x →
    if x.state = .dropping ∧ sessionReaders s.dp region session = false ∧ ∀ y ∈ s.dp.tasks.tasks, ¬(y.opcode = 0x6D ∧ recRegion y.record = region ∧ recSession y.record = session ∧ y.result = none)
      then exec (.kvDropRelease region session) s = .next { s with dp := removeSession s.mgt region session s.dp } ∧ (removeSession s.mgt region session s.dp).session region session = none
    else exec (.kvDropRelease region session) s = .next s)

/-- A running package that is not fenced and suspects nobody sends, when a beat is due, one BEAT to every member on each of its routes in UP or SELF, numbered one on; otherwise nothing changes. A BEAT of a member that is not LOST is the last heard, makes its lease HELD, ends suspicion of it and gives its lease set; fencing applies from then where more than half of the members have now been heard. One of a LOST member leaves it LOST while no epoch since serves it. A SUSPECT from a package outside the subject's set changes nothing, one from inside is held from its arrival until two beats have passed, and where with the package's own it makes a majority a VERDICT goes out on every port in service and is acted on. Silence that reaches its limit makes a HELD lease SUSPECT, sends SUSPECT to the others of the set, and nothing before the first BEAT; after the time to decide the subject is logged once. A package that has heard nothing for three quarters of the silence from half of its lease set becomes FENCED, with all of its tasks aborted, detail 0x02; otherwise it does not. (R382, R383, R384, R386, R389, R499) -/
def Obligations.WhistBeatsSuspectsAndDecides : Prop :=
  (∀ s : State, s.mgt.running = true → s.dp.fab.whist.fenced = false → s.dp.fab.whist.lastBeatSend + s.mgt.timers.beat10us * 1000 ≤ s.mgt.clk.ltb
      → (∀ x ∈ s.dp.fab.whist.members, x.suspectedAt = none) → (∀ x ∈ s.dp.fab.ports, Sendable x) → ∃ (t : State) (new : List Out), exec .beatSend s = .next t ∧ t.dp.out = s.dp.out ++ new
      ∧ new.length = (s.mgt.leaseSet.map fun k => (whistPorts s.mgt s.dp k).length).sum ∧ t.dp.fab.whist = { s.dp.fab.whist with beats := (s.dp.fab.whist.beats + 1) % 2 ^ 24, lastBeatSend := s.mgt.clk.ltb }
      ∧ (∀ k ∈ s.mgt.leaseSet, ∀ p ∈ whistPorts s.mgt s.dp k, ∃ f, .flit p f ∈ new ∧ CarriesWhist f (whistMsg s.mgt 1 s.mgt.self ((s.dp.fab.whist.beats + 1) % 2 ^ 24) k false s.mgt.leaseSet))
      ∧ t.mgt = s.mgt ∧ t.dp.fab.inbox = s.dp.fab.inbox ∧ { t.dp with fab := s.dp.fab, out := s.dp.out } = s.dp)
  ∧ (∀ s : State, s.mgt.running = false ∨ s.dp.fab.whist.fenced = true ∨ s.mgt.clk.ltb < s.dp.fab.whist.lastBeatSend + s.mgt.timers.beat10us * 1000 → exec .beatSend s = .next s)
  ∧ (∀ (s : State) (p : Fin 8) (w : Whist) (x : Member), w.kind = 1 → w.target = s.mgt.self → (s.dp.darPort p.val).state.carries = true → s.dp.member w.source = some x → x.lease ≠ 2
      → ∃ (t : State) (y : Member), exec (.beat p w) s = .next t ∧ t.dp.member w.source = some y
      ∧ y = { x with lastBeat := some s.mgt.clk.ltb, suspectedAt := none, logged := false, set := w.set.take 16, lease := 0 }
      ∧ (∀ k, k ≠ w.source → t.dp.member k = s.dp.member k) ∧ (∀ y ∈ t.dp.fab.whist.suspicions, y.1 ≠ w.source) ∧ (∀ y ∈ s.dp.fab.whist.suspicions, y.1 ≠ w.source → y ∈ t.dp.fab.whist.suspicions)
      ∧ t.dp.fab.whist.armed = (if s.dp.fab.whist.armed = none ∧ 2 * (t.dp.fab.whist.members.filter fun z => z.lastBeat ≠ none).length > t.dp.fab.whist.members.length then some s.mgt.clk.ltb else s.dp.fab.whist.armed)
      ∧ OnlyWhist s t ∧ t.dp.fab.whist.fenced = s.dp.fab.whist.fenced)
  ∧ (∀ (s : State) (p : Fin 8) (w : Whist) (x : Member), w.kind = 1 → w.target = s.mgt.self → (s.dp.darPort p.val).state.carries = true → s.dp.member w.source = some x → x.lease = 2
      → lostPkg s.mgt s.dp w.source = true → ∃ (t : State) (y : Member), exec (.beat p w) s = .next t ∧ t.dp.member w.source = some y ∧ y.lease = 2 ∧ t.dp.fab.whist.verdicts = s.dp.fab.whist.verdicts ∧ OnlyWhist s t)
  ∧ (∀ (s : State) (p : Fin 8) (w : Whist) (x : Member), w.kind = 2 → s.dp.member w.subject = some x → w.source ∉ x.set → exec (.suspect p w) s = .next s)
  ∧ (∀ (s : State) (p : Fin 8) (w : Whist) (x : Member), w.kind = 2 → w.target = s.mgt.self → (s.dp.darPort p.val).state.carries = true → s.dp.member w.subject = some x → w.source ∈ x.set → x.lease ≠ 2 →
      let held := (w.subject, w.source, s.mgt.clk.ltb) :: s.dp.fab.whist.suspicions.filter fun y => !(y.1 = w.subject && y.2.1 = w.source)
      let d := { s.dp with fab := { s.dp.fab with whist := { s.dp.fab.whist with suspicions := held } } }
      (x.suspectedAt = none ∨ s.mgt.self ∉ x.set ∨ 2 * (suspecters d x + 1) ≤ x.set.length → exec (.suspect p w) s = .next { s with dp := d })
      ∧ (x.suspectedAt ≠ none → s.mgt.self ∈ x.set → 2 * (suspecters d x + 1) > x.set.length → lostPkg s.mgt s.dp w.subject = false → s.dp.fab.whist.fenced = false → w.subject ≠ s.mgt.self → (∀ y ∈ s.dp.fab.ports, Sendable y) →
        ∃ (d' : Dp) (new : List Out), exec (.suspect p w) s = .next { s with dp := settle s.mgt (losePackage s.mgt w.subject (taken s.mgt w.subject d')) }
        ∧ d'.out = s.dp.out ++ new ∧ (∀ q < 8, ((s.dp.darPort q).state = .up ∨ (s.dp.darPort q).state = .self) → ∃ f, .flit q f ∈ new ∧ CarriesWhist f (whistMsg s.mgt 3 w.subject 0 0 true []))
        ∧ d'.fab.whist = d.fab.whist ∧ { d' with fab := s.dp.fab, out := s.dp.out } = s.dp))
  ∧ (∀ (s : State) (k sender : Nat), ∃ t : State, exec (.suspectHoldExpiry k sender) s = .next t ∧ OnlyWhist s t ∧ t.dp.fab.whist.members = s.dp.fab.whist.members
      ∧ ∀ y, y ∈ t.dp.fab.whist.suspicions ↔ y ∈ s.dp.fab.whist.suspicions ∧ ¬(y.1 = k ∧ y.2.1 = sender ∧ y.2.2 + 2 * s.mgt.timers.beat10us * 1000 ≤ s.mgt.clk.ltb))
  ∧ (∀ (s : State) (k : Nat) (x : Member), s.dp.member k = some x → x.id = k → s.dp.fab.whist.fenced = false →
      (x.lastBeat = none → exec (.whistSilenceExpiry k) s = .next s)
      ∧ (∀ b, x.lastBeat = some b → x.lease ≠ 0 ∨ s.mgt.clk.ltb < b + s.mgt.timers.silence10us * 1000 → exec (.whistSilenceExpiry k) s = .next s)
      ∧ (∀ b, x.lastBeat = some b → x.lease = 0 → b + s.mgt.timers.silence10us * 1000 ≤ s.mgt.clk.ltb → s.mgt.self ∉ x.set ∨ 2 * (suspecters s.dp x + 1) ≤ x.set.length → (∀ y ∈ s.dp.fab.ports, Sendable y) →
        ∃ (t : State) (new : List Out), exec (.whistSilenceExpiry k) s = .next t ∧ t.dp.member k = some { x with lease := 1, suspectedAt := some s.mgt.clk.ltb, sent := s.mgt.clk.ltb }
        ∧ (∀ j, j ≠ k → t.dp.member j = s.dp.member j) ∧ t.dp.fab.whist.suspicions = s.dp.fab.whist.suspicions ∧ t.dp.out = s.dp.out ++ new
        ∧ (∀ j ∈ x.set, j ≠ s.mgt.self → ∀ p ∈ whistPorts s.mgt s.dp j, ∃ f, .flit p f ∈ new ∧ CarriesWhist f (whistMsg s.mgt 2 k 0 j false []))
        ∧ t.mgt = s.mgt ∧ { t.dp with fab := s.dp.fab, out := s.dp.out } = s.dp))
  ∧ (∀ (s : State) (k : Nat) (x : Member) (b : Nat), s.dp.member k = some x → x.id = k → x.suspectedAt = some b →
      (x.logged = true ∨ s.mgt.clk.ltb < b + s.mgt.timers.decide10us * 1000 → exec (.whistDecideExpiry k) s = .next s)
      ∧ (x.logged = false → b + s.mgt.timers.decide10us * 1000 ≤ s.mgt.clk.ltb → ∃ (t : State) (l : LogEntry), exec (.whistDecideExpiry k) s = .next t
        ∧ t.dp.member k = some { x with logged := true } ∧ (∀ j, j ≠ k → t.dp.member j = s.dp.member j) ∧ t.dp.obs.log.head? = some l ∧ l.severity = 4 ∧ l.block = 9 ∧ l.package = k
        ∧ t.mgt = s.mgt ∧ t.dp.out = s.dp.out ∧ { t.dp with fab := s.dp.fab, obs := s.dp.obs } = s.dp))
  ∧ (∀ (s : State) (a : Nat), s.dp.fab.whist.armed = some a → s.dp.fab.whist.fenced = false →
      let silent := s.dp.fab.whist.members.filter fun x => 4 * (s.mgt.clk.ltb - x.lastBeat.getD (max a x.since)) ≥ 3 * (s.mgt.timers.silence10us * 1000)
      (2 * silent.length < s.dp.fab.whist.members.length ∨ s.dp.fab.whist.members = [] → exec .selfFence s = .next s)
      ∧ (2 * silent.length ≥ s.dp.fab.whist.members.length → s.dp.fab.whist.members ≠ [] → ∃ d : Dp, exec .selfFence s = .next { s with dp := settle s.mgt d } ∧ Fenced s.dp d))
  ∧ (∀ s : State, s.dp.fab.whist.armed = none → exec .selfFence s = .next s)

/-- A VERDICT on another package under the epoch now stamped, the first of it, is recorded and acted on: its lease is LOST, suspicions of it are dropped, and with no other trace of it in the package nothing else changes but the log; a task with one request to it ends with FAIL_TIMEOUT, detail the package, unless it is a ROUTE. A ROUTE at SELECT whose lost request was of a guarded address waits without its context for a server, one at DISPATCH ends with FAIL_PHASE, detail 0. A later VERDICT on it changes nothing. One on this package fences it, its tasks ABORTED, detail 0x02. A guard write late by its end-to-end time is sent again, and a writer's task that waits on it ends with FAIL_TIMEOUT, detail the holder, its line still busy; none late changes nothing. A hold of 50 µs lapses, a younger one stays. A ROUTE that has waited TIE.RESUME_WAIT for a server ends with FAIL_PHASE and the phase to resubmit, one that has not is left alone. Which addresses of another package are guarded is free in the model (log entry 55). (R386, R387, R389, R395, R396, R403) -/
def Obligations.VerdictsGuardsAndHoldsEndWaits : Prop :=
  (∀ (s : State) (p : Fin 8) (w : Whist), w.kind = 3 → (s.dp.darPort p.val).state.carries = true → lostPkg s.mgt s.dp w.subject = true → exec (.verdict p w) s = .next s)
  ∧ (∀ (s : State) (p : Fin 8) (w : Whist), w.kind = 3 → (s.dp.darPort p.val).state.carries = true → lostPkg s.mgt s.dp w.subject = false → w.subject = s.mgt.self → s.dp.fab.whist.fenced = false →
      ∃ d : Dp, exec (.verdict p w) s = .next { s with dp := settle s.mgt d } ∧ Fenced s.dp d)
  ∧ (∀ (s : State) (p : Fin 8) (w : Whist), w.kind = 3 → (s.dp.darPort p.val).state.carries = true → lostPkg s.mgt s.dp w.subject = false → w.subject ≠ s.mgt.self → NoTrace s.mgt s.dp w.subject →
      let d := taken s.mgt w.subject s.dp
      let lost := modMember w.subject (fun x => { x with lease := 2, suspectedAt := none }) d
      (s.dp.coh.txns.filter (fun x => x.msg.target = w.subject) = [] → exec (.verdict p w) s = .next { s with dp := settle s.mgt lost })
      ∧ ∀ (x : Txn) (id : Nat) (k : Task), s.dp.coh.txns.filter (fun x => x.msg.target = w.subject) = [x] → x.dead = false → x.via = .task id → id < groupBase → x.msg.opcode ≠ 0x08 →
        s.dp.task id = some k → k.result = none → k.state ≠ .waitResume →
        let gone := modTask id (fun t => { t with outstanding := t.outstanding - 1 }) { d with coh := { d.coh with txns := d.coh.txns.erase x, heldHome := d.coh.heldHome.filter (·.txn ≠ x.txn) } }
        let ended := fun (e : Dp) => exec (.verdict p w) s = .next { s with dp := settle s.mgt (modMember w.subject (fun x => { x with lease := 2, suspectedAt := none }) e) }
        (k.opcode ≠ 0x30 → ended (failTask id 0x25 w.subject gone))
        ∧ (k.opcode = 0x30 → k.prog.stage = 0 → k.phase = 0 → if Config.remoteGuarded x.msg.addr then ∃ e, ended e
          ∧ ∃ k', e.task id = some k' ∧ k'.state = .waitResume ∧ k'.waitPackage = w.subject ∧ k'.waitValue = s.mgt.clk.ltb ∧ k'.result = none ∧ k'.record = k.record
          else ended (if (routeOps k.record).work / 2 ^ 50 = x.msg.addr / 2 ^ 50 then failTask id 0x27 0 gone else failTask id 0x25 w.subject gone))
        ∧ (k.opcode = 0x30 → k.prog.stage = 3 → ended (if Config.remoteGuarded x.msg.addr ∨ (routeOps k.record).work / 2 ^ 50 = x.msg.addr / 2 ^ 50 then failTask id 0x27 0 gone else failTask id 0x25 w.subject gone)))
  ∧ (∀ (s : State) (line : Nat), (∀ t ∈ s.dp.coh.trackers, t.line = line → ∀ g ∈ t.guards, s.mgt.clk.ltb < g.2.2.2 + s.mgt.e2e) → exec (.guardWriteTimeout line) s = .next s)
  ∧ (∀ (s : State) (line : Nat) (k : Tracker) (holder txn : Nat) (b : Bytes) (at_ : Nat) (x : Txn), s.dp.coh.trackers = [k] → k.line = line → k.guards = [(holder, txn, b, at_)] → at_ + s.mgt.e2e ≤ s.mgt.clk.ltb
      → s.dp.coh.txns.find? (·.txn = txn) = some x → s.dp.coh.heldHome.any (·.txn = txn) = false →
      ∃ d : Dp, exec (.guardWriteTimeout line) s = .next { s with dp := d }
      ∧ d.fab = (send s.mgt x.msg s.dp).fab ∧ d.coh.txns = s.dp.coh.txns ∧ d.store = s.dp.store ∧ d.coh.dir = s.dp.coh.dir
      ∧ (∃ k', d.coh.trackers = [k'] ∧ k'.line = line ∧ k'.guards = [(holder, txn, b, s.mgt.clk.ltb)] ∧ k'.req = k.req ∧ k'.via = k.via)
      ∧ (∀ id r, k.via = .task id → k.cause = 4 → id < groupBase → s.dp.task id = some r → r.result = none → ∃ r', d.task id = some r' ∧ r'.result = some ⟨0x25, holder, 0, 0, 0⟩)
      ∧ (k.cause ≠ 4 → d.tasks = s.dp.tasks))
  ∧ (∀ (s : State) (f : Nat), (∀ h ∈ s.dp.fab.whist.holds, h.1 = f → s.mgt.clk.ltb < h.2.2 + 5000) → exec (.aliasHoldLapse f) s = .next s)
  ∧ (∀ (s : State) (f : Nat) (h : Nat × Nat × Nat), h ∈ s.dp.fab.whist.holds → h.1 = f → h.2.2 + 5000 ≤ s.mgt.clk.ltb →
      ∃ d : Dp, exec (.aliasHoldLapse f) s = .next { s with dp := settle s.mgt d } ∧ OnlyWhist s { s with dp := d } ∧ d.fab.whist.members = s.dp.fab.whist.members
      ∧ ∀ y, y ∈ d.fab.whist.holds ↔ y ∈ s.dp.fab.whist.holds ∧ (y.1 ≠ f ∨ s.mgt.clk.ltb < y.2.2 + 5000))
  ∧ (∀ (s : State) (id : Nat) (k : Task), s.dp.task id = some k → k.state = .waitResume → k.result = none →
      (s.mgt.clk.ltb < k.waitValue + s.mgt.pkg.resumeWaitMs * 100000 → exec (.resumeWaitExpiry id) s = .next s)
      ∧ (k.waitValue + s.mgt.pkg.resumeWaitMs * 100000 ≤ s.mgt.clk.ltb → exec (.resumeWaitExpiry id) s = .next { s with dp := failTask id 0x27 (if k.prog.stage = 6 then 2 else 0) s.dp }))

/-- A port trains only with an image accepted, a mode other than DISABLED, PERST_N high and no link, as CXL only where both ask for it. A link down, a Hot Reset, a Function Level Reset and a fall of PERST_N return the configuration to its reset values but for the sticky AER registers, uncommit the decoders, and begin to drain the translations of the port's outbound windows; nothing else changes. A reset answers configuration requests with retry status until it is done. CONFIG_WRITE changes one field as it is laid out. A decoder commits where its range is that of a window no other holds, its ways 1, its skip 0 and BI enabled; else it shows Error Not Committed, and a locked one stays. The mailbox answers its seven opcodes and refuses the rest, and no command of it changes anything but its answer; DOE offers discovery and table access. Mailbox layouts, the code of Unsupported and AER's default masks are PRESUMED (log entry 74), the bytes of standard structures free. (R311, R312, R313, R316, R317, R318, R322, R323, R325, R504, R535) -/
def Obligations.HostPortsTrainResetAndAreConfigured : Prop :=
  (∀ (s : State) (p : Fin 2) (h : HostPort) (cxl : Bool) (w v : Nat), s.dp.hosts.ports[p.val]? = some h →
      (s.mgt.image ≠ none → imagePortMode s.mgt p.val ≠ 0 → h.perst = false → h.mode = 0 → s.mgt.sec.power ≠ .retain → s.mgt.hostTesting p.val = false
        → w ∈ [1, 2, 4, 8] → v ∈ [0x02, 0x05, 0x08, 0x10, 0x20, 0x40] →
        exec (.hostLinkTrained p cxl w v) s = .next (hostPortSet s p { h with mode := if cxl = true ∧ imagePortMode s.mgt p.val = 1 then 1 else 2, width := w, speed := v, resetting := false }))
      ∧ (s.mgt.image = none ∨ imagePortMode s.mgt p.val = 0 ∨ h.perst = true ∨ h.mode ≠ 0 → exec (.hostLinkTrained p cxl w v) s = .next s)
      ∧ exec (.perstNRise p) s = .next (hostPortSet s p { h with perst := false })
      ∧ exec (.functionResetDone p) s = .next (hostPortSet s p { h with resetting := false })
      ∧ (h.mode = 0 → exec (.hostLinkDown p) s = .next s ∧ exec (.hotReset p) s = .next s ∧ exec (.functionLevelReset p) s = .next s)
      ∧ (h.mode ≠ 0 → FunctionReset s p (unconfigured h 0 0 0 h.perst false) (exec (.hostLinkDown p) s) ∧ FunctionReset s p (unconfigured h h.mode h.width h.speed h.perst true) (exec (.hotReset p) s)
        ∧ FunctionReset s p (unconfigured h h.mode h.width h.speed h.perst true) (exec (.functionLevelReset p) s))
      ∧ FunctionReset s p (unconfigured h 0 0 0 true false) (exec (.perstNFall p) s))
  ∧ (∀ (s : State) (p : Fin 2) (h : HostPort) (f : CfgField) (v : BitVec 64), s.dp.hosts.ports[p.val]? = some h →
      (h.mode = 0 ∨ h.perst = true → exec (.configWrite p f v) s = .next s)
      ∧ (h.mode ≠ 0 → h.perst = false → h.resetting = true → Answers (.configWrite p f v) s (.host p.val 0 3 []))
      ∧ (h.mode ≠ 0 → h.perst = false → h.resetting = false → ∃ h', exec (.configWrite p f v) s = .next { hostPortSet s p h' with dp := { (hostPortSet s p h').dp with out := s.dp.out ++ [.host p.val 0 0 []] } }
        ∧ match f with
          | .memorySpace => h' = { h with memEnable := v.getLsbD 0 }
          | .busMaster => h' = { h with busMaster := v.getLsbD 0 }
          | .bar0 => h' = { h with bar0 := v.toNat - v.toNat % 2 ^ 18 }
          | .bar2 => h' = { h with bar2 := v.toNat - v.toNat % 2 ^ 22 }
          | .bar4 => h' = { h with bar4 := if inWindows s.mgt p.val = [] then 0 else v.toNat - v.toNat % barSize s.mgt p.val }
          | .atsEnable => h' = { h with ats := v.getLsbD 0 }
          | .biEnable => h' = { h with bi := h.mode = 1 && v.getLsbD 0 }
          | .d3hot => h' = { h with d3 := v.getLsbD 0 }
          | .completionTimeoutUs => h' = { h with timeoutUs := v.toNat }
          | .aerCorrectableMask => h' = { h with corrMask := v.setWidth 32 }
          | .aerUncorrectableMask => h' = { h with uncorrMask := v.setWidth 32 }
          | .aerSeverity => h' = { h with severity := v.setWidth 32 }
          | .aerStatusClear => { h' with uncorrStatus := h.uncorrStatus, corrStatus := h.corrStatus } = h
            ∧ ∀ i < 32, h'.uncorrStatus.getLsbD i = (h.uncorrStatus.getLsbD i && !v.getLsbD i) ∧ h'.corrStatus.getLsbD i = (h.corrStatus.getLsbD i && !v.getLsbD (i + 32))
          | .maxPayload => h' = { h with maxPayload := if v.toNat ∈ [128, 256, 512] then v.toNat else h.maxPayload }
          | .maxReadRequest => h' = { h with maxRead := if v.toNat ∈ [128, 256, 512, 1024, 2048, 4096] then v.toNat else h.maxRead }))
  ∧ (∀ (s : State) (p : Fin 2) (h : HostPort) (i : Fin 16) (c : HdmCommit), s.dp.hosts.ports[p.val]? = some h →
      (h.mode ≠ 1 ∨ (h.hdm i.val).committed = true ∧ (h.hdm i.val).locked = true → exec (.hdmDecoderCommit p i c) s = .next s)
      ∧ (h.mode = 1 → h.resetting = false → h.d3 = false → (h.hdm i.val).committed = false → ∃ (t : State) (h' : HostPort), exec (.hdmDecoderCommit p i c) s = .next t
        ∧ t.dp.hosts.ports[p.val]? = some h' ∧ (∀ j : Fin 16, j ≠ i → h'.hdm j.val = h.hdm j.val) ∧ { h' with decoders := h.decoders } = h
        ∧ { t.dp with hosts := s.dp.hosts, obs := s.dp.obs } = s.dp ∧ t.mgt = s.mgt
        ∧ (if (∃ w ∈ inWindows s.mgt p.val, w.hostBase = c.base ∧ w.lengthGib * 2 ^ 30 = c.size) ∧ (∀ x ∈ h.decoders, x.committed = true → x.base = c.base → x.index = i.val) ∧ c.ways = 1 ∧ c.dpaSkip = 0 ∧ h.bi = true
          then h'.hdm i.val = ⟨i.val, c.base, c.size, true, c.lockOnCommit, false⟩ ∧ t.dp.obs = s.dp.obs
          else (h'.hdm i.val).committed = false ∧ (h'.hdm i.val).notCommitted = true ∧ ∃ l, t.dp.obs.log.head? = some l ∧ l.block = 0xA ∧ l.event = 2 ∧ l.detail = [i.val])))
  ∧ (∀ (s : State) (p : Fin 2) (h : HostPort), s.dp.hosts.ports[p.val]? = some h → h.mode = 1 → h.decodes = true →
      (∃ b, Answers (.identify p) s (.mailbox p.val 0 b) ∧ b.take 16 = natBytes 2 0x1F3D ++ natBytes 2 0x0960 ++ natBytes 2 s.mgt.pkg.subsysVendor ++ natBytes 2 s.mgt.pkg.subsysId ++ natBytes 8 s.mgt.nvm.fuses.serial)
      ∧ Answers (.getEventRecords p) s (.mailbox p.val 0 (zeros 32)) ∧ Answers (.getTimestamp p) s (.mailbox p.val 0 (natBytes 8 (10 * s.mgt.clk.ltb)))
      ∧ (∃ b, Answers (.getSupportedLogs p) s (.mailbox p.val 0 b)) ∧ (∃ b, Answers (.getLog p true) s (.mailbox p.val 0 b)) ∧ Answers (.getLog p false) s (.mailbox p.val 3 [])
      ∧ (∃ b, Answers (.identifyMemoryDevice p) s (.mailbox p.val 0 b)
        ∧ (b.drop 16).take 24 = natBytes 8 (4 * ((inWindows s.mgt p.val).map (·.lengthGib)).sum) ++ natBytes 8 (4 * ((inWindows s.mgt p.val).map (·.lengthGib)).sum) ++ zeros 8)
      ∧ (∃ b, Answers (.getHealthInfo p) s (.mailbox p.val 0 b)) ∧ ∀ o, o ∉ [0x0001, 0x0100, 0x0300, 0x0400, 0x0401, 0x4000, 0x4200] → Answers (.mailboxUnsupported p o) s (.mailbox p.val 3 []))
  ∧ (∀ (s : State) (p : Fin 2) (h : HostPort) (o : Nat) (l : Bool), s.dp.hosts.ports[p.val]? = some h → h.mode ≠ 1 ∨ h.decodes = false →
      ∀ c ∈ [Instr.identify p, .getEventRecords p, .getTimestamp p, .getSupportedLogs p, .getLog p l, .identifyMemoryDevice p, .getHealthInfo p, .mailboxUnsupported p o], exec c s = .next s)
  ∧ (∀ (s : State) (p : Fin 2) (h : HostPort) (n : Nat), s.dp.hosts.ports[p.val]? = some h → h.mode ≠ 0 → h.resetting = false → h.perst = false →
      Answers (.doeDiscovery p n) s (.doe p.val (if n = 0 then [0x01, 0x00, 0x00, 0x01] else if n = 1 then [0x98, 0x1E, 0x02, 0x00] else [0xFF, 0xFF, 0x00, 0x00]))
      ∧ ∃ b, Answers (.cdatTableAccess p n) s (.doe p.val b))

/-- Behind no earlier work of its port and no full window, a host read within BAR4, or a CXL.mem read that a committed decoder passes on, is refused outside its windows, or where its place is not open to it, as Table 2 says, and logged; else it enters its home line by line, as READ_NOALLOC or as its cache state asks, or goes to the package that holds it. A write enters as whole or partial lines, poisoned where it was; a refused one is logged, answered for CXL.mem alone, and discarded. A read outside what the BARs decode, of the slot table too, is answered Unsupported Request, and a write discarded. A slot-table read is else answered with the words of the status window. A request behind a full forerunner window, a waiting one, or, for a write, an earlier write, waits in order; the end of the window counts anew and lets them go on. A lease not yet due does nothing; one that expires becomes EXPIRED, closes the port's slots with their tasks aborted, detail 0x04, drops its bit from a shared line and poisons one it owned; the walk's end is noted. (R58, R100, R101, R118, R123, R143, R317, R318, R319, R324, R327, R391) -/
def Obligations.HostsReachThePoolThroughTheirWindows : Prop :=
  (∀ (s : State) (p : Fin 2) (o : BitVec 64) (n tag : Nat), (s.dp.hostPort p.val).decodes = false ∨ barSize s.mgt p.val ≤ o.toNat → ∃ d : Dp, exec (.hostMemoryRead p o n tag) s = .next { s with dp := d }
      ∧ (if (s.dp.hostPort p.val).mode = 0 ∨ (s.dp.hostPort p.val).perst = true then d = s.dp else d = hostAnswer s.mgt p.val tag 1 [] 0 0 (aerUncorrectable p.val 20 s.dp))
      ∧ ((s.dp.hostPort p.val).decodes = false → (s.dp.hostPort p.val).mode ≠ 0 → (s.dp.hostPort p.val).perst = false →
        exec (.slotTableRead p n) s = .next { s with dp := hostAnswer s.mgt p.val 0 1 [] 0 0 (aerUncorrectable p.val 20 s.dp) })
      ∧ ∀ b ep, exec (.hostMemoryWrite p o b ep) s = .next s)
  ∧ (∀ (s : State) (p : Fin 2) (o : BitVec 64) (n tag : Nat), (s.dp.hostPort p.val).decodes = true → o.toNat < barSize s.mgt p.val →
      let c : Instr := .hostMemoryRead p o n tag
      let h := (barSpan s.mgt p.val).1 + o.toNat
      (mustWait s.mgt s.dp p.val c = true → exec c s = .next { s with dp := settle s.mgt (modLease p.val (fun l => { l with held := l.held ++ [c] }) s.dp) })
      ∧ (mustWait s.mgt s.dp p.val c = false → HostReads s p h n tag false 0x05 (exec c s)))
  ∧ (∀ (s : State) (p : Fin 2) (addr : BitVec 64) (ask : CacheAsk) (tag : Nat), (s.dp.hostPort p.val).mode = 1 → mustWait s.mgt s.dp p.val (.cxlMemRead p addr ask tag) = false →
      let h := addr.toNat - addr.toNat % 64
      ((∀ x ∈ (s.dp.hostPort p.val).decoders, x.committed = true → h < x.base ∨ x.base + x.size ≤ h) → exec (.cxlMemRead p addr ask tag) s
        = .next { s with dp := settle s.mgt (hostAnswer s.mgt p.val tag 2 (zeros 64) 0 0 (logRefused s.mgt none 0 255 0 s.dp)) })
      ∧ (∀ x ∈ (s.dp.hostPort p.val).decoders, x.committed = true → x.base ≤ h → h < x.base + x.size → (s.dp.hostPort p.val).d3 = false → (s.dp.hostPort p.val).perst = false →
        HostReads s p h 64 tag true (match ask with | .shared => if s.mgt.pkg.ownerOrdered = true then 3 else 1 | .any => if s.mgt.pkg.ownerOrdered = true then 4 else 2 | .invalid => 5) (exec (.cxlMemRead p addr ask tag) s)))
  ∧ (∀ (s : State) (p : Fin 2) (o : BitVec 64) (b : Bytes) (ep : Bool), (s.dp.hostPort p.val).decodes = true → o.toNat < barSize s.mgt p.val → mustWait s.mgt s.dp p.val (.hostMemoryWrite p o b ep) = false →
      HostWrites s p ((barSpan s.mgt p.val).1 + o.toNat) (fun a => pieces a b) ep false (if ep = true then aerUncorrectable p.val 12 s.dp else s.dp) (exec (.hostMemoryWrite p o b ep) s))
  ∧ (∀ (s : State) (p : Fin 2) (addr : BitVec 64) (b : Bytes) (mask : BitVec 64) (poison : Bool), (s.dp.hostPort p.val).mode = 1 → mustWait s.mgt s.dp p.val (.cxlMemWrite p addr b mask poison) = false
      → (∀ t ∈ s.dp.coh.trackers, ∀ n ∈ t.snoops, n.holder ≠ .host p) → (s.dp.hostPort p.val).d3 = false → (s.dp.hostPort p.val).perst = false →
      let h := addr.toNat - addr.toNat % 64
      ((∀ x ∈ (s.dp.hostPort p.val).decoders, x.committed = true → h < x.base ∨ x.base + x.size ≤ h) → exec (.cxlMemWrite p addr b mask poison) s
        = .next { s with dp := settle s.mgt (hostAnswer s.mgt p.val 0 0 [] 0 0 (logRefused s.mgt none 0 255 1 s.dp)) })
      ∧ (∀ x ∈ (s.dp.hostPort p.val).decoders, x.committed = true → x.base ≤ h → h < x.base + x.size →
        HostWrites s p h (fun a => [(a, fit 64 b, mask.toNat)]) poison true s.dp (exec (.cxlMemWrite p addr b mask poison) s)))
  ∧ (∀ (s : State) (p : Fin 2) (o : Nat), (s.dp.hostPort p.val).decodes = true → 0x800 ≤ o → o < 0x1000 → overLimit s.mgt s.dp p.val = false → (s.dp.lease p.val).held = [] →
      exec (.slotTableRead p o) s = .next { s with dp := hostAnswer s.mgt p.val 0 0 (natBytes 8 (statusWord s.mgt s.dp (some p.val) o)) 0 0 s.dp })
  ∧ (∀ s : State, (s.mgt.forerunner = false ∨ s.mgt.clk.ltb < s.dp.hosts.windowAt + 1000 → exec .forerunnerWindowEnd s = .next s)
      ∧ (s.mgt.forerunner = true → s.dp.hosts.windowAt + 1000 ≤ s.mgt.clk.ltb → s.dp.hosts.leases = [HostLease.reset, HostLease.reset] →
        exec .forerunnerWindowEnd s = .next { s with dp := settle s.mgt { s.dp with hosts := { s.dp.hosts with windowAt := s.mgt.clk.ltb, ports := s.dp.hosts.ports.map fun h => { h with bytesLast := h.bytesNow, bytesNow := 0 } } } }))
  ∧ (∀ (s : State) (p : Fin 2) (l : HostLease), s.dp.hosts.leases[p.val]? = some l → (l.state ≠ 1 ∨ s.mgt.clk.ltb < l.renewed + s.mgt.timers.leaseLossMs * 100000 → exec (.hostLeaseExpiry p) s = .next s)
      ∧ (l.state = 1 → l.renewed + s.mgt.timers.leaseLossMs * 100000 ≤ s.mgt.clk.ltb → s.dp.coh.trackers = [] → s.dp.hosts.reqs = [] →
        let out := { s.dp with hosts := { s.dp.hosts with leases := s.dp.hosts.leases.set p.val { l with state := 2 } }, coh := { s.dp.coh with walk := modAt s.dp.coh.walk p.val fun _ => true } }
        let shut := fun (d : Dp) => (((s.mgt.image.map (·.slots)).getD []).filter (·.owner = 0x4000 + p.val)).foldl (fun d e => shutSlot s.mgt e.number 0x04 d) d
        (s.dp.coh.dir.filter (fun e => e.hosts.getLsb p) = [] → exec (.hostLeaseExpiry p) s = .next { s with dp := settle s.mgt (shut out) })
        ∧ ∀ e, s.dp.coh.dir.filter (fun e => e.hosts.getLsb p) = [e] → s.dp.entry e.line = some e →
          (e.owned = false → exec (.hostLeaseExpiry p) s = .next { s with dp := settle s.mgt (shut (removeHolder e.line (.host p) out)) })
          ∧ (e.owned = true → ∀ r reach a, placeOffset s.mgt (removeHolder e.line (.host p) out) (e.line * 64) = .store r reach a →
            exec (.hostLeaseExpiry p) s = .next { s with dp := settle s.mgt (shut (applyChange s.mgt r a (readLine s.mgt (logEvent s.mgt 3 8 1 none 0 0 (s.mgt.homeId * 2 ^ 50 + e.line * 64) [1, 4] (removeHolder e.line (.host p) out)) r a).1
              true (((s.mgt.region r).map (·.partition)).getD 0) 0 (logEvent s.mgt 3 8 1 none 0 0 (s.mgt.homeId * 2 ^ 50 + e.line * 64) [1, 4] (removeHolder e.line (.host p) out))).2) })))
  ∧ (∀ (s : State) (p : Fin 2), exec (.directoryWalkEnd p) s = .next { s with dp := { s.dp with coh := { s.dp.coh with walk := modAt s.dp.coh.walk p.val fun _ => false } } })

/-- An internal release out of reset samples MODE48 and BOOT_SEL, whatever was held. Every other command, and an internal release that finds the package out of reset already, leaves what was sampled as it was; an INTERNAL_RELEASE that finds it so changes nothing at all, and reports nothing. (R487) -/
def Obligations.StrapsAreHeldUntilTheNextRelease : Prop :=
  (∀ (s : State) (mode48 : Bool) (bootSel : Fin 4) (b : Option Board), s.mgt.clk.phase = .inReset ∨ s.mgt.clk.phase = .off → s.mgt.pwr.thermTrip = false →
      ∃ t, exec (.internalRelease mode48 bootSel b) s = .next t ∧ t.mgt.clk.mode48 = mode48 ∧ t.mgt.clk.bootSel = bootSel.val)
  ∧ (∀ (s : State) (mode48 : Bool) (bootSel : Fin 4) (b : Option Board), s.mgt.clk.phase ≠ .inReset → s.mgt.clk.phase ≠ .off → exec (.internalRelease mode48 bootSel b) s = .next s)
  ∧ (∀ (s t : State) (c : Instr), (∀ mode48 bootSel b, c ≠ .internalRelease mode48 bootSel b) → exec c s = .next t → t.mgt.clk.mode48 = s.mgt.clk.mode48 ∧ t.mgt.clk.bootSel = s.mgt.clk.bootSel)

/-- Right after reset the management side is well started: the size table is not final and no image is in force, the level is the highest so far, ENG stands on a whole step, and no non-volatile write has begun behind another. (R20, R427, R483) -/
def Obligations.ResetIsWellStarted : Prop :=
  WellStarted State.reset.mgt

/-- From every state whose management side is well started, whatever commands wait, a step leads to another: the size table is final exactly while the package runs, an image is in force exactly from its acceptance, training and the raising of ENG have ended by then, the debug level is at most the highest since RESET_N, no partition key exists at Open, ENG and the clock it waits for are whole steps of 25 MHz, and no non-volatile write but the first has begun. While the package runs before and after the step, the 128 bytes of the size table, the image in force and forerunner mode are the same after it as before; forerunner mode is in force there exactly where MODE48 was sampled high and the image in force sets it. (R20, R22, R427, R429, R483, R495, R516) -/
def Obligations.StepsKeepTheStartAndItsSizes : Prop :=
  (∀ s t : State, WellStarted s.mgt → step s = .next t → WellStarted t.mgt)
  ∧ (∀ s t : State, WellStarted s.mgt → s.mgt.clk.phase = .running → step s = .next t → t.mgt.clk.phase = .running →
      sizeBytes t.mgt = sizeBytes s.mgt ∧ t.mgt.image = s.mgt.image ∧ t.mgt.forerunner = s.mgt.forerunner
      ∧ (t.mgt.forerunner = true ↔ s.mgt.clk.mode48 = true ∧ ∃ i, s.mgt.image = some i ∧ i.pkg.forerunner = true))

end
end

