-- ==== Sys2Proof/Laws/Bytes.lean ====
section
/-! SUPPORT. Little-endian numbers and their bytes, and that a flit the link builds passes its check. -/

namespace Sys2Proof.Laws

open Sys2Proof.Machine

@[simp] theorem natBytes_length (n x : Nat) : (natBytes n x).length = n := by
  induction n generalizing x with
  | zero => rfl
  | succ n ih => simp [natBytes, ih]

/-- The bytes of a number, read back, are the number as far as they reach. -/
theorem leNat_natBytes (n x : Nat) : leNat (natBytes n x) = x % 256 ^ n := by
  induction n generalizing x with
  | zero => simp [natBytes, leNat, Nat.mod_one]
  | succ n ih =>
    simp only [natBytes, leNat, ih, BitVec.toNat_ofNat]
    rw [show 256 ^ (n + 1) = 256 * 256 ^ n by rw [Nat.pow_succ, Nat.mul_comm], Nat.mod_mul]

@[simp] theorem zeros_length (n : Nat) : (zeros n).length = n := by simp [zeros]

@[simp] theorem fit_length (n : Nat) (b : Bytes) : (fit n b).length = n := by
  simp [fit]

/-- A byte string of the length asked for is left as it is. -/
theorem fit_eq (n : Nat) (b : Bytes) (h : b.length = n) : fit n b = b := by
  subst h; simp [fit]

/-! ### The CRC of a flit -/

/-- The parameters of CRC-64 (R298). -/
def crc64 : CrcAlg := ⟨64, 0x42F0E1EBA9EA3693, 0, false, 0⟩

theorem crcShift64_lt (r : Nat) : crcShift crc64 r < 2 ^ 64 := by
  have hm : 2 * r % 2 ^ 64 < 2 ^ 64 := Nat.mod_lt _ (by decide)
  unfold crcShift
  rw [if_neg (show ¬(crc64.reflected = true) by decide)]
  split
  · exact Nat.xor_lt_two_pow hm (by decide)
  · exact hm

theorem crcByte64_lt (r : Nat) (b : Byte) : crcByte crc64 r b < 2 ^ 64 := by
  unfold crcByte
  rw [if_neg (show ¬(crc64.reflected = true) by decide)]
  exact crcShift64_lt _

theorem crcFold64_lt (bs : Bytes) (r : Nat) (h : r < 2 ^ 64) : crcFold crc64 r bs < 2 ^ 64 := by
  induction bs generalizing r with
  | nil => exact h
  | cons b bs ih => exact ih _ (crcByte64_lt r b)

/-- A CRC-64 fits 64 bits. -/
theorem crc64_lt (b : Bytes) : crc 0x03 b < 2 ^ 64 := by
  have : crc 0x03 b = crcFold crc64 0 b ^^^ 0 := rfl
  rw [this, Nat.xor_zero]
  exact crcFold64_lt b 0 (by decide)

@[simp] theorem flitOf_length (h : Nat) (p : Bytes) : (flitOf h p).length = 256 := by
  simp [flitOf]

/-- The word that follows 248 bytes. -/
theorem wordAt_tail (b c : Bytes) (hb : b.length = 248) (hc : c.length = 8) : wordAt (b ++ c) 31 = leNat c := by
  unfold wordAt slice
  rw [show 8 * 31 = b.length from hb.symm, List.drop_left, List.take_of_length_le (by omega)]

/-- A flit that the link builds passes its CRC. -/
theorem flitOf_sound (h : Nat) (p : Bytes) : flitSound (flitOf h p) = true := by
  have hl : (natBytes 8 h ++ fit 240 p).length = 248 := by simp
  have ht : (flitOf h p).take 248 = natBytes 8 h ++ fit 240 p := by
    unfold flitOf
    rw [List.take_append_of_le_length (Nat.le_of_eq hl.symm), List.take_of_length_le (Nat.le_of_eq hl)]
  have hw : wordAt (flitOf h p) 31 = crc 0x03 (natBytes 8 h ++ fit 240 p) := by
    unfold flitOf
    rw [wordAt_tail _ _ hl (natBytes_length 8 _), leNat_natBytes]
    exact Nat.mod_eq_of_lt (crc64_lt _)
  unfold flitSound
  rw [ht, hw, flitOf_length]
  simp

/-- The header word of a flit that the link builds. -/
theorem flitOf_header (h : Nat) (p : Bytes) (hh : h < 2 ^ 64) : wordAt (flitOf h p) 0 = h := by
  simp only [wordAt, slice, flitOf, Nat.mul_zero, List.drop_zero]
  rw [List.append_assoc, List.take_append_of_le_length (by simp), List.take_of_length_le (by simp), leNat_natBytes]
  exact Nat.mod_eq_of_lt (by simpa using hh)

end Sys2Proof.Laws
end

