-- ==== Sys2Proof/Laws/Cells.lean ====
section
/-! SUPPORT. Lists of cells: what a write changes, what a read after a write gives, and that every operation keeps the canonical form. -/

namespace Sys2Proof.Laws

open Sys2Proof.Machine

/-- A write leaves every other address alone. -/
theorem cellGet_cellSet_other (d : Byte) (m : List Host.Cell) (a b : Nat) (v : Byte) (h : b ≠ a) :
    cellGet d (cellSet d m a v) b = cellGet d m b := by
  induction m with
  | nil =>
    simp only [cellSet]
    split <;> simp [cellGet]
    intro h2; exact absurd h2.symm h
  | cons x r ih =>
    obtain ⟨k, w⟩ := x
    simp only [cellSet]
    split
    · split
      · rfl
      · simp [cellGet, Ne.symm h]
    · split
      · subst_vars
        split <;> simp [cellGet, Ne.symm h]
      · simp only [cellGet, ih]

/-- The key of the first cell, and so of every cell, lies above a bound. -/
theorem cellWfFrom_weaken (d : Byte) (m : List Host.Cell) (lo lo' : Nat) (h : lo' ≤ lo) (hw : cellWfFrom d (some lo) m = true) :
    cellWfFrom d (some lo') m = true := by
  cases m with
  | nil => rfl
  | cons x r =>
    obtain ⟨k, w⟩ := x
    simp only [cellWfFrom, Bool.and_eq_true, decide_eq_true_eq] at *
    exact ⟨⟨by omega, hw.1.2⟩, hw.2⟩

/-- A bound on the keys may be forgotten. -/
theorem cellWfFrom_none (d : Byte) (m : List Host.Cell) (lo : Nat) (hw : cellWfFrom d (some lo) m = true) : cellWfFrom d none m = true := by
  cases m with
  | nil => rfl
  | cons x r =>
    obtain ⟨k, w⟩ := x
    simp only [cellWfFrom, Bool.and_eq_true, decide_eq_true_eq] at *
    exact ⟨⟨trivial, hw.1.2⟩, hw.2⟩

/-- Below the first key a canonical list reads as nothing written. -/
theorem cellGet_below (d : Byte) (m : List Host.Cell) (a lo : Nat) (hw : cellWfFrom d (some lo) m = true) (h : a ≤ lo) : cellGet d m a = d := by
  induction m generalizing lo with
  | nil => rfl
  | cons x r ih =>
    obtain ⟨k, w⟩ := x
    simp only [cellWfFrom, Bool.and_eq_true, decide_eq_true_eq] at hw
    simp only [cellGet]
    rw [if_neg (by omega), ih k hw.2 (by omega)]

/-- A write below which a bound lies keeps the canonical form above that bound. -/
theorem cellSet_wfFrom (d : Byte) (m : List Host.Cell) (a lo : Nat) (v : Byte) (hw : cellWfFrom d (some lo) m = true) (h : lo < a) :
    cellWfFrom d (some lo) (cellSet d m a v) = true := by
  induction m generalizing lo with
  | nil =>
    simp only [cellSet]
    split <;> simp_all [cellWfFrom]
  | cons x r ih =>
    obtain ⟨k, w⟩ := x
    simp only [cellWfFrom, Bool.and_eq_true, decide_eq_true_eq] at hw
    simp only [cellSet]
    split
    · split
      · simp only [cellWfFrom, Bool.and_eq_true, decide_eq_true_eq]; exact ⟨⟨hw.1.1, hw.1.2⟩, hw.2⟩
      · rename_i h1 h2
        simp only [cellWfFrom, Bool.and_eq_true, decide_eq_true_eq, bne_iff_ne]
        exact ⟨⟨h, h2⟩, ⟨h1, by simpa using hw.1.2⟩, hw.2⟩
    · split
      · rename_i h1 h2
        subst h2
        split
        · exact cellWfFrom_weaken d r a lo (by omega) hw.2
        · rename_i h3
          simp only [cellWfFrom, Bool.and_eq_true, decide_eq_true_eq, bne_iff_ne]
          exact ⟨⟨h, h3⟩, hw.2⟩
      · simp only [cellWfFrom, Bool.and_eq_true, decide_eq_true_eq]
        exact ⟨hw.1, ih k hw.2 (by omega)⟩

/-- A write keeps the canonical form. -/
theorem cellSet_wf (d : Byte) (m : List Host.Cell) (a : Nat) (v : Byte) (hw : cellWf d m = true) : cellWf d (cellSet d m a v) = true := by
  cases m with
  | nil =>
    simp only [cellSet, cellWf]
    split <;> simp_all [cellWfFrom]
  | cons x r =>
    obtain ⟨k, w⟩ := x
    simp only [cellWf, cellWfFrom, Bool.and_eq_true, true_and] at hw
    simp only [cellSet, cellWf]
    split
    · split
      · simp only [cellWfFrom, Bool.and_eq_true]; exact ⟨⟨trivial, hw.1⟩, hw.2⟩
      · rename_i h1 h2
        simp only [cellWfFrom, Bool.and_eq_true, decide_eq_true_eq, bne_iff_ne]
        exact ⟨⟨trivial, h2⟩, ⟨h1, by simpa using hw.1⟩, hw.2⟩
    · split
      · rename_i h1 h2
        subst h2
        split
        · exact cellWfFrom_none d r a hw.2
        · rename_i h3
          simp only [cellWfFrom, Bool.and_eq_true, bne_iff_ne]
          exact ⟨⟨trivial, h3⟩, hw.2⟩
      · simp only [cellWfFrom, Bool.and_eq_true]
        exact ⟨⟨trivial, hw.1⟩, cellSet_wfFrom d r a k v hw.2 (by omega)⟩

/-- A write of a run of bytes keeps the canonical form. -/
theorem cellWrite_wf (d : Byte) (bs : Bytes) (m : List Host.Cell) (a : Nat) (hw : cellWf d m = true) : cellWf d (cellWrite d m a bs) = true := by
  induction bs generalizing m a with
  | nil => exact hw
  | cons b bs ih => exact ih _ _ (cellSet_wf d m a b hw)

/-- A read after a write to the same address of a canonical list above a bound gives the value written. -/
theorem cellGet_cellSet_sameFrom (d : Byte) (m : List Host.Cell) (a lo : Nat) (v : Byte) (hw : cellWfFrom d (some lo) m = true) :
    cellGet d (cellSet d m a v) a = v := by
  induction m generalizing lo with
  | nil =>
    simp only [cellSet]
    split <;> simp_all [cellGet]
  | cons x r ih =>
    obtain ⟨k, w⟩ := x
    simp only [cellWfFrom, Bool.and_eq_true, decide_eq_true_eq] at hw
    simp only [cellSet]
    split
    · rename_i h1
      split
      · rename_i h2
        simp only [cellGet]
        rw [if_neg (by omega), cellGet_below d r a k hw.2 (by omega), h2]
      · simp [cellGet]
    · split
      · rename_i h1 h2
        subst h2
        split
        · rename_i h3
          rw [cellGet_below d r a a hw.2 (Nat.le_refl a), h3]
        · simp [cellGet]
      · rename_i h1 h2
        simp only [cellGet]
        rw [if_neg (by omega)]
        exact ih k hw.2

/-- A read after a write to the same address of a canonical list gives the value written. -/
theorem cellGet_cellSet_same (d : Byte) (m : List Host.Cell) (a : Nat) (v : Byte) (hw : cellWf d m = true) : cellGet d (cellSet d m a v) a = v := by
  cases m with
  | nil =>
    simp only [cellSet]
    split <;> simp_all [cellGet]
  | cons x r =>
    obtain ⟨k, w⟩ := x
    simp only [cellWf, cellWfFrom, Bool.and_eq_true, true_and] at hw
    simp only [cellSet]
    split
    · rename_i h1
      split
      · rename_i h2
        simp only [cellGet]
        rw [if_neg (by omega), cellGet_below d r a k hw.2 (by omega), h2]
      · simp [cellGet]
    · split
      · rename_i h1 h2
        subst h2
        split
        · rename_i h3
          rw [cellGet_below d r a a hw.2 (Nat.le_refl a), h3]
        · simp [cellGet]
      · rename_i h1 h2
        simp only [cellGet]
        rw [if_neg (by omega)]
        exact cellGet_cellSet_sameFrom d r a k v hw.2

/-- What a list reads as after a run of bytes is written: those bytes in their place, and every other address as before. -/
theorem cellGet_cellWrite (d : Byte) (bs : Bytes) (m : List Host.Cell) (a x : Nat) (hw : cellWf d m = true) :
    cellGet d (cellWrite d m a bs) x = if a ≤ x ∧ x < a + bs.length then bs.getD (x - a) 0 else cellGet d m x := by
  induction bs generalizing m a with
  | nil =>
    simp only [cellWrite, List.length_nil]
    rw [if_neg (by omega)]
  | cons b bs ih =>
    simp only [cellWrite, List.length_cons]
    rw [ih _ _ (cellSet_wf d m a b hw)]
    by_cases h : x = a
    · subst h
      rw [if_neg (by omega), if_pos (by omega), cellGet_cellSet_same d m x b hw]
      simp
    · by_cases h2 : a + 1 ≤ x ∧ x < a + 1 + bs.length
      · rw [if_pos h2, if_pos (by omega), show x - a = (x - (a + 1)) + 1 by omega]
        simp
      · rw [if_neg h2, if_neg (by omega), cellGet_cellSet_other d m a x b h]

/-- A read of as many bytes as were written gives them back. -/
theorem cellRead_cellWrite (d : Byte) (bs : Bytes) (m : List Host.Cell) (a : Nat) (hw : cellWf d m = true) :
    cellRead d (cellWrite d m a bs) a bs.length = bs := by
  have key : ∀ (n k : Nat), k + n = bs.length → cellRead d (cellWrite d m a bs) (a + k) n = bs.drop k := by
    intro n
    induction n with
    | zero => intro k hk; simp only [cellRead]; rw [List.drop_eq_nil_of_le (by omega)]
    | succ n ih =>
      intro k hk
      simp only [cellRead]
      rw [show a + k + 1 = a + (k + 1) by omega, ih (k + 1) (by omega), cellGet_cellWrite d bs m a (a + k) hw, if_pos (by omega)]
      rw [show a + k - a = k by omega, List.drop_eq_getElem_cons (show k < bs.length by omega)]
      simp [List.getD, List.getElem?_eq_getElem (show k < bs.length by omega)]
  simpa using key bs.length 0 (by omega)

/-- Taking cells out of a canonical list above a bound keeps its form. -/
theorem cellWfFrom_filter (d : Byte) (p : Host.Cell → Bool) (m : List Host.Cell) (lo : Nat) (hw : cellWfFrom d (some lo) m = true) :
    cellWfFrom d (some lo) (m.filter p) = true := by
  induction m generalizing lo with
  | nil => rfl
  | cons x r ih =>
    obtain ⟨k, w⟩ := x
    simp only [cellWfFrom, Bool.and_eq_true, decide_eq_true_eq] at hw
    rw [List.filter_cons]
    split
    · simp only [cellWfFrom, Bool.and_eq_true, decide_eq_true_eq]
      exact ⟨hw.1, ih k hw.2⟩
    · exact cellWfFrom_weaken d _ k lo (by omega) (ih k hw.2)

/-- Taking cells out of a canonical list keeps its form. -/
theorem cellWf_filter (d : Byte) (p : Host.Cell → Bool) (m : List Host.Cell) (hw : cellWf d m = true) : cellWf d (m.filter p) = true := by
  cases m with
  | nil => rfl
  | cons x r =>
    obtain ⟨k, w⟩ := x
    simp only [cellWf, cellWfFrom, Bool.and_eq_true, true_and] at hw
    simp only [cellWf]
    rw [List.filter_cons]
    split
    · simp only [cellWfFrom, Bool.and_eq_true]
      exact ⟨⟨trivial, hw.1⟩, cellWfFrom_filter d p r k hw.2⟩
    · exact cellWfFrom_none d _ k (cellWfFrom_filter d p r k hw.2)

end Sys2Proof.Laws
end

