-- ==== Sys2Proof/Laws/State.lean ====
section
/-! SUPPORT. What the shared operations change of the state, one lemma for each part they leave alone, and what lifting answers. -/

namespace Sys2Proof.Laws

open Sys2Proof.Machine

/-! ### Lifting and the step -/

@[simp] theorem liftDp_next (f : Mgt → Dp → Dp) (s : State) : liftDp f s = .next { s with dp := f s.mgt s.dp } := rfl

@[simp] theorem liftAll_next (f : Mgt → Dp → Mgt × Dp) (s : State) :
    liftAll f s = .next { s with mgt := (f s.mgt s.dp).1, dp := (f s.mgt s.dp).2 } := rfl

/-- A step runs the command at the front of the queue on the state with the rest. -/
theorem step_cons (s : State) (c : Instr) (rest : List Instr) (h : s.pending = c :: rest) : step s = exec c { s with pending := rest } := by
  unfold step; rw [h]

/-- A step on an empty queue idles. -/
theorem step_nil (s : State) (h : s.pending = []) : step s = .next s := by
  unfold step; rw [h]

/-! ### Parts of the data plane that an operation leaves alone -/

@[simp] theorem emit_store (o : Out) (d : Dp) : (emit o d).store = d.store := rfl

@[simp] theorem emit_snaps (o : Out) (d : Dp) : (emit o d).snaps = d.snaps := rfl

@[simp] theorem emit_coh (o : Out) (d : Dp) : (emit o d).coh = d.coh := rfl

@[simp] theorem emit_tasks (o : Out) (d : Dp) : (emit o d).tasks = d.tasks := rfl

@[simp] theorem emit_hosts (o : Out) (d : Dp) : (emit o d).hosts = d.hosts := rfl

@[simp] theorem emit_fab (o : Out) (d : Dp) : (emit o d).fab = d.fab := rfl

@[simp] theorem emit_obs (o : Out) (d : Dp) : (emit o d).obs = d.obs := rfl

@[simp] theorem modPort_store (p : Nat) (f : HostPort → HostPort) (d : Dp) : (modPort p f d).store = d.store := rfl

@[simp] theorem modPort_snaps (p : Nat) (f : HostPort → HostPort) (d : Dp) : (modPort p f d).snaps = d.snaps := rfl

@[simp] theorem modPort_coh (p : Nat) (f : HostPort → HostPort) (d : Dp) : (modPort p f d).coh = d.coh := rfl

@[simp] theorem modPort_tasks (p : Nat) (f : HostPort → HostPort) (d : Dp) : (modPort p f d).tasks = d.tasks := rfl

@[simp] theorem modPort_fab (p : Nat) (f : HostPort → HostPort) (d : Dp) : (modPort p f d).fab = d.fab := rfl

@[simp] theorem modPort_obs (p : Nat) (f : HostPort → HostPort) (d : Dp) : (modPort p f d).obs = d.obs := rfl

@[simp] theorem modPort_out (p : Nat) (f : HostPort → HostPort) (d : Dp) : (modPort p f d).out = d.out := rfl

@[simp] theorem modLease_store (p : Nat) (f : HostLease → HostLease) (d : Dp) : (modLease p f d).store = d.store := rfl

@[simp] theorem modLease_snaps (p : Nat) (f : HostLease → HostLease) (d : Dp) : (modLease p f d).snaps = d.snaps := rfl

@[simp] theorem modLease_coh (p : Nat) (f : HostLease → HostLease) (d : Dp) : (modLease p f d).coh = d.coh := rfl

@[simp] theorem modLease_tasks (p : Nat) (f : HostLease → HostLease) (d : Dp) : (modLease p f d).tasks = d.tasks := rfl

@[simp] theorem modLease_fab (p : Nat) (f : HostLease → HostLease) (d : Dp) : (modLease p f d).fab = d.fab := rfl

@[simp] theorem modLease_obs (p : Nat) (f : HostLease → HostLease) (d : Dp) : (modLease p f d).obs = d.obs := rfl

@[simp] theorem modLease_out (p : Nat) (f : HostLease → HostLease) (d : Dp) : (modLease p f d).out = d.out := rfl

@[simp] theorem modDar_store (p : Nat) (f : DarPort → DarPort) (d : Dp) : (modDar p f d).store = d.store := rfl

@[simp] theorem modDar_snaps (p : Nat) (f : DarPort → DarPort) (d : Dp) : (modDar p f d).snaps = d.snaps := rfl

@[simp] theorem modDar_coh (p : Nat) (f : DarPort → DarPort) (d : Dp) : (modDar p f d).coh = d.coh := rfl

@[simp] theorem modDar_tasks (p : Nat) (f : DarPort → DarPort) (d : Dp) : (modDar p f d).tasks = d.tasks := rfl

@[simp] theorem modDar_hosts (p : Nat) (f : DarPort → DarPort) (d : Dp) : (modDar p f d).hosts = d.hosts := rfl

@[simp] theorem modDar_obs (p : Nat) (f : DarPort → DarPort) (d : Dp) : (modDar p f d).obs = d.obs := rfl

@[simp] theorem modDar_out (p : Nat) (f : DarPort → DarPort) (d : Dp) : (modDar p f d).out = d.out := rfl

@[simp] theorem modTask_store (i : Nat) (f : Task → Task) (d : Dp) : (modTask i f d).store = d.store := rfl

@[simp] theorem modTask_snaps (i : Nat) (f : Task → Task) (d : Dp) : (modTask i f d).snaps = d.snaps := rfl

@[simp] theorem modTask_coh (i : Nat) (f : Task → Task) (d : Dp) : (modTask i f d).coh = d.coh := rfl

@[simp] theorem modTask_hosts (i : Nat) (f : Task → Task) (d : Dp) : (modTask i f d).hosts = d.hosts := rfl

@[simp] theorem modTask_fab (i : Nat) (f : Task → Task) (d : Dp) : (modTask i f d).fab = d.fab := rfl

@[simp] theorem modTask_obs (i : Nat) (f : Task → Task) (d : Dp) : (modTask i f d).obs = d.obs := rfl

@[simp] theorem modTask_out (i : Nat) (f : Task → Task) (d : Dp) : (modTask i f d).out = d.out := rfl

@[simp] theorem modSlot_store (n : Nat) (f : Slot → Slot) (d : Dp) : (modSlot n f d).store = d.store := rfl

@[simp] theorem modSlot_snaps (n : Nat) (f : Slot → Slot) (d : Dp) : (modSlot n f d).snaps = d.snaps := rfl

@[simp] theorem modSlot_coh (n : Nat) (f : Slot → Slot) (d : Dp) : (modSlot n f d).coh = d.coh := rfl

@[simp] theorem modSlot_hosts (n : Nat) (f : Slot → Slot) (d : Dp) : (modSlot n f d).hosts = d.hosts := rfl

@[simp] theorem modSlot_fab (n : Nat) (f : Slot → Slot) (d : Dp) : (modSlot n f d).fab = d.fab := rfl

@[simp] theorem modSlot_obs (n : Nat) (f : Slot → Slot) (d : Dp) : (modSlot n f d).obs = d.obs := rfl

@[simp] theorem modSlot_out (n : Nat) (f : Slot → Slot) (d : Dp) : (modSlot n f d).out = d.out := rfl

@[simp] theorem setFrame_snaps (r : FrameRec) (d : Dp) : (setFrame r d).snaps = d.snaps := rfl

@[simp] theorem setFrame_coh (r : FrameRec) (d : Dp) : (setFrame r d).coh = d.coh := rfl

@[simp] theorem setFrame_tasks (r : FrameRec) (d : Dp) : (setFrame r d).tasks = d.tasks := rfl

@[simp] theorem setFrame_hosts (r : FrameRec) (d : Dp) : (setFrame r d).hosts = d.hosts := rfl

@[simp] theorem setFrame_fab (r : FrameRec) (d : Dp) : (setFrame r d).fab = d.fab := rfl

@[simp] theorem setFrame_obs (r : FrameRec) (d : Dp) : (setFrame r d).obs = d.obs := rfl

@[simp] theorem setFrame_out (r : FrameRec) (d : Dp) : (setFrame r d).out = d.out := rfl

@[simp] theorem poisonLine_snaps (a : Nat) (d : Dp) : (poisonLine a d).snaps = d.snaps := rfl

@[simp] theorem poisonLine_coh (a : Nat) (d : Dp) : (poisonLine a d).coh = d.coh := rfl

@[simp] theorem poisonLine_tasks (a : Nat) (d : Dp) : (poisonLine a d).tasks = d.tasks := rfl

@[simp] theorem poisonLine_hosts (a : Nat) (d : Dp) : (poisonLine a d).hosts = d.hosts := rfl

@[simp] theorem poisonLine_fab (a : Nat) (d : Dp) : (poisonLine a d).fab = d.fab := rfl

@[simp] theorem poisonLine_obs (a : Nat) (d : Dp) : (poisonLine a d).obs = d.obs := rfl

@[simp] theorem poisonLine_out (a : Nat) (d : Dp) : (poisonLine a d).out = d.out := rfl

@[simp] theorem setRaw_snaps (a : Nat) (b : Bytes) (d : Dp) : (setRaw a b d).snaps = d.snaps := rfl

@[simp] theorem setRaw_coh (a : Nat) (b : Bytes) (d : Dp) : (setRaw a b d).coh = d.coh := rfl

@[simp] theorem setRaw_tasks (a : Nat) (b : Bytes) (d : Dp) : (setRaw a b d).tasks = d.tasks := rfl

@[simp] theorem setRaw_hosts (a : Nat) (b : Bytes) (d : Dp) : (setRaw a b d).hosts = d.hosts := rfl

@[simp] theorem setRaw_fab (a : Nat) (b : Bytes) (d : Dp) : (setRaw a b d).fab = d.fab := rfl

@[simp] theorem setRaw_obs (a : Nat) (b : Bytes) (d : Dp) : (setRaw a b d).obs = d.obs := rfl

@[simp] theorem setRaw_out (a : Nat) (b : Bytes) (d : Dp) : (setRaw a b d).out = d.out := rfl

@[simp] theorem markDirty_snaps (a : Nat) (d : Dp) : (markDirty a d).snaps = d.snaps := rfl

@[simp] theorem markDirty_coh (a : Nat) (d : Dp) : (markDirty a d).coh = d.coh := rfl

@[simp] theorem markDirty_tasks (a : Nat) (d : Dp) : (markDirty a d).tasks = d.tasks := rfl

@[simp] theorem markDirty_hosts (a : Nat) (d : Dp) : (markDirty a d).hosts = d.hosts := rfl

@[simp] theorem markDirty_fab (a : Nat) (d : Dp) : (markDirty a d).fab = d.fab := rfl

@[simp] theorem markDirty_obs (a : Nat) (d : Dp) : (markDirty a d).obs = d.obs := rfl

@[simp] theorem markDirty_out (a : Nat) (d : Dp) : (markDirty a d).out = d.out := rfl

@[simp] theorem giveFrame_snaps (f : Nat) (d : Dp) : (giveFrame f d).snaps = d.snaps := rfl

@[simp] theorem giveFrame_coh (f : Nat) (d : Dp) : (giveFrame f d).coh = d.coh := rfl

@[simp] theorem giveFrame_tasks (f : Nat) (d : Dp) : (giveFrame f d).tasks = d.tasks := rfl

@[simp] theorem giveFrame_hosts (f : Nat) (d : Dp) : (giveFrame f d).hosts = d.hosts := rfl

@[simp] theorem giveFrame_obs (f : Nat) (d : Dp) : (giveFrame f d).obs = d.obs := rfl

@[simp] theorem giveFrame_out (f : Nat) (d : Dp) : (giveFrame f d).out = d.out := rfl

@[simp] theorem finish_store (i : Nat) (r : Result) (d : Dp) : (finish i r d).store = d.store := rfl

@[simp] theorem finish_snaps (i : Nat) (r : Result) (d : Dp) : (finish i r d).snaps = d.snaps := rfl

@[simp] theorem finish_coh (i : Nat) (r : Result) (d : Dp) : (finish i r d).coh = d.coh := rfl

@[simp] theorem finish_hosts (i : Nat) (r : Result) (d : Dp) : (finish i r d).hosts = d.hosts := rfl

@[simp] theorem finish_fab (i : Nat) (r : Result) (d : Dp) : (finish i r d).fab = d.fab := rfl

@[simp] theorem finish_obs (i : Nat) (r : Result) (d : Dp) : (finish i r d).obs = d.obs := rfl

@[simp] theorem finish_out (i : Nat) (r : Result) (d : Dp) : (finish i r d).out = d.out := rfl

@[simp] theorem failTask_store (i status detail : Nat) (d : Dp) : (failTask i status detail d).store = d.store := rfl

@[simp] theorem failTask_snaps (i status detail : Nat) (d : Dp) : (failTask i status detail d).snaps = d.snaps := rfl

@[simp] theorem failTask_coh (i status detail : Nat) (d : Dp) : (failTask i status detail d).coh = d.coh := rfl

@[simp] theorem failTask_hosts (i status detail : Nat) (d : Dp) : (failTask i status detail d).hosts = d.hosts := rfl

@[simp] theorem failTask_fab (i status detail : Nat) (d : Dp) : (failTask i status detail d).fab = d.fab := rfl

@[simp] theorem failTask_obs (i status detail : Nat) (d : Dp) : (failTask i status detail d).obs = d.obs := rfl

@[simp] theorem failTask_out (i status detail : Nat) (d : Dp) : (failTask i status detail d).out = d.out := rfl

@[simp] theorem hostBytes_store (p n : Nat) (d : Dp) : (hostBytes p n d).store = d.store := rfl

@[simp] theorem hostBytes_snaps (p n : Nat) (d : Dp) : (hostBytes p n d).snaps = d.snaps := rfl

@[simp] theorem hostBytes_coh (p n : Nat) (d : Dp) : (hostBytes p n d).coh = d.coh := rfl

@[simp] theorem hostBytes_tasks (p n : Nat) (d : Dp) : (hostBytes p n d).tasks = d.tasks := rfl

@[simp] theorem hostBytes_fab (p n : Nat) (d : Dp) : (hostBytes p n d).fab = d.fab := rfl

@[simp] theorem hostBytes_obs (p n : Nat) (d : Dp) : (hostBytes p n d).obs = d.obs := rfl

@[simp] theorem hostBytes_out (p n : Nat) (d : Dp) : (hostBytes p n d).out = d.out := rfl

@[simp] theorem enqueue_store (m : Mgt) (point queue : Nat) (i : QItem) (d : Dp) : (enqueue m point queue i d).store = d.store := rfl

@[simp] theorem enqueue_snaps (m : Mgt) (point queue : Nat) (i : QItem) (d : Dp) : (enqueue m point queue i d).snaps = d.snaps := rfl

@[simp] theorem enqueue_coh (m : Mgt) (point queue : Nat) (i : QItem) (d : Dp) : (enqueue m point queue i d).coh = d.coh := rfl

@[simp] theorem enqueue_tasks (m : Mgt) (point queue : Nat) (i : QItem) (d : Dp) : (enqueue m point queue i d).tasks = d.tasks := rfl

@[simp] theorem enqueue_hosts (m : Mgt) (point queue : Nat) (i : QItem) (d : Dp) : (enqueue m point queue i d).hosts = d.hosts := rfl

@[simp] theorem enqueue_obs (m : Mgt) (point queue : Nat) (i : QItem) (d : Dp) : (enqueue m point queue i d).obs = d.obs := rfl

@[simp] theorem enqueue_out (m : Mgt) (point queue : Nat) (i : QItem) (d : Dp) : (enqueue m point queue i d).out = d.out := rfl

@[simp] theorem hostAnswer_store (m : Mgt) (port tag status : Nat) (data : Bytes) (part cls : Nat) (d : Dp) : (hostAnswer m port tag status data part cls d).store = d.store := rfl

@[simp] theorem hostAnswer_snaps (m : Mgt) (port tag status : Nat) (data : Bytes) (part cls : Nat) (d : Dp) : (hostAnswer m port tag status data part cls d).snaps = d.snaps := rfl

@[simp] theorem hostAnswer_coh (m : Mgt) (port tag status : Nat) (data : Bytes) (part cls : Nat) (d : Dp) : (hostAnswer m port tag status data part cls d).coh = d.coh := rfl

@[simp] theorem hostAnswer_tasks (m : Mgt) (port tag status : Nat) (data : Bytes) (part cls : Nat) (d : Dp) : (hostAnswer m port tag status data part cls d).tasks = d.tasks := rfl

@[simp] theorem hostAnswer_hosts (m : Mgt) (port tag status : Nat) (data : Bytes) (part cls : Nat) (d : Dp) : (hostAnswer m port tag status data part cls d).hosts = d.hosts := rfl

@[simp] theorem hostAnswer_obs (m : Mgt) (port tag status : Nat) (data : Bytes) (part cls : Nat) (d : Dp) : (hostAnswer m port tag status data part cls d).obs = d.obs := rfl

@[simp] theorem hostAnswer_out (m : Mgt) (port tag status : Nat) (data : Bytes) (part cls : Nat) (d : Dp) : (hostAnswer m port tag status data part cls d).out = d.out := rfl

@[simp] theorem logEvent_store (m : Mgt) (severity block event : Nat) (part : Option Nat) (package slot addr : Nat) (detail : List Nat) (d : Dp) : (logEvent m severity block event part package slot addr detail d).store = d.store := rfl

@[simp] theorem logEvent_snaps (m : Mgt) (severity block event : Nat) (part : Option Nat) (package slot addr : Nat) (detail : List Nat) (d : Dp) : (logEvent m severity block event part package slot addr detail d).snaps = d.snaps := rfl

@[simp] theorem logEvent_coh (m : Mgt) (severity block event : Nat) (part : Option Nat) (package slot addr : Nat) (detail : List Nat) (d : Dp) : (logEvent m severity block event part package slot addr detail d).coh = d.coh := rfl

@[simp] theorem logEvent_tasks (m : Mgt) (severity block event : Nat) (part : Option Nat) (package slot addr : Nat) (detail : List Nat) (d : Dp) : (logEvent m severity block event part package slot addr detail d).tasks = d.tasks := rfl

@[simp] theorem logEvent_hosts (m : Mgt) (severity block event : Nat) (part : Option Nat) (package slot addr : Nat) (detail : List Nat) (d : Dp) : (logEvent m severity block event part package slot addr detail d).hosts = d.hosts := rfl

@[simp] theorem logEvent_fab (m : Mgt) (severity block event : Nat) (part : Option Nat) (package slot addr : Nat) (detail : List Nat) (d : Dp) : (logEvent m severity block event part package slot addr detail d).fab = d.fab := rfl

@[simp] theorem logEvent_out (m : Mgt) (severity block event : Nat) (part : Option Nat) (package slot addr : Nat) (detail : List Nat) (d : Dp) : (logEvent m severity block event part package slot addr detail d).out = d.out := rfl

@[simp] theorem countAt_store (group addr n : Nat) (d : Dp) : (countAt group addr n d).store = d.store := by
  unfold countAt; split <;> rfl

@[simp] theorem countAt_snaps (group addr n : Nat) (d : Dp) : (countAt group addr n d).snaps = d.snaps := by
  unfold countAt; split <;> rfl

@[simp] theorem countAt_coh (group addr n : Nat) (d : Dp) : (countAt group addr n d).coh = d.coh := by
  unfold countAt; split <;> rfl

@[simp] theorem countAt_tasks (group addr n : Nat) (d : Dp) : (countAt group addr n d).tasks = d.tasks := by
  unfold countAt; split <;> rfl

@[simp] theorem countAt_hosts (group addr n : Nat) (d : Dp) : (countAt group addr n d).hosts = d.hosts := by
  unfold countAt; split <;> rfl

@[simp] theorem countAt_fab (group addr n : Nat) (d : Dp) : (countAt group addr n d).fab = d.fab := by
  unfold countAt; split <;> rfl

@[simp] theorem countAt_out (group addr n : Nat) (d : Dp) : (countAt group addr n d).out = d.out := by
  unfold countAt; split <;> rfl

@[simp] theorem countNamed_store (n : Nat) (d : Dp) : (countNamed n d).store = d.store := by
  simp [countNamed]

@[simp] theorem countNamed_snaps (n : Nat) (d : Dp) : (countNamed n d).snaps = d.snaps := by
  simp [countNamed]

@[simp] theorem countNamed_coh (n : Nat) (d : Dp) : (countNamed n d).coh = d.coh := by
  simp [countNamed]

@[simp] theorem countNamed_tasks (n : Nat) (d : Dp) : (countNamed n d).tasks = d.tasks := by
  simp [countNamed]

@[simp] theorem countNamed_hosts (n : Nat) (d : Dp) : (countNamed n d).hosts = d.hosts := by
  simp [countNamed]

@[simp] theorem countNamed_fab (n : Nat) (d : Dp) : (countNamed n d).fab = d.fab := by
  simp [countNamed]

@[simp] theorem countNamed_out (n : Nat) (d : Dp) : (countNamed n d).out = d.out := by
  simp [countNamed]

@[simp] theorem hostMoved_store (port part cls n : Nat) (d : Dp) : (hostMoved port part cls n d).store = d.store := by
  simp [hostMoved]

@[simp] theorem hostMoved_snaps (port part cls n : Nat) (d : Dp) : (hostMoved port part cls n d).snaps = d.snaps := by
  simp [hostMoved]

@[simp] theorem hostMoved_coh (port part cls n : Nat) (d : Dp) : (hostMoved port part cls n d).coh = d.coh := by
  simp [hostMoved]

@[simp] theorem hostMoved_tasks (port part cls n : Nat) (d : Dp) : (hostMoved port part cls n d).tasks = d.tasks := by
  simp [hostMoved]

@[simp] theorem hostMoved_fab (port part cls n : Nat) (d : Dp) : (hostMoved port part cls n d).fab = d.fab := by
  simp [hostMoved]

@[simp] theorem hostMoved_out (port part cls n : Nat) (d : Dp) : (hostMoved port part cls n d).out = d.out := by
  simp [hostMoved]

@[simp] theorem logLimited_store (b : Bool) (m : Mgt) (severity block event : Nat) (part : Option Nat) (package slot addr : Nat) (detail : List Nat) (d : Dp) : (logLimited b m severity block event part package slot addr detail d).store = d.store := by
  unfold logLimited; dsimp only; split <;> rfl

@[simp] theorem logLimited_snaps (b : Bool) (m : Mgt) (severity block event : Nat) (part : Option Nat) (package slot addr : Nat) (detail : List Nat) (d : Dp) : (logLimited b m severity block event part package slot addr detail d).snaps = d.snaps := by
  unfold logLimited; dsimp only; split <;> rfl

@[simp] theorem logLimited_coh (b : Bool) (m : Mgt) (severity block event : Nat) (part : Option Nat) (package slot addr : Nat) (detail : List Nat) (d : Dp) : (logLimited b m severity block event part package slot addr detail d).coh = d.coh := by
  unfold logLimited; dsimp only; split <;> rfl

@[simp] theorem logLimited_tasks (b : Bool) (m : Mgt) (severity block event : Nat) (part : Option Nat) (package slot addr : Nat) (detail : List Nat) (d : Dp) : (logLimited b m severity block event part package slot addr detail d).tasks = d.tasks := by
  unfold logLimited; dsimp only; split <;> rfl

@[simp] theorem logLimited_hosts (b : Bool) (m : Mgt) (severity block event : Nat) (part : Option Nat) (package slot addr : Nat) (detail : List Nat) (d : Dp) : (logLimited b m severity block event part package slot addr detail d).hosts = d.hosts := by
  unfold logLimited; dsimp only; split <;> rfl

@[simp] theorem logLimited_fab (b : Bool) (m : Mgt) (severity block event : Nat) (part : Option Nat) (package slot addr : Nat) (detail : List Nat) (d : Dp) : (logLimited b m severity block event part package slot addr detail d).fab = d.fab := by
  unfold logLimited; dsimp only; split <;> rfl

@[simp] theorem logLimited_out (b : Bool) (m : Mgt) (severity block event : Nat) (part : Option Nat) (package slot addr : Nat) (detail : List Nat) (d : Dp) : (logLimited b m severity block event part package slot addr detail d).out = d.out := by
  unfold logLimited; dsimp only; split <;> rfl

@[simp] theorem send_store (m : Mgt) (q : Msg) (d : Dp) : (send m q d).store = d.store := by
  unfold send; split <;> rfl

@[simp] theorem send_snaps (m : Mgt) (q : Msg) (d : Dp) : (send m q d).snaps = d.snaps := by
  unfold send; split <;> rfl

@[simp] theorem send_coh (m : Mgt) (q : Msg) (d : Dp) : (send m q d).coh = d.coh := by
  unfold send; split <;> rfl

@[simp] theorem send_tasks (m : Mgt) (q : Msg) (d : Dp) : (send m q d).tasks = d.tasks := by
  unfold send; split <;> rfl

@[simp] theorem send_hosts (m : Mgt) (q : Msg) (d : Dp) : (send m q d).hosts = d.hosts := by
  unfold send; split <;> rfl

@[simp] theorem send_obs (m : Mgt) (q : Msg) (d : Dp) : (send m q d).obs = d.obs := by
  unfold send; split <;> rfl

@[simp] theorem send_out (m : Mgt) (q : Msg) (d : Dp) : (send m q d).out = d.out := by
  unfold send; split <;> rfl

@[simp] theorem reply_store (m : Mgt) (q : Msg) (opcode status arg : Nat) (payload : Bytes) (d : Dp) : (reply m q opcode status arg payload d).store = d.store := by
  simp [reply]

@[simp] theorem reply_snaps (m : Mgt) (q : Msg) (opcode status arg : Nat) (payload : Bytes) (d : Dp) : (reply m q opcode status arg payload d).snaps = d.snaps := by
  simp [reply]

@[simp] theorem reply_coh (m : Mgt) (q : Msg) (opcode status arg : Nat) (payload : Bytes) (d : Dp) : (reply m q opcode status arg payload d).coh = d.coh := by
  simp [reply]

@[simp] theorem reply_tasks (m : Mgt) (q : Msg) (opcode status arg : Nat) (payload : Bytes) (d : Dp) : (reply m q opcode status arg payload d).tasks = d.tasks := by
  simp [reply]

@[simp] theorem reply_hosts (m : Mgt) (q : Msg) (opcode status arg : Nat) (payload : Bytes) (d : Dp) : (reply m q opcode status arg payload d).hosts = d.hosts := by
  simp [reply]

@[simp] theorem reply_obs (m : Mgt) (q : Msg) (opcode status arg : Nat) (payload : Bytes) (d : Dp) : (reply m q opcode status arg payload d).obs = d.obs := by
  simp [reply]

@[simp] theorem reply_out (m : Mgt) (q : Msg) (opcode status arg : Nat) (payload : Bytes) (d : Dp) : (reply m q opcode status arg payload d).out = d.out := by
  simp [reply]

@[simp] theorem refuse_store (m : Mgt) (q : Msg) (opcode status arg : Nat) (d : Dp) : (refuse m q opcode status arg d).store = d.store := by
  simp [refuse]

@[simp] theorem refuse_snaps (m : Mgt) (q : Msg) (opcode status arg : Nat) (d : Dp) : (refuse m q opcode status arg d).snaps = d.snaps := by
  simp [refuse]

@[simp] theorem refuse_coh (m : Mgt) (q : Msg) (opcode status arg : Nat) (d : Dp) : (refuse m q opcode status arg d).coh = d.coh := by
  simp [refuse]

@[simp] theorem refuse_tasks (m : Mgt) (q : Msg) (opcode status arg : Nat) (d : Dp) : (refuse m q opcode status arg d).tasks = d.tasks := by
  simp [refuse]

@[simp] theorem refuse_hosts (m : Mgt) (q : Msg) (opcode status arg : Nat) (d : Dp) : (refuse m q opcode status arg d).hosts = d.hosts := by
  simp [refuse]

@[simp] theorem refuse_out (m : Mgt) (q : Msg) (opcode status arg : Nat) (d : Dp) : (refuse m q opcode status arg d).out = d.out := by
  simp [refuse]

@[simp] theorem takeInbox_store (q : Msg) (d : Dp) : (takeInbox q d).store = d.store := by
  unfold takeInbox; split <;> rfl

@[simp] theorem takeInbox_snaps (q : Msg) (d : Dp) : (takeInbox q d).snaps = d.snaps := by
  unfold takeInbox; split <;> rfl

@[simp] theorem takeInbox_coh (q : Msg) (d : Dp) : (takeInbox q d).coh = d.coh := by
  unfold takeInbox; split <;> rfl

@[simp] theorem takeInbox_tasks (q : Msg) (d : Dp) : (takeInbox q d).tasks = d.tasks := by
  unfold takeInbox; split <;> rfl

@[simp] theorem takeInbox_hosts (q : Msg) (d : Dp) : (takeInbox q d).hosts = d.hosts := by
  unfold takeInbox; split <;> rfl

@[simp] theorem takeInbox_obs (q : Msg) (d : Dp) : (takeInbox q d).obs = d.obs := by
  unfold takeInbox; split <;> rfl

@[simp] theorem takeInbox_out (q : Msg) (d : Dp) : (takeInbox q d).out = d.out := by
  unfold takeInbox; split <;> rfl

/-! ### What an operation puts in place -/

@[simp] theorem emit_out (o : Out) (d : Dp) : (emit o d).out = d.out ++ [o] := rfl

@[simp] theorem logEvent_mode (m : Mgt) (severity block event : Nat) (part : Option Nat) (package slot addr : Nat) (detail : List Nat) (d : Dp) :
    (logEvent m severity block event part package slot addr detail d).obs.mode = d.obs.mode := rfl

@[simp] theorem logEvent_enable (m : Mgt) (severity block event : Nat) (part : Option Nat) (package slot addr : Nat) (detail : List Nat) (d : Dp) :
    (logEvent m severity block event part package slot addr detail d).obs.enable = d.obs.enable := rfl

@[simp] theorem logEvent_counters (m : Mgt) (severity block event : Nat) (part : Option Nat) (package slot addr : Nat) (detail : List Nat) (d : Dp) :
    (logEvent m severity block event part package slot addr detail d).obs.counters = d.obs.counters := rfl

/-- An error-log entry stands first in the log, with the tick at which it was written. -/
theorem logEvent_head (m : Mgt) (severity block event : Nat) (part : Option Nat) (package slot addr : Nat) (detail : List Nat) (d : Dp) :
    (logEvent m severity block event part package slot addr detail d).obs.log.head?
      = some ⟨d.obs.logCount + 1, severity, block, event, m.clk.ltb, part, appendsNow m severity, package, slot, 1, addr, detail⟩ := rfl

/-- A message changes the queues of scheduling points and nothing else of the fabric. -/
theorem enqueue_fab (m : Mgt) (point queue : Nat) (i : QItem) (d : Dp) :
    { (enqueue m point queue i d).fab with points := d.fab.points } = d.fab := rfl

/-- A sent message changes the queues of scheduling points and nothing else of the fabric. -/
theorem send_fab (m : Mgt) (q : Msg) (d : Dp) : { (send m q d).fab with points := d.fab.points } = d.fab := by
  unfold send; split <;> rfl

/-- A task changed is found changed, and no other task changes. -/
theorem modTask_tasks (i : Nat) (f : Task → Task) (d : Dp) :
    (modTask i f d).tasks.tasks = d.tasks.tasks.map fun t => if t.id = i then f t else t := by
  simp [modTask, modWhere]

/-- A slot changed is found changed, and no other slot changes. -/
theorem modSlot_slots (n : Nat) (f : Slot → Slot) (d : Dp) :
    (modSlot n f d).tasks.slots = d.tasks.slots.map fun t => if t.number = n then f t else t := by
  simp [modSlot, modWhere]

/-! ### Association lists -/

@[simp] theorem assoc_setKey {α β : Type} [DecidableEq α] (l : List (α × β)) (k a : α) (v : β) :
    assoc (setKey l k v) a = if a = k then some v else assoc l a := by
  unfold assoc setKey
  by_cases h : a = k
  · subst h; simp
  · rw [if_neg h, List.find?_cons_of_neg (by simpa using Ne.symm h)]
    congr 1
    induction l with
    | nil => rfl
    | cons x r ih =>
      by_cases hx : x.1 = k
      · rw [List.filter_cons_of_neg (by simpa using hx), List.find?_cons_of_neg (by rw [hx]; simpa using Ne.symm h)]; exact ih
      · rw [List.filter_cons_of_pos (by simpa using hx)]
        by_cases hx2 : x.1 = a
        · rw [List.find?_cons_of_pos (by simpa using hx2), List.find?_cons_of_pos (by simpa using hx2)]
        · rw [List.find?_cons_of_neg (by simpa using hx2), List.find?_cons_of_neg (by simpa using hx2)]; exact ih

end Sys2Proof.Laws
end

