-- ==== Sys2Proof/Laws/Messages.lean ====
section
/-! SUPPORT. What receiving operational messages can change: whatever waits behind the message acted on, only their acceptance, their answers and the log. -/

namespace Sys2Proof.Laws

open Sys2Proof.Machine

/-- From one pair of sides to another, messages have been received: on the management side only what is accepted, what waits, alive values and measurement 5 have changed; on the data plane only the log, what goes out and the queues. -/
def Heard (x y : Mgt × Dp) : Prop :=
  y.1 = { x.1 with
    comp := { x.1.comp with accepted := y.1.comp.accepted, waiting := y.1.comp.waiting }
    sec := { x.1.sec with alive := y.1.sec.alive, meas5 := y.1.sec.meas5 } }
  ∧ { y.2 with obs := x.2.obs, fab := x.2.fab, out := x.2.out } = x.2
  ∧ { y.2.fab with points := x.2.fab.points } = x.2.fab
  ∧ { y.2.obs with log := x.2.obs.log, logCount := x.2.obs.logCount, flashDue := x.2.obs.flashDue } = x.2.obs

theorem Heard.refl (x : Mgt × Dp) : Heard x x := ⟨rfl, rfl, rfl, rfl⟩

theorem Heard.trans {x y z : Mgt × Dp} (h : Heard x y) (h' : Heard y z) : Heard x z := by
  obtain ⟨a1, a2, a3, a4⟩ := h
  obtain ⟨b1, b2, b3, b4⟩ := h'
  refine ⟨?_, ?_, ?_, ?_⟩
  · rw [b1, a1]
  · rw [← a2, ← b2]
  · rw [← a3, ← b3]
  · rw [← a4, ← b4]

/-- Answering a message changes only what goes out and the queues. -/
theorem answerOp_heard (m : Mgt) (a : Asker) (reason alive : Nat) (d : Dp) : Heard (m, d) (m, answerOp m a reason alive d) := by
  cases a with
  | mctp e => exact ⟨rfl, rfl, rfl, rfl⟩
  | daras q =>
    refine ⟨rfl, ?_, send_fab m _ d, ?_⟩ <;> simp [answerOp, reply]

/-- Refusing a message changes only the log, what goes out and the queues. -/
theorem opRefuse_heard (m : Mgt) (a : Asker) (b : Bytes) (reason : Nat) (d : Dp) : Heard (m, d) (m, opRefuse m a b reason d) :=
  Heard.trans (y := (m, logEvent m 1 0xD 3 none (match a with | .daras q => q.source | _ => 0) 0 0 [fieldAt b 0 63 56, reason] d))
    ⟨rfl, rfl, rfl, rfl⟩ (answerOp_heard m a reason (aliveShown m b) _)

/-- A message that has come whole is refused, accepted or made to wait. -/
theorem opReceive_heard (a : Asker) (b : Bytes) (x : Mgt × Dp) : Heard x (opReceive a b x) := by
  unfold opReceive
  dsimp only
  split
  · exact ⟨rfl, rfl, rfl, rfl⟩
  · split
    · exact opRefuse_heard x.1 a b _ x.2
    · split
      · exact ⟨rfl, rfl, rfl, rfl⟩
      · obtain ⟨h1, h2, h3, h4⟩ := answerOp_heard (opTake x.1 b) a 0 (aliveShown (opTake x.1 b) b) x.2
        exact ⟨rfl, h2, h3, h4⟩

/-- Messages that waited are checked in turn. -/
theorem opPump_heard (x : Mgt × Dp) : Heard x (opPump x) := by
  have key : ∀ (l : List (Asker × Bytes)) (y : Mgt × Dp), Heard y (l.foldl (fun x w => opReceive w.1 w.2 x) y) := by
    intro l
    induction l with
    | nil => intro y; exact Heard.refl y
    | cons w l ih => intro y; exact (opReceive_heard w.1 w.2 y).trans (ih _)
  exact Heard.trans (y := ({ x.1 with comp := { x.1.comp with waiting := [] } }, x.2)) ⟨rfl, rfl, rfl, rfl⟩ (key _ _)

/-- An accepted message of the code, whose test allows it, is acted on, and what waited behind it is received. -/
theorem opAct_accepted (code : Nat) (ready : Mgt → Dp → Accepted → Bool) (f : Accepted → Mgt → Dp → Mgt × Dp) (m : Mgt) (d : Dp) (a : Accepted)
    (h : m.comp.accepted = some a) (hc : a.code = code) (hr : ready m d a = true) :
    Heard (f a { m with comp := { m.comp with accepted := none } } d) (opAct code ready f m d) := by
  have : opAct code ready f m d = opPump (f a { m with comp := { m.comp with accepted := none } } d) := by
    unfold opAct; rw [h]; simp [hc, hr]
  rw [this]
  exact opPump_heard _

end Sys2Proof.Laws
end

