-- ==== Sys2Proof/Laws/Shared.lean ====
section
/-! SUPPORT. What settling does where nothing waits at the home slices, how a task is found again after a change to the tasks, and that a run of small changes keeps what each of them keeps. -/

namespace Sys2Proof.Laws

open Sys2Proof.Machine

/-! ### Settling -/

/-- A change that keeps a property, made once for each item of a list, keeps it. -/
theorem foldl_keeps {α β : Type} (P : β → Prop) (f : β → α → β) (hf : ∀ b a, P b → P (f b a)) (l : List α) (b : β) (h : P b) :
    P (l.foldl f b) := by
  induction l generalizing b with
  | nil => exact h
  | cons a l ih => exact ih _ (hf b a h)

/-- Changes that do nothing, one for each item of a list, do nothing. -/
theorem foldl_same {α β : Type} (f : β → α → β) (l : List α) (b : β) (h : ∀ a ∈ l, f b a = b) : l.foldl f b = b := by
  induction l with
  | nil => rfl
  | cons a l ih => rw [List.foldl_cons, h a List.mem_cons_self]; exact ih fun x hx => h x (List.mem_cons_of_mem _ hx)

/-- Where every snoop of every tracker has gone, none is sent again. -/
theorem retrySnoops_sent (m : Mgt) (d : Dp) (h : ∀ t ∈ d.coh.trackers, t.snoops.all (·.sent) = true) : retrySnoops m d = d :=
  foldl_same _ _ _ fun t ht => by simp only [h t ht, if_true]

/-- Where no request waits for its line, none is tried again. -/
theorem retryHome_none (m : Mgt) (d : Dp) (h : d.coh.waiting = []) : retryHome m d = d := by
  obtain ⟨_, _, c, _⟩ := d
  cases c
  simp_all [retryHome]

/-- Where no request of this package is held back, none is released. -/
theorem releaseHeld_none (m : Mgt) (d : Dp) (h : d.coh.heldHome = []) : releaseHeld m d = d := by simp [releaseHeld, h]

/-- Where nothing waits at the home slices, settling only notes since when each task has waited. -/
theorem settle_quiet (m : Mgt) (d : Dp) (h : Safety.Quiet d) : settle m d = stampWaits m d := by
  obtain ⟨h₁, h₂, h₃⟩ := h
  rw [settle, retrySnoops_sent m d h₃, retryHome_none m d h₁, releaseHeld_none m d h₂]

/-- Settling leaves nothing waiting where nothing waited. -/
theorem stampWaits_quiet (m : Mgt) (d : Dp) (h : Safety.Quiet d) : Safety.Quiet (stampWaits m d) := h

@[simp] theorem stampWaits_store (m : Mgt) (d : Dp) : (stampWaits m d).store = d.store := rfl

@[simp] theorem stampWaits_snaps (m : Mgt) (d : Dp) : (stampWaits m d).snaps = d.snaps := rfl

@[simp] theorem stampWaits_tasks (m : Mgt) (d : Dp) : (stampWaits m d).tasks = d.tasks := rfl

@[simp] theorem stampWaits_hosts (m : Mgt) (d : Dp) : (stampWaits m d).hosts = d.hosts := rfl

@[simp] theorem stampWaits_fab (m : Mgt) (d : Dp) : (stampWaits m d).fab = d.fab := rfl

@[simp] theorem stampWaits_obs (m : Mgt) (d : Dp) : (stampWaits m d).obs = d.obs := rfl

@[simp] theorem stampWaits_out (m : Mgt) (d : Dp) : (stampWaits m d).out = d.out := rfl

@[simp] theorem stampWaits_dir (m : Mgt) (d : Dp) : (stampWaits m d).coh.dir = d.coh.dir := rfl

@[simp] theorem stampWaits_trackers (m : Mgt) (d : Dp) : (stampWaits m d).coh.trackers = d.coh.trackers := rfl

@[simp] theorem stampWaits_waiting (m : Mgt) (d : Dp) : (stampWaits m d).coh.waiting = d.coh.waiting := rfl

@[simp] theorem stampWaits_heldHome (m : Mgt) (d : Dp) : (stampWaits m d).coh.heldHome = d.coh.heldHome := rfl

@[simp] theorem stampWaits_txns (m : Mgt) (d : Dp) : (stampWaits m d).coh.txns = d.coh.txns := rfl

@[simp] theorem stampWaits_remote (m : Mgt) (d : Dp) : (stampWaits m d).coh.remote = d.coh.remote := rfl

/-! ### Tasks -/

/-- Changing the items of one name changes the one that is found under it. -/
theorem find_modWhere {α : Type} (p : α → Bool) (f : α → α) (hf : ∀ a, p a = true → p (f a) = true) (l : List α) :
    (modWhere l p f).find? p = (l.find? p).map f := by
  induction l with
  | nil => rfl
  | cons a l ih =>
    by_cases h : p a = true
    · simp [modWhere, h, hf a h]
    · simp only [Bool.not_eq_true] at h
      simpa [modWhere, h] using ih

/-- A change that keeps a task's number changes the task that is found under it. -/
theorem task_modTask (id : Nat) (f : Task → Task) (d : Dp) (hf : ∀ t, (f t).id = t.id) : (modTask id f d).task id = (d.task id).map f :=
  find_modWhere (fun t : Task => decide (t.id = id)) f (fun t h => by simpa [hf t] using h) d.tasks.tasks

/-- A task that had no result has the one it ended with. -/
theorem task_finish (id : Nat) (r : Result) (d : Dp) (t : Task) (h : d.task id = some t) (hr : t.result = none) :
    (finish id r d).task id = some { t with result := some r, state := .ending } := by
  rw [finish, task_modTask _ _ _ (fun t => by split <;> rfl), h]
  simp [hr]

/-- A task that had failed keeps the result it failed with (R155). -/
theorem task_failTask_failed (id status detail : Nat) (d : Dp) (t : Task) (r : Result) (h : d.task id = some t) (hr : t.result = some r)
    (hs : r.status ≠ 0) : (failTask id status detail d).task id = some t := by
  rw [failTask, task_modTask _ _ _ (fun t => by split <;> (try split) <;> rfl), h]
  simp [hr, hs]

/-! ### Lifting -/

/-- A command of the data plane answers a next state that differs from the one before in the data plane alone. -/
theorem liftDp_eq_next (f : Mgt → Dp → Dp) (s t : State) (h : liftDp f s = .next t) : t.mgt = s.mgt ∧ t.pending = s.pending ∧ t.dp = f s.mgt s.dp := by
  cases h
  exact ⟨rfl, rfl, rfl⟩

/-- A command answers a next state in which the commands that wait are as they were. -/
theorem liftAll_eq_next (f : Mgt → Dp → Mgt × Dp) (s t : State) (h : liftAll f s = .next t) : t.pending = s.pending ∧ (t.mgt, t.dp) = f s.mgt s.dp := by
  cases h
  exact ⟨rfl, rfl⟩

end Sys2Proof.Laws
end

