-- ==== Sys2Proof/Tests/Slice0.lean ====
section
/-! SUPPORT. Tests of the model: small states, one step each, and for every statement a state and operands that meet its hypotheses. -/

namespace Sys2Proof.Tests

set_option Elab.async false

open Sys2Proof.Machine Sys2Proof.Safety

/-! ### Small states -/

/-- An image of package 5 that declares one PLAIN region of partition 0 and slot 0 of the west port. -/
def testImage : Image :=
  { (default : Image) with
    pkg := { (default : PackageEntry) with packageId := 5, hostModes := [2, 2] }
    parts := [⟨0, true, false, 0xFF, 0xFFFF, false, 0, [0, 0, 0, 0, 0, 0, 0, 0]⟩]
    regions := [{ (default : Region) with id := 1, kind := 1, base := 0, length := 2 ^ 20 }]
    slots := [⟨0, 0x4000, 0, 4, 0⟩] }

/-- A package that runs an image, its partitions attached, with a data plane changed from that of reset. -/
def running (i : Image) (f : Dp → Dp) : State :=
  { State.reset with
    mgt := { Mgt.reset with
      clk := { Clk.reset with phase := .running }, image := some i, far := { Far.reset with final := true }
      parts := i.parts.map fun p => (p.id, 1) }
    dp := f Dp.reset }

/-- A running package with an accepted operational message waiting to be acted on. -/
def accepting (code : Nat) (body : Bytes) : State :=
  { State.reset with mgt := { Mgt.reset with
      clk := { Clk.reset with phase := .running, ltb := 1 }, comp := { Comp.reset with accepted := some ⟨code, body, .mctp 2, 0⟩ } } }

/-- A running package whose debug port is selected. -/
def debugging (l : Level) (p : DbgPort) (f : Dp → Dp) : State :=
  { running testImage f with mgt := { (running testImage f).mgt with
      sec := { Sec.reset with level := l, dbg := p }, tap := { Tap.reset with ir := 0x08 } } }

/-- A package held for test with a TAP instruction selected. -/
def testing (ir : BitVec 8) (lanes : List LaneTest) : State :=
  { State.reset with mgt := { Mgt.reset with
      clk := { Clk.reset with phase := .held }, sec := { Sec.reset with level := .opened }, tap := { Tap.reset with ir := ir, lanes := lanes } } }

/-- A running package with one Daras port in a given form, a second after its release. -/
def linked (x : DarPort) : State :=
  let s := running testImage fun d => { d with fab := { d.fab with ports := d.fab.ports.set 1 x } }
  { s with mgt := { s.mgt with clk := { s.mgt.clk with ltb := 100000000 } } }

/-- A running package with Daras port 0 and the west host link up, and one item in queue 0 of a scheduling point. -/
def queued (point : Nat) (i : QItem) : State :=
  running { testImage with queues := List.replicate 192 { (default : QueueEntry) with quantum := 1024 } } fun d => { d with
    fab := { d.fab with
      ports := d.fab.ports.set 0 { DarPort.reset with state := .up }
      points := d.fab.points.set point { Point.reset with queues := [⟨0, [i], 0, 0, 0, 0, 0, (0, 0, 0, 0)⟩] } }
    hosts := { d.hosts with ports := [{ HostPort.reset with mode := 2 }, HostPort.reset] } }


/-- A request of package 7 for line 1 of package 5. -/
def farMsg (opcode : Nat) (payload : Bytes) : Msg :=
  { (default : Msg) with opcode := opcode, cls := classOf opcode, source := 7, target := 5, addr := 5 * 2 ^ 50 + 64, payload := payload }


/-- A task record of an opcode whose operand words are zero, with an alive value, a completion at 4 KiB of package 5 and its CRC. -/
def testRecord (op alive : Nat) : Bytes :=
  let b := (wordsBytes ([op * 2 ^ 56 + 2 ^ 52 + alive * 2 ^ 40, 5 * 2 ^ 50 + 4096] ++ List.replicate 14 0)).take 124
  b ++ natBytes 4 (crc 0x01 b)


/-- A record of an opcode with operand words W6 to W14, a completion at 4 KiB of package 5 and its CRC. -/
def operandRecord (op : Nat) (ws : List Nat) : Bytes :=
  let b := (wordsBytes ([op * 2 ^ 56 + 2 ^ 52, 5 * 2 ^ 50 + 4096, 0, 0, 0, 0] ++ ws ++ [0])).take 124
  b ++ natBytes 4 (crc 0x01 b)

/-- Task 1 runs a record in context 0 of engine 3. -/
def computing (r : Bytes) : State :=
  running testImage fun d => { d with tasks := { d.tasks with
    ctxs := [⟨3, 0, 1, .running, 0⟩], tasks := [{ (default : Task) with id := 1, state := .running, record := r, context := some (3, 0) }] } }

/-- An address of region 1 of package 5. -/
def vecRecordX : Nat := 5 * 2 ^ 50 + 0x2000

/-- A ROUTE of one token and one expert in package 5's region 1: logits at 0x2000, tokens at 0x2100, map at 0x2200, workspace at 0x3000, output at 0x4000; raw logits, a limit of 5 µs. -/
def routeRecord : Bytes :=
  operandRecord 0x30 [vecRecordX, vecRecordX + 0x100, vecRecordX + 0x200, vecRecordX + 0x1000, vecRecordX + 0x2000, 2 ^ 48 + 2 ^ 32 + 32, 0x01050105, 0x05 * 2 ^ 56 + 2 ^ 54 + 5 * 2 ^ 32 + 0x3F800000, 0]

/-- Task 1 runs that ROUTE at a stage; the one replica's inbox lies at the start of package 7. -/
def routing (stage phase : Nat) (pairs : List Pair) : State :=
  let s := computing routeRecord
  { s with dp := { modTask 1 (fun t => { t with phase := phase, prog := { t.prog with stage := stage, pairs := pairs } }) s.dp with
    store := { s.dp.store with mem := [(0x2207, 1), (0x220E, 28)] } } }

/-- The same state 10 microseconds after its release. -/
def later (s : State) : State := { s with mgt := { s.mgt with clk := { s.mgt.clk with ltb := 1000 } } }

/-- An EXPERT whose inbox lies at 0x2000 of package 5's region 1, its matrices behind it: 32 dimensions, round 0, one source. -/
def expertRecord : Bytes :=
  operandRecord 0x31 [vecRecordX, vecRecordX + 0x1000, 0, vecRecordX + 0x2000, 32 * 2 ^ 32 + 32, 2 ^ 16, 0x01010501 * 2 ^ 32, 0, 0]

/-- Task 1 runs that EXPERT in a claimed round, the memory of the region holding some bytes. -/
def serving (mem : List (Nat × Byte)) : State :=
  let s := computing expertRecord
  { s with dp := { withProg 1 (fun p => { p with stage := 1 }) s.dp with store := { s.dp.store with mem := mem } } }

/-- A package with a SNAPSHOT region 2 at 1 MiB and a KV region 3, and task 1 of an opcode whose W6 and W7 are given. -/
def sessionState (op w6 w7 : Nat) (snaps : Snaps) : State :=
  let i := { testImage with regions := testImage.regions ++
    [{ (default : Region) with id := 2, kind := 2, base := 2 ^ 20, length := 2 ^ 20, views := 4, drafts := 2, viewBase := 2 ^ 48 },
     { (default : Region) with id := 3, kind := 3, kvLayers := 1, kvHeads := 1, kvDim16 := 2, kvFormat := 3, kvSessions := 4 }] }
  running i fun d => { d with
    snaps := snaps
    store := { d.store with free := [(200, 8)] }
    tasks := { d.tasks with tasks := [{ (default : Task) with id := 1, state := .waitContext, record := operandRecord op [w6, w7, 5 * 2 ^ 50 + 0x2000, 5 * 2 ^ 50 + 0x3000, 0, 0, 0, 0, 0] }] } }

/-- That package with one view of region 2. -/
def snapping (op w6 : Nat) (v : View) (versions : List Version) (more : List View) : State :=
  sessionState op w6 0 ⟨[⟨2, 1, versions, v :: more⟩], [], [], 0, []⟩

/-- A member of package 5's lease set {5, 6, 7}, with the tick of the last BEAT taken from it. -/
def watched (k : Nat) (last : Option Nat) : Member := ⟨k, 0, last, 0, none, false, [5, 6, 7], 0⟩

/-- Package 5 under a map that gives it witnesses 6 and 7 over port 1, a second after its release: beats of 100 µs, 1 ms of silence and to decide, 1 ms end to end. -/
def leasing (members : List Member) : State :=
  let r : MapRec := { (default : MapRec) with lease := [(3, 0, 6), (3, 0, 7)], routes := [⟨6, 2, true, true, 6⟩, ⟨7, 2, true, true, 7⟩] }
  let i : Image := { testImage with
    pkg := { testImage.pkg with resumeWaitMs := 100 }
    timers := { (default : TimerEntry) with beat10us := 10, silence10us := 100, decide10us := 100, e2e10us := 100 } }
  let s := running i fun d => { d with fab := { d.fab with
    ports := d.fab.ports.set 1 { DarPort.reset with state := .up }
    whist := { d.fab.whist with members := members } } }
  { s with mgt := { s.mgt with clk := { s.mgt.clk with ltb := 100000000 }, comp := { s.mgt.comp with maps := [{ r with epoch := s.mgt.comp.stamp }] } } }

/-- The same with a verdict on a package already taken. -/
def verdictOn (k : Nat) (s : State) : State :=
  { s with dp := { s.dp with fab := { s.dp.fab with whist := { s.dp.fab.whist with verdicts := [(k, s.mgt.comp.stamp)] } } } }

/-- A read of task 1 that package 7 has not answered. -/
def askTxn : Txn := { (default : Txn) with txn := 9, via := .task 1, msg := { (default : Msg) with opcode := 0x00, target := 7, addr := 7 * 2 ^ 50, txn := 9 } }

/-- Task 1 of an opcode at a stage, its request outstanding. -/
def askTask (op stage phase : Nat) : Task :=
  { (default : Task) with id := 1, state := .running, record := testRecord op 0, phase := phase, outstanding := 1, prog := { (default : Progress) with stage := stage } }

/-- Package 5 with that task. -/
def asking (op stage phase : Nat) : State :=
  let s := leasing [watched 7 none]
  { s with dp := { s.dp with
    coh := { s.dp.coh with txns := [askTxn] }, tasks := { s.dp.tasks with tasks := [askTask op stage phase] } } }

/-- A guard write of line 4 to package 7. -/
def guardTxn : Txn := { (default : Txn) with txn := 9, via := .daras, msg := { (default : Msg) with opcode := 0x06, target := 7, addr := 7 * 2 ^ 50, txn := 9, payload := zeros 64 } }

/-- Package 5 waits for that guard write, for task 1, with a cause. -/
def guarding (cause : Nat) : State :=
  let s := leasing [watched 7 none]
  { s with dp := { s.dp with
    coh := { s.dp.coh with txns := [guardTxn], trackers := [⟨4, .task 1, default, [], none, [(7, 9, zeros 64, 0)], none, false, cause⟩] }
    tasks := { s.dp.tasks with tasks := [askTask 0x50 0 0] } } }

/-- Package 5 with the east host port in a given form and one inbound window of it at host address 2^40, 1 GiB of the pool that begins with region 1; forerunner limits of 1 GB/s. -/
def hosting (h : HostPort) : State :=
  let i : Image := { testImage with
    pkg := { testImage.pkg with hostModes := [1, 1], forerunner := true, frLimits := [1, 1] }
    timers := { (default : TimerEntry) with leaseLossMs := 20 }
    windows := [⟨false, 1, 0, 0, 1, 2 ^ 40, 5 * 2 ^ 50, 0⟩] }
  let s := running i fun d => { d with hosts := { d.hosts with ports := [HostPort.reset, h] } }
  { s with mgt := { s.mgt with clk := { s.mgt.clk with ltb := 100000000 } } }

/-- A CXL port set up by its host. -/
def cxlPort : HostPort := { HostPort.reset with mode := 1, width := 8, speed := 0x40, memEnable := true, bi := true }

/-- Package 5 whose east host renewed its lease at tick 0, with given directory entries. -/
def leased (dir : List DirEntry) : State :=
  let s := hosting cxlPort
  { s with dp := { s.dp with
    hosts := { s.dp.hosts with leases := [HostLease.reset, { HostLease.reset with state := 1 }] }, coh := { s.dp.coh with dir := dir } } }

/-- The entry of line 64 of region 1, held by the east host. -/
def hostLine (owned : Bool) : DirEntry := { (default : DirEntry) with line := 64, owned := owned, hosts := 2 }

/-! ### Ill-formed terms, one for each check -/

/-- A well-formed message. -/
def goodMsg : Msg := { (default : Msg) with opcode := 0x06, cls := 1, source := 7, target := 5, payload := zeros 64 }

theorem test_wf_msg : Msg.wf goodMsg = true := by decide

theorem test_illformed_msg : ∀ q ∈ [{ goodMsg with opcode := 256 }, { goodMsg with cls := 8 }, { goodMsg with bwClass := 8 }, { goodMsg with hops := 4 },
    { goodMsg with partition := 64 }, { goodMsg with epoch := 256 }, { goodMsg with source := 2 ^ 14 }, { goodMsg with target := 2 ^ 14 }, { goodMsg with txn := 2 ^ 16 },
    { goodMsg with combine := 2 ^ 16 }, { goodMsg with status := 256 }, { goodMsg with slot := 1024 }, { goodMsg with origin := 2 ^ 14 }, { goodMsg with addr := 2 ^ 64 },
    { goodMsg with arg := 2 ^ 64 }, { goodMsg with payload := zeros 17 }, { goodMsg with payload := zeros 256 }], Msg.wf q = false := by decide +kernel

/-- A well-formed Whist message. -/
def goodWhist : Whist := ⟨1, 0, 7, 7, 1, 5, false, 0, [5, 6]⟩

theorem test_wf_whist : Whist.wf goodWhist = true := by decide

theorem test_illformed_whist : ∀ w ∈ [{ goodWhist with kind := 0 }, { goodWhist with kind := 4 }, { goodWhist with epoch := 256 }, { goodWhist with source := 2 ^ 14 },
    { goodWhist with subject := 2 ^ 14 }, { goodWhist with seq := 2 ^ 24 }, { goodWhist with target := 2 ^ 14 }, { goodWhist with ltb := 2 ^ 64 },
    { goodWhist with set := List.replicate 17 1 }, { goodWhist with set := [2 ^ 14] }], Whist.wf w = false := by decide

/-- A board that supplies a part of 64 KiB and one byte of it. -/
def goodBoard : Board := { Board.same with chip := some { State.reset.mgt.nvm.chip with bytes := 65536 }, flash := some [(65535, 1)], fuses := some State.reset.mgt.nvm.fuses }

theorem test_wf_board : Board.wf goodBoard = true := by decide

theorem test_illformed_board : ∀ b ∈ [{ goodBoard with flash := some [(65536, 1)] }, { goodBoard with fuses := some { State.reset.mgt.nvm.fuses with fwKeyHash := [] } },
    { goodBoard with fuses := some { State.reset.mgt.nvm.fuses with fwRevoked := [] } }, { goodBoard with fuses := some { State.reset.mgt.nvm.fuses with setPoints := [] } },
    { goodBoard with fuses := some { State.reset.mgt.nvm.fuses with ownerHash := some [1] } }], Board.wf b = false := by decide

theorem test_illformed_dimm : ∀ x ∈ [{ (default : Dimm) with channel := 16 }, { (default : Dimm) with slot := 2 }], Dimm.wf x = false := by decide

theorem test_illformed_start : ∀ c ∈ [Instr.internalRelease false 0 (some { goodBoard with flash := some [(65536, 1)] }), .farTierTrained [{ (default : Dimm) with channel := 16 }],
    .powerControlTick ⟨0, [], List.replicate 8 0⟩, .powerControlTick ⟨0, List.replicate 32 0, []⟩, .pmbusPollRound [], .pmbusAlert []], Instr.wf c = false := by decide +kernel

theorem test_illformed_memory : ∀ c ∈ [Instr.patrolScrub (2 ^ 44) default, .atsInvalidateRequest 0 0 0 2048, .atsInvalidateRequest 0 0 0 12288, .atsInvalidateRequest 0 0 4096 8192,
    .combiningEntryApply (2 ^ 44), .birsp 0 32 none false, .birsp 0 64 (some []) false, .snoopTimeout (2 ^ 44) default, .completeTimeout (2 ^ 44), .guardWriteTimeout (2 ^ 44)],
    Instr.wf c = false := by decide +kernel

theorem test_illformed_tasks : ∀ c ∈ [Instr.taskRecordWrite 0 (2 ^ 22) (zeros 128), .taskRecordWrite 0 0 [], .taskRecordWrite 0 0 (zeros 4097), .slotCloseDone 1024, .contextTimeSlice 64,
    .taskPost { goodMsg with opcode := 256 }, .rtReserve default { goodMsg with opcode := 256 }, .rtClose default { goodMsg with opcode := 256 }], Instr.wf c = false := by decide +kernel

theorem test_illformed_coherence : ∀ c ∈ (let q := { goodMsg with opcode := 256 }
    [Instr.readShared default q, .readOwn default q, .readNoalloc default q, .writeNoalloc default q, .atomic default q, .wbReq q, .writeLine q, .writePart q, .fwd q, .snpInv q, .snpShare q,
      .snpCur q, .invAck q, .snpAck q, .grant q, .acksDone q, .complete q, .wbGo q, .wbDone q, .data q, .dataRet q, .ack q, .wake q, .redirect q, .addFloat q, .atomicRet q, .addU64 q,
      .tallyWatch q, .tallyUnwatch q, .tokenPost q, .mgmtRead q, .opMessage q]), Instr.wf c = false := by decide

theorem test_illformed_link : ∀ c ∈ [Instr.payloadFlit 0 [], .idleFlit 0 [], .signalFound 0 10, .ident 0 { (default : Ident) with id := 2 ^ 14 }, .ident 0 { (default : Ident) with cohMode := 3 },
    .ident 0 { (default : Ident) with epochs := [256] }, .opMessagePartialTimeout (2 ^ 14)], Instr.wf c = false := by decide +kernel

theorem test_illformed_resilience : ∀ c ∈ (let w := { goodWhist with kind := 0 }
    [Instr.beat 0 w, .suspect 0 w, .verdict 0 w, .suspectHoldExpiry (2 ^ 14) 0, .suspectHoldExpiry 0 (2 ^ 14), .whistSilenceExpiry (2 ^ 14), .whistDecideExpiry (2 ^ 14)]), Instr.wf c = false := by decide +kernel

theorem test_illformed_host : ∀ c ∈ [Instr.hostMemoryRead 0 0 0 1, .hostMemoryRead 0 0 4097 1, .hostMemoryRead 0 0 4 (2 ^ 14), .hostMemoryWrite 0 0 [] false, .cxlMemRead 0 32 .any 1,
    .cxlMemRead 0 64 .any (2 ^ 16), .cxlMemWrite 0 32 (zeros 64) 0 false, .cxlMemWrite 0 64 [] 0 false, .slotTableRead 0 0x804, .slotTableRead 0 0x7F8, .slotTableRead 0 0x1000,
    .outboundCompletionTimeout 0 (2 ^ 14), .unexpectedCompletion 0 (2 ^ 14), .outboundReadCompletion 0 (2 ^ 14) default], Instr.wf c = false := by decide +kernel

theorem test_illformed_security : ∀ c ∈ [Instr.getCertificate 0 8 0 0, .getCertificate 0 0 65536 0, .getCertificate 0 0 0 65536, .challenge 0 8 (zeros 32), .challenge 0 0 [],
    .getMeasurements 0 256 false [], .getMeasurements 0 1 true [], .mbistStart default [{ (default : Dimm) with slot := 2 }], .mbistDone (List.replicate 25 default) [],
    .mbistDone [] (List.replicate 9 default)], Instr.wf c = false := by decide +kernel

theorem test_wf_host : ∀ c ∈ [Instr.hostMemoryRead 0 0 4096 (2 ^ 14 - 1), .cxlMemRead 0 64 .any (2 ^ 16 - 1), .slotTableRead 1 0xFF8, .atsInvalidateRequest 0 0 8192 8192, .slotCloseDone 1023],
    Instr.wf c = true := by decide

/-! ### Values worked out in the spec and by hand from it -/

/-- R298, Table 1: the check values, over the ASCII digits 1 to 9. -/
theorem test_crc_check_values : (List.range 4).map (fun i => crc (i + 1) (ascii "123456789")) = [0xE3069283, 0xCBF43926, 0x6C40DF5F0B497347, 0x29B1] := by decide +kernel

/-- R194, worked example: the scale byte of a block whose largest output is 913.7 is 0x80, and 913.7 becomes 448 (0x7E) in every mode. -/
theorem test_mx_scale : mxScale 0x11 [.fin false 12133282 (-30), .fin true 958083891 (-20)] = 0x80
    ∧ mxElem 0x11 .rne 0x80 (.fin false 958083891 (-20)) = 0x7E ∧ mxElem 0x11 .rtz 0x80 (.fin false 958083891 (-20)) = 0x7E := by decide +kernel

/-- R194, worked example: 0.0113 under the same scale gives 3 × 2⁻⁹ to nearest, 2 × 2⁻⁹ truncated, and stochastically up from a draw of about 7,020 on, since D is about 58,520. -/
theorem test_mx_element : mxElem 0x11 .rne 0x80 (.fin false 12133282 (-30)) = 3 ∧ mxElem 0x11 .rtz 0x80 (.fin false 12133282 (-30)) = 2
    ∧ mxElem 0x11 (.sr 7100) 0x80 (.fin false 12133282 (-30)) = 3 ∧ mxElem 0x11 (.sr 7000) 0x80 (.fin false 12133282 (-30)) = 2 := by decide +kernel

/-- R193, Table 5: an overflow in E4M3 is NaN with SAT 0 and 448 with SAT 1; RTZ gives 448 whatever SAT. -/
theorem test_e4m3_overflow : [(Round.rne, false), (.rne, true), (.rtz, false)].map (fun x => encodeFloat e4m3 x.1 x.2 (.fin false 1000 0)) = [0x7F, 0x7E, 0x7E] := by decide +kernel

/-- R394: in GF(2⁸) with the polynomial 0x11D, 2 × 0x80 is 0x1D, and 2² × 0x41 is 0x19. -/
theorem test_stripe : stripeScale 1 [0x80, 0x01] = [0x1D, 0x02] ∧ stripeScale 2 [0x41] = [0x19] := by decide +kernel

/-- FIPS 197, Figure 7: the substitution of 00 is 63, and that of 53 is ED (R420). -/
theorem test_aes_substitution : [0x00, 0x53].map aesSub = [0x63, 0xED] := by decide +kernel

/-- FIPS 180-4: SHA-512 of abc begins DD AF 35 A1 (R413). -/
theorem test_sha512 : (sha512 (ascii "abc")).take 4 = [0xDD, 0xAF, 0x35, 0xA1] := by decide +kernel

/-- R317, worked example: the two windows of package 3's west port. -/
def exampleMgt : Mgt :=
  { (running testImage id).mgt with image := some { testImage with windows := [⟨false, 0, 0, 0, 16, 0x400000000, 3 * 2 ^ 50 + 2 ^ 34, 0⟩, ⟨false, 0, 0, 0, 8, 0x800000000, 0x000C000040000000, 0⟩] } }

/-- R317: B is 16 GiB and E 40 GiB, so BAR4 requests 32 GiB; offset 0x4_8000_0040 is pool address 0x000C_0000_C000_0040, and offset 0x7_0000_0000 lies in no window. -/
theorem test_bar_windows : barSize exampleMgt 0 = 2 ^ 35 ∧ cxlPool exampleMgt 0 ((barSpan exampleMgt 0).1 + 0x480000040) = 0x000C0000C0000040
    ∧ windowAt exampleMgt 0 ((barSpan exampleMgt 0).1 + 0x700000000) = none := by decide +kernel

/-- R19, Table 5: word 0 of an RDX-96-A before its sizes are final. -/
theorem test_size_table : sizeWord State.reset.mgt 0 = 0x0180080810014000 := by decide

/-- The chapter "Snapshots and KV sessions", worked example: a page of 8 heads of 128 FP8 elements takes four frames, and its summary 6,208 bytes. -/
theorem test_kv_page : (let g := { (default : Region) with kvHeads := 8, kvDim16 := 8, kvFormat := 1 }; (g.kvFrames, g.summaryLen)) = (4, 6208) := by decide

/-- R125, Table 2: line 5, OWNED by the package in pointer 0. -/
theorem test_directory_words : (let e := { (default : DirEntry) with line := 5, owned := true, ptrs := [7] }; (dirWord0 e, dirWord1 e 0)) = (0x520002, 7 * 2 ^ 50) := by decide

/-- R383, Table 1: a SUSPECT of package 7 by package 6 to package 5 under epoch 3. -/
theorem test_whist_bytes : (whistBytes ⟨2, 3, 6, 7, 0, 5, false, 9, []⟩).take 24 = wordsBytes [2 * 2 ^ 60 + 3 * 2 ^ 52 + 6 * 2 ^ 38 + 7 * 2 ^ 24, 5 * 2 ^ 50, 9] := by decide +kernel

/-- R488, Table 3: BOOT_SEL 00 tries A then B, 01 B then A, and 10 A alone. -/
theorem test_copy_order : [0, 1, 2].map copyOrder = [[false, true], [true, false], [false]] := by decide

/-- R222: a reservation of 5 in a bank of capacity 8 that holds 6 grants 2 from place 6 on, and leaves it full. -/
theorem test_reserve : (let c := rtReserve (natBytes 4 6 ++ natBytes 4 9 ++ natBytes 8 (8 * 2 ^ 48)) 9 5; (c.data.take 8, c.arg)) = (natBytes 4 8 ++ natBytes 4 9, 6 * 2 ^ 32 + 2) := by decide +kernel

/-- R312: a PCIE port never trains as CXL, and a port whose PERST_N is low does not train. -/
theorem test_training : (match exec (.hostLinkTrained 0 true 8 0x40) { running testImage id with pending := [] } with | .next t => (t.dp.hostPort 0).mode | _ => 9) = 2 := by decide +kernel

/-- A step on an empty queue leaves the state (log entry 1). -/
theorem test_idle : step State.reset = .next State.reset := by rfl

/-- A step takes the command at the front: LTB counts one tick, and the second command still waits. -/
theorem test_front : (match step { running testImage id with pending := [.ltbTick, .selfFence] } with | .next t => (t.mgt.clk.ltb, t.pending) | _ => (9, [])) = (1, [.selfFence]) := by decide +kernel

/-! ### States and operands that meet the statements' hypotheses -/

theorem wit_StepRunsFrontCommand :
    ({ State.reset with pending := [.resetNFall, .ltbTick] } : State).pending = .resetNFall :: [.ltbTick] ∧ State.reset.pending = [] := by
  decide

theorem wit_ResetsLoseThePoolAndKeepFlash_a : Instr.thermalTrip ∈ [Instr.resetNFall, .pwrokFall, .brownOut, .thermalTrip] := by decide

theorem wit_ResetsLoseThePoolAndKeepFlash_b : Instr.resetNFall ∈ [Instr.resetNFall, .pwrokFall, .brownOut, .thermalTrip] := by decide

theorem wit_InternalReleaseRunsBootRom :
    (State.reset.mgt.clk.phase = .inReset ∨ State.reset.mgt.clk.phase = .off) ∧ State.reset.mgt.pwr.thermTrip = false := by decide

theorem wit_FirmwareAndImageCopiesAreTried_a :
    ∃ s : State, s.mgt.clk.phase = .firmware ∧ s.mgt.pwr.sagVdd = false ∧ (copyOrder s.mgt.clk.bootSel)[s.mgt.clk.copiesTried]? = some false :=
  ⟨{ State.reset with mgt := { Mgt.reset with clk := { Clk.reset with phase := .firmware } } }, by decide⟩

theorem wit_FirmwareAndImageCopiesAreTried_b :
    ∃ s : State, s.mgt.clk.phase = .image ∧ s.mgt.pwr.sagVdd = false ∧ (copyOrder s.mgt.clk.bootSel)[s.mgt.clk.copiesTried]? = some false :=
  ⟨{ State.reset with mgt := { Mgt.reset with clk := { Clk.reset with phase := .image } } }, by decide⟩

theorem wit_StartEndsInRunning :
    (∃ s : State, s.mgt.clk.phase = .loading ∧ s.mgt.clk.farDone = false)
    ∧ ∃ s : State, s.mgt.clk.phase = .loading ∧ s.mgt.clk.farDone = true ∧ s.mgt.clk.engDone = true :=
  ⟨⟨{ State.reset with mgt := { Mgt.reset with clk := { Clk.reset with phase := .loading } } }, by decide⟩,
    ⟨{ State.reset with mgt := { Mgt.reset with clk := { Clk.reset with phase := .loading, farDone := true, engDone := true } } }, by decide⟩⟩

theorem wit_SagThresholdUsesLowerSetPoint : ∃ s : State, s.mgt.pwr.commandTick = some 7 :=
  ⟨{ State.reset with mgt := { Mgt.reset with pwr := { Pwr.reset with commandTick := some 7 } } }, by decide⟩

theorem wit_EngAndLtbMoveStepByStep_a :
    (∃ s : State, s.mgt.clk.phase = .loading ∧ s.mgt.clk.engDone = false ∧ s.mgt.pwr.pendingMhz = none ∧ s.mgt.clk.engLast + 1000 ≤ s.mgt.clk.ltb)
    ∧ (∃ s : State, s.mgt.pwr.pendingMhz = some 1200 ∧ s.mgt.pwr.commandTick = some 5)
    ∧ ∃ s t : State, exec .engClockStep s = .next t ∧ t.mgt.clk.engMhz ≠ s.mgt.clk.engMhz :=
  ⟨⟨{ State.reset with mgt := { Mgt.reset with clk := { Clk.reset with phase := .loading, ltb := 1000 } } }, by decide⟩,
    ⟨{ State.reset with mgt := { Mgt.reset with pwr := { Pwr.reset with pendingMhz := some 1200, commandTick := some 5 } } }, by decide⟩,
    ⟨{ State.reset with mgt := { Mgt.reset with clk := { Clk.reset with phase := .loading, ltb := 1000 } } }, _, rfl, by decide⟩⟩

theorem wit_PowerControlActsOnItsFirstCause :
    ∃ s : State, (s.mgt.clk.phase = .loading ∨ s.mgt.clk.phase = .running) ∧ s.mgt.clk.phase ∉ [Phase.inReset, .off, .halted]
      ∧ s.mgt.pwr.sagVdd = false ∧ s.mgt.pwr.words[3]? = some 0 :=
  ⟨{ State.reset with mgt := { Mgt.reset with clk := { Clk.reset with phase := .running } } }, by decide⟩

theorem wit_NonvolatileWritesTakeEffectOutsideSags_a :
    (true = true ∨ false = true) ∧ State.reset.mgt.comp.accepted = none
    ∧ ∃ s : State, s.mgt.sag = true ∧ s.mgt.sec.i3cHeld = [] ∧ s.mgt.clk.phase ≠ .inReset ∧ s.mgt.clk.phase ≠ .off ∧ s.mgt.nvm.ops.head? ≠ none :=
  ⟨by decide, by decide, ⟨{ State.reset with mgt := { Mgt.reset with
    clk := { Clk.reset with phase := .running }, pwr := { Pwr.reset with sagVdd := true }
    nvm := { Nvm.reset with ops := [⟨.erase 0, .imageWrite, true, true⟩] } } }, by decide⟩⟩

theorem wit_NonvolatileWritesTakeEffectOutsideSags_b :
    ∃ (s : State) (o : NvOp) (rest : List NvOp), s.mgt.nvm.ops = o :: rest ∧ o.begun = true ∧ o.suspended = false ∧ cellWf 0xFF s.mgt.nvm.flash = true :=
  ⟨{ State.reset with mgt := { Mgt.reset with nvm := { Nvm.reset with ops := [⟨.erase 0, .imageWrite, true, false⟩], flash := [(3, 0), (65536, 1)] } } },
    ⟨.erase 0, .imageWrite, true, false⟩, [], by decide⟩

theorem wit_MapMessagesMoveEpochs : ∀ code ∈ [0x10, 0x11, 0x12], ∃ (s : State) (a : Accepted), s.mgt.comp.accepted = some a ∧ a.code = code := by
  intro code _
  exact ⟨accepting code (zeros 8), ⟨code, zeros 8, .mctp 2, 0⟩, rfl, rfl⟩

theorem wit_PartitionMessagesAct_accepted : ∀ code ∈ [0x18, 0x19], ∃ (s : State) (a : Accepted), s.mgt.comp.accepted = some a ∧ a.code = code := by
  intro code _
  exact ⟨accepting code (zeros 8), ⟨code, zeros 8, .mctp 2, 0⟩, rfl, rfl⟩

theorem wit_PartitionMessagesAct_slot :
    ∃ (s : State) (x : Slot) (e : SlotEntry), x ∈ s.dp.tasks.slots ∧ s.mgt.slotEntry x.number = some e ∧ x.state = .unbound
      ∧ e.partition = fieldAt (zeros 8) 0 63 58 ∧ ownerBound s.mgt s.dp e = true :=
  ⟨running testImage fun d => { d with
      tasks := { d.tasks with slots := [⟨0, .unbound, 0, 0⟩] }, hosts := { d.hosts with leases := [{ HostLease.reset with state := 1 }, HostLease.reset] } },
    ⟨0, .unbound, 0, 0⟩, ⟨0, 0x4000, 0, 4, 0⟩, by decide⟩

theorem wit_PartitionMessagesAct_drain : ∃ (s : State) (p : Fin 64), s.mgt.attach p.val = 2 ∧ drained s.mgt s.dp p.val = true :=
  ⟨{ State.reset with mgt := { Mgt.reset with parts := [(5, 2)] } }, 5, by decide⟩

theorem wit_SparesTakeOver_accepted : ∀ code ∈ [0x20, 0x21], ∃ (s : State) (a : Accepted), s.mgt.comp.accepted = some a ∧ a.code = code := by
  intro code _
  exact ⟨accepting code (zeros 8), ⟨code, zeros 8, .mctp 2, 0⟩, rfl, rfl⟩

theorem wit_SparesTakeOver_states :
    (∃ s : State, s.mgt.comp.engaged = some (7, 8, 0) ∧ s.mgt.comp.engageReady = false)
    ∧ (∃ s : State, s.mgt.comp.engaged = some (7, 8, 0) ∧ s.mgt.comp.engageReady = true ∧ s.mgt.comp.rebuilding = true)
    ∧ ∃ s : State, s.mgt.comp.resyncing = true :=
  ⟨⟨{ State.reset with mgt := { Mgt.reset with comp := { Comp.reset with engaged := some (7, 8, 0) } } }, by decide⟩,
    ⟨{ State.reset with mgt := { Mgt.reset with comp := { Comp.reset with engaged := some (7, 8, 0), engageReady := true, rebuilding := true } } }, by decide⟩,
    ⟨{ State.reset with mgt := { Mgt.reset with comp := { Comp.reset with resyncing := true } } }, by decide⟩⟩

theorem wit_DebugSetMovesTheLevel :
    (∃ (s : State) (a : Accepted), s.mgt.comp.accepted = some a ∧ a.code = 0x30) ∧ ∃ s : State, s.mgt.sec.opening = true :=
  ⟨⟨accepting 0x30 (zeros 8), ⟨0x30, zeros 8, .mctp 2, 0⟩, rfl, rfl⟩,
    ⟨{ State.reset with mgt := { Mgt.reset with sec := { Sec.reset with opening := true } } }, by decide⟩⟩

theorem wit_PowerStatesFollowTheirMessages_accepted : ∀ code ∈ [0x31, 0x32], ∃ (s : State) (a : Accepted), s.mgt.comp.accepted = some a ∧ a.code = code := by
  intro code _
  exact ⟨accepting code [], ⟨code, [], .mctp 2, 0⟩, rfl, rfl⟩

theorem wit_PowerStatesFollowTheirMessages_states :
    (∃ s : State, s.mgt.sec.retaining = true ∧ s.dp.coh.trackers.any (·.cause = 3) = false ∧ s.dp.coh.remote.any (·.state = 3) = false)
    ∧ (∃ s : State, s.mgt.sec.waking = true)
    ∧ ∃ s : State, s.mgt.clk.phase = .running ∧ s.mgt.sec.power = .run ∧ s.dp.tasks.ctxs = [] ∧ s.dp.tasks.tasks.any (·.unitHeld) = false
      ∧ s.dp.tasks.idleSince + s.mgt.timers.idleDelayUs * 100 ≤ s.mgt.clk.ltb :=
  ⟨⟨{ State.reset with mgt := { Mgt.reset with sec := { Sec.reset with retaining := true } } }, by decide⟩,
    ⟨{ State.reset with mgt := { Mgt.reset with sec := { Sec.reset with waking := true } } }, by decide⟩,
    ⟨{ State.reset with mgt := { Mgt.reset with clk := { Clk.reset with phase := .running } } }, by decide⟩⟩

theorem wit_ObservationAndImageMessagesAct :
    (∃ (s : State) (a : Accepted), s.mgt.comp.accepted = some a ∧ a.code = 0x40 ∧ a.tick < s.mgt.clk.ltb)
    ∧ (∃ (s : State) (a : Accepted), s.mgt.comp.accepted = some a ∧ a.code = 0x41)
    ∧ (∃ (s : State) (a : Accepted), s.mgt.comp.accepted = some a ∧ a.code = 0x50 ∧ s.dp.fab.points.length = 12)
    ∧ ∃ (s : State) (a : Accepted), s.mgt.comp.accepted = some a ∧ a.code = 0x60 ∧ s.mgt.nvm.ops = [] ∧ s.mgt.mayWrite = true :=
  ⟨⟨accepting 0x40 (zeros 32), ⟨0x40, zeros 32, .mctp 2, 0⟩, rfl, rfl, by decide⟩, ⟨accepting 0x41 (zeros 32), ⟨0x41, zeros 32, .mctp 2, 0⟩, rfl, rfl⟩,
    ⟨accepting 0x50 (zeros 48), ⟨0x50, zeros 48, .mctp 2, 0⟩, rfl, rfl, by decide⟩, ⟨accepting 0x60 (zeros 32), ⟨0x60, zeros 32, .mctp 2, 0⟩, rfl, rfl, rfl, by decide⟩⟩

theorem wit_OperationalMessagesJoinAndAreChecked_a :
    ∃ (s : State) (e : Fin 3) (b : Bytes), mctpServes s.mgt s.dp e.val = true ∧ (e = 2 → s.mgt.pwr.sagVdd = false)
      ∧ (s.mgt.image = none ∨ fieldAt b 0 36 23 = s.mgt.self) :=
  ⟨{ State.reset with mgt := { Mgt.reset with clk := { Clk.reset with phase := .running } } }, 2, zeros 128, by decide⟩

theorem wit_OperationalMessagesJoinAndAreChecked_b :
    (∃ (s : State) (q : Msg), q.opcode = 0x29 ∧ s.dp.fab.whist.fenced = false ∧ ¬q.epoch ∉ s.mgt.epochs ∧ s.mgt.comp.partials = []
      ∧ bits q.arg 15 0 = 1 ∧ bits q.arg 31 16 = 0)
    ∧ ∃ (s : State) (q : Msg), q.opcode = 0x29 ∧ ¬q.epoch ∉ s.mgt.epochs ∧ 1 < bits q.arg 15 0 ∧ bits q.arg 31 16 < bits q.arg 15 0 :=
  ⟨⟨running testImage id, { (default : Msg) with opcode := 0x29, arg := 1 }, by decide⟩,
    ⟨running testImage id, { (default : Msg) with opcode := 0x29, arg := 0x10002 }, by decide⟩⟩

theorem wit_MctpEndpointsAnswer_a :
    ∃ (s : State) (e : Fin 3), mctpServes s.mgt s.dp e.val = true ∧ (e = 2 → s.mgt.pwr.sagVdd = false) ∧ (s.mgt.endpoint e.val).algorithms = true
      ∧ 0 < (chainBytes s.mgt).length :=
  ⟨{ State.reset with mgt := { Mgt.reset with
      clk := { Clk.reset with phase := .running }
      nvm := { Nvm.reset with fuses := { Fuses.blank with chain := [⟨[1], [2], [3]⟩] } }
      sec := { Sec.reset with endpoints := List.replicate 3 { Endpoint.reset with version := true, capabilities := true, algorithms := true } } } }, 2, by decide⟩

theorem wit_MctpEndpointsAnswer_b : ∃ s : State, mctpServes s.mgt s.dp 2 = true ∧ s.mgt.pwr.sagVdd = true :=
  ⟨{ State.reset with mgt := { Mgt.reset with clk := { Clk.reset with phase := .running }, pwr := { Pwr.reset with sagVdd := true } } }, by decide⟩

theorem wit_DebugPortObeysItsLevel :
    let s := debugging .observe { DbgPort.reset with space := 3 } id
    dbgSelected s.mgt = true ∧ dbgBusy s.mgt s.dp = false ∧ permits s.mgt s.mgt.sec.dbg.space 1 (s.mgt.sec.dbg.addr.toNat / 8 * 8) = true
    ∧ permits s.mgt s.mgt.sec.dbg.space 3 0 = true ∧ permits s.mgt s.mgt.sec.dbg.space 2 (s.mgt.sec.dbg.addr.toNat / 8 * 8) = false
    ∧ dbgSelected State.reset.mgt = false
    ∧ (debugging .sealed DbgPort.reset id).mgt.sec.level = .sealed ∧ permits (debugging .sealed DbgPort.reset id).mgt 0 1 0x278 = true := by decide

theorem wit_DebugAndRegisterWritesReachTheirSpace_a :
    writing (debugging .opened { DbgPort.reset with space := 2, addr := 0x060008 } id) 2
    ∧ (let s := debugging .opened { DbgPort.reset with space := 6, addr := 0x14000000000040 } id
      writing s 6 ∧ poolPlace s.mgt s.dp (s.mgt.sec.dbg.addr.toNat / 8 * 8) = some 0x40 ∧ Memory.wf s.dp.store.mem = true)
    ∧ (let s := debugging .opened { DbgPort.reset with space := 4, addr := 0x10 } id
      writing s 4 ∧ s.mgt.sec.dbg.addr.toNat / 8 * 8 < 2 ^ 29)
    ∧ ∃ s : State, s.dp.obs.shadows = some [1] :=
  ⟨by decide, by decide, by decide, ⟨{ State.reset with dp := { Dp.reset with obs := { Obs.reset with shadows := some [1] } } }, by decide⟩⟩

theorem wit_DebugAndRegisterWritesReachTheirSpace_b :
    dbgSelected (debugging .opened DbgPort.reset id).mgt = true ∧ bits (0x0100000000000000 : BitVec 64).toNat 63 56 = 1
    ∧ (7 : Fin 32768).val ∉ [2, 3, 4, 5, 6] ∧ selected (testing 0x12 []).mgt 0x12 = true ∧ (5 : BitVec 64).getLsbD 63 = false
    ∧ dbgSelected State.reset.mgt = false ∧ selected State.reset.mgt 0x10 = false ∧ selected State.reset.mgt 0x11 = false ∧ selected State.reset.mgt 0x12 = false := by decide

theorem wit_TapInstructionsAreAdmittedByState :
    admits State.reset.mgt (0x77 : BitVec 8).toNat = false ∧ admits (debugging .observe DbgPort.reset id).mgt 0x08 = true
    ∧ admits (debugging .opened DbgPort.reset id).mgt 0x02 = true ∧ admits (testing 0x03 []).mgt 0x03 = true := by decide

theorem wit_LaneTestWordsAct :
    (let s := testing 0x10 [{ LaneTest.reset 9 with rxEn := true, lock := true, loop := 1, injectBits := 3 }, { LaneTest.reset 10 with rxEn := true }]; selected s.mgt 0x10 = true ∧ (s.mgt.lane 9).lock = true ∧ (s.mgt.lane 9).loop = 1 ∧ (s.mgt.lane 10).rxEn = true ∧ (s.mgt.lane 10).lock = false)
    ∧ (let s := testing 0x12 []; selected s.mgt 0x12 = true ∧ s.mgt.tap.ir = 0x12 ∧ s.mgt.clk.phase = .held ∧ s.mgt.tap.mbistBusy = false ∧ admits s.mgt 0x12 = true ∧ admits s.mgt 0x11 = true ∧ s.mgt.clk.phase ≠ .running)
    ∧ (∃ s : State, s.mgt.tap.mbistBusy = true ∧ bitAt s.mgt.tap.mbistMask 3 = true ∧ bitAt s.mgt.tap.mbistMask 4 = false ∧ s.mgt.tap.channels[3]? = some 0 ∧ s.mgt.tap.channels[4]? = some 0)
    ∧ (2 : BitVec 64).getLsbD 1 = true ∧ (0x4000000000000000 : BitVec 64).getLsbD 62 = true ∧ (0x8000000000000000 : BitVec 64).getLsbD 63 = true :=
  ⟨by decide, by decide, ⟨{ State.reset with mgt := { Mgt.reset with tap := { Tap.reset with mbistBusy := true, mbistMask := 8 } } }, by decide⟩, by decide, by decide, by decide⟩

theorem wit_MessageHeaderRoundTrips :
    Msg.wf ⟨0x60, 4, 7, 3, 63, 255, 0x3FFF, 0x1234, true, true, 0xFFFF, 0xABCD, 0x05, 0x3FF, 0x2001, 2 ^ 64 - 1, 2 ^ 63 + 1, zeros 64⟩ = true := by decide

theorem wit_FlitsAreTakenInOrder_message :
    ∃ (s : State) (x : DarPort) (q : Msg), s.dp.fab.ports[1]? = some x ∧ x.state.carries = true ∧ x.loop = false ∧ x.rxUnits = [] ∧ x.rxSeq < 4096
      ∧ q.wf = true ∧ malformed q = false ∧ q.payload.length ≤ 208 ∧ x.rxEpisode = none ∧ Sendable x ∧ flitSound [] = false :=
  ⟨linked { DarPort.reset with state := .up, rxSeq := 4095 }, { DarPort.reset with state := .up, rxSeq := 4095 },
    { (default : Msg) with opcode := 0x06, cls := 0, payload := zeros 64 }, by decide⟩

theorem wit_FlitsAreTakenInOrder_episode :
    ∃ (s : State) (x : DarPort) (e : Nat × Nat), s.dp.fab.ports[1]? = some x ∧ x.state.carries = true ∧ x.rxEpisode = some e ∧ flitSound [] = false :=
  ⟨linked { DarPort.reset with state := .replay, rxEpisode := some (0, 0) }, { DarPort.reset with state := .replay, rxEpisode := some (0, 0) }, (0, 0), by decide⟩

theorem wit_FlitsAreTakenInOrder_idle :
    ∃ (s : State) (x : DarPort) (old kept : List (Nat × Nat × Bytes)) (f : Bytes), s.dp.fab.ports[1]? = some x ∧ x.state.carries = true
      ∧ x.replayBuf = old ++ (3, 0, []) :: kept ∧ (∀ o ∈ old, o.1 ≠ 3) ∧ flitSound f = true ∧ fieldAt f 0 63 60 = 0 ∧ bits (wordAt f 0) 47 36 = 3 :=
  ⟨linked { DarPort.reset with state := .up, replayBuf := [(2, 0, []), (3, 0, []), (4, 0, [])] },
    { DarPort.reset with state := .up, replayBuf := [(2, 0, []), (3, 0, []), (4, 0, [])] }, [(2, 0, [])], [(4, 0, [])],
    flitOf (flitHeader 0 0 3 0xF 0 0xF) [], by decide, by decide, by decide, by decide, Laws.flitOf_sound _ _, by
      unfold fieldAt; rw [Laws.flitOf_header _ _ (by decide)]; decide, by
      rw [Laws.flitOf_header _ _ (by decide)]; decide⟩

theorem wit_ReplaySendsKeptFlitsAgain :
    ∃ (s : State) (x : DarPort) (old kept : List (Nat × Nat × Bytes)), s.dp.fab.ports[1]? = some x ∧ (x.state = .up ∨ x.state = .self ∨ x.state = .replay)
      ∧ x.replayBuf = old ++ ((3 : Fin 4096).val, 0, [7]) :: kept ∧ (∀ o ∈ old, o.1 ≠ (3 : Fin 4096).val) ∧ (∀ f ∈ x.replayBuf, f.1 ≠ (9 : Fin 4096).val)
      ∧ x.replayBuf.head? = some (2, 0, [6]) ∧ 0 + 400 ≤ s.mgt.clk.ltb :=
  ⟨linked { DarPort.reset with state := .up, replayBuf := [(2, 0, [6]), (3, 0, [7])] },
    { DarPort.reset with state := .up, replayBuf := [(2, 0, [6]), (3, 0, [7])] }, [(2, 0, [6])], [], by decide⟩

theorem wit_PortsFollowTheirStates :
    (linked { DarPort.reset with state := .detect }).dp.fab.ports[(1 : Fin 8).val]? = some { DarPort.reset with state := .detect }
    ∧ (linked DarPort.reset).mgt.darTesting 1 = false ∧ 4 ≤ (setBits 9 (0x0F : BitVec 9).toNat).length
    ∧ Quiet (linked DarPort.reset).dp ∧ (linked DarPort.reset).mgt.sec.power ≠ .retain
    ∧ 0 + 50000000 ≤ (linked DarPort.reset).mgt.clk.ltb ∧ 0 + (linked DarPort.reset).mgt.timers.retryBudgetUs * 100 < (linked DarPort.reset).mgt.clk.ltb :=
  ⟨by decide, by decide, by decide, ⟨rfl, rfl, by decide⟩, by decide, by decide, by decide⟩

theorem wit_LaneEightTakesOver :
    let x : DarPort := { DarPort.reset with state := .up, trained := [0, 1, 2, 3, 4, 5, 6, 7, 8] }
    (linked x).dp.fab.ports[(1 : Fin 8).val]? = some x ∧ x.state.carries = true ∧ (3 : Fin 9).val ∈ x.active ∧ x.spared = none ∧ 8 ∈ x.trained ∧ 8 ∉ x.active
    ∧ x.mapAwaited = false ∧ x.txSpared = none ∧ Sendable x := by decide

theorem wit_GrantsGoWholeAndDealsTakeTurns_a :
    (let s := queued 2 ⟨{ (default : Msg) with opcode := 0x58 }, none, 3, 0, 0, 0, 0, 0⟩; s.dp.fab.ports[(0 : Fin 8).val]? = some { DarPort.reset with state := .up } ∧ Sendable { DarPort.reset with state := .up } ∧ s.dp.fab.points[2 + (0 : Fin 8).val]? = some
        { Point.reset with queues := [⟨0, [⟨{ (default : Msg) with opcode := 0x58 }, none, 3, 0, 0, 0, 0, 0⟩], 0, 0, 0, 0, 0, (0, 0, 0, 0)⟩] }
      ∧ 0 < DarPort.reset.credits.getD 3 0 ∧ s.mgt.forerunner = false ∧ (s.mgt.queueEntry (2 + (0 : Fin 8).val) 0).metered = false ∧ 1024 ≤ (s.mgt.queueEntry (2 + (0 : Fin 8).val) 0).quantum)
    ∧ (let s := queued 10 ⟨default, some (4, [1]), 4, 1, 0, 0, 0, 0⟩; (s.dp.hostPort (0 : Fin 2).val).mode ≠ 0 ∧ (s.dp.hostPort (0 : Fin 2).val).perst = false ∧ s.dp.fab.points[10 + (0 : Fin 2).val]? = some
        { Point.reset with queues := [⟨0, [⟨default, some (4, [1]), 4, 1, 0, 0, 0, 0⟩], 0, 0, 0, 0, 0, (0, 0, 0, 0)⟩] }
      ∧ s.mgt.forerunner = false ∧ (s.mgt.queueEntry (10 + (0 : Fin 2).val) 0).metered = false ∧ 1024 ≤ (s.mgt.queueEntry (10 + (0 : Fin 2).val) 0).quantum) := by
  decide

theorem wit_GrantsGoWholeAndDealsTakeTurns_b :
    let x : Point := { Point.reset with deal := some [(1, 10), (2, 5)], entry := 1, entryStart := 10, takeover := some (15, [(3, 4)]) }
    let s := running testImage fun d => { d with fab := { d.fab with points := List.replicate 12 x } }
    s.dp.fab.points[(3 : Fin 12).val]? = some x ∧ x.entryStart + ([(1, 10), (2, 5)].getD x.entry (0, 0)).2 = 15 := by decide

theorem wit_SamplingIsSetAndNeverChangesAGrant :
    State.reset.dp.fab.sampleTicks = 0 ∧ 0x080000 ≤ 0x080008 ∧ 0x080008 < 0x083000
    ∧ (∃ (s : State) (a : Accepted), s.mgt.comp.accepted = some a ∧ a.code = 0x40 ∧ bitAt (wordAt a.body 0) 59 = true ∧ ¬s.mgt.clk.ltb ≤ a.tick)
    ∧ State.reset.dp.fab.points[0]? = some Point.reset :=
  ⟨by decide, by decide, by decide, ⟨accepting 0x40 (natBytes 8 0x0800000000000064), ⟨0x40, natBytes 8 0x0800000000000064, .mctp 2, 0⟩, by decide⟩, by decide⟩

theorem wit_ReadsReachTheirHome :
    (let s := running testImage id; let q := farMsg 0x01 []; let d := entered .daras q s.dp
      admitted s .daras q = true ∧ unhindered s.mgt d .daras q 1 .plain 64 = true ∧ setFull s.mgt d (lineOf q.addr) = false) ∧ Quiet (running testImage id).dp :=
  ⟨by decide, rfl, rfl, by decide⟩

theorem wit_ChangesReachTheirLine :
    (let s := running testImage id; let q := farMsg 0x06 (zeros 64); let d := entered .daras q s.dp
      Memory.wf s.dp.store.mem = true ∧ (s.mgt.region 1).map (·.sealed) = some false ∧ admitted s .daras q = true ∧ unhindered s.mgt d .daras q 1 .plain 64 = true ∧ heldKind s.dp q 64 = false ∧ kindOf s.mgt .daras q ≠ .own)
    ∧ Quiet (running testImage id).dp :=
  ⟨by decide, rfl, rfl, by decide⟩

theorem wit_AddsAreHeldAndApplied :
    (let s := running testImage id; let q := { farMsg 0x10 (zeros 64) with arg := 0x100000005 }
      q.opcode = 0x10 ∧ admitted s .daras q = true ∧ placeOffset s.mgt s.dp (q.addr % 2 ^ 50) = .store 1 .plain 64 ∧ (∀ p : Fin 2, hostGone s.dp p = false)
      ∧ (readLine s.mgt s.dp 1 64).2 = false ∧ frameHeld s.dp 0 = false ∧ needsCopy s.dp 1 .plain (frameIndex s.mgt 1 .plain (q.addr % 2 ^ 50)) = none)
    ∧ (let e : AddEntry := ⟨1, 5 * 2 ^ 50 + 64, 5, 1, 0, [(0, 0x3F800000)]⟩
      let s := running testImage fun d => { d with store := { d.store with combine := [e] } }
      s.dp.store.combine.find? (fun x => lineOf x.pool = 1) = some e ∧ busy s.dp 1 = false ∧ storePlace s.mgt s.dp e.pool = some (1, .plain, 64)
      ∧ s.dp.entry 1 = none ∧ Memory.wf s.dp.store.mem = true ∧ (∀ x ∈ e.sums, x.1 < 512 / fmtBits e.format) ∧ (s.mgt.region 1).map (fun g => (g.sealed, g.guard)) = some (false, 0))
    ∧ Quiet (running testImage id).dp := by
  refine ⟨by decide, by decide, rfl, rfl, by decide⟩

theorem wit_HomeFollowsItsAnswers_snoop :
    let w : Snoop := ⟨.pkg 7, .inv, 0, true, false⟩
    let k : Tracker := ⟨1, .daras, { farMsg 0x06 (zeros 64) with source := 9 }, [w], none, [], none, false, 0⟩
    let s := running testImage fun d => { d with coh := { d.coh with trackers := [k] } }
    Quiet s.dp ∧ s.dp.coh.trackers = [] ++ k :: [] ∧ k.snoops = [w] ∧ storePlace s.mgt s.dp k.req.addr = some (1, .plain, 64) ∧ w.since + s.mgt.snoopTicks ≤ s.mgt.clk.ltb
    ∧ admitted (running testImage id) .daras (farMsg 0x08 []) = true ∧ unhindered (running testImage id).mgt (entered .daras (farMsg 0x08 []) Dp.reset) .daras (farMsg 0x08 []) 1 .plain 64 = true :=
  ⟨⟨rfl, rfl, by decide⟩, rfl, rfl, by decide, by decide, by decide, by decide⟩

theorem wit_HomeFollowsItsAnswers_host :
    let w : Snoop := ⟨.host 1, .inv, 3, true, false⟩
    let k : Tracker := ⟨1, .daras, { farMsg 0x06 (zeros 64) with source := 9 }, [w], none, [], none, false, 0⟩
    let s := running { testImage with timers := { testImage.timers with snoopTimeoutMs := 1 } } fun d => { d with coh := { d.coh with trackers := [k] } }
    Quiet s.dp ∧ s.dp.coh.trackers = [] ++ k :: [] ∧ k.snoops = [w] ∧ w.sent = true ∧ lineOf (64 : BitVec 64).toNat = k.line ∧ s.mgt.clk.ltb < w.since + s.mgt.snoopTicks :=
  ⟨⟨rfl, rfl, by decide⟩, rfl, rfl, rfl, by decide, by decide⟩

theorem wit_HomeFollowsItsAnswers_complete :
    let k : Tracker := ⟨1, .daras, farMsg 0x01 [], [], some 0, [], none, false, 0⟩
    let s := running testImage fun d => { d with coh := { d.coh with trackers := [k] } }
    Quiet s.dp ∧ s.dp.coh.trackers = [] ++ k :: [] ∧ k.complete = some 0 ∧ lineOf (farMsg 0x54 []).addr = k.line ∧ k.req.source = (farMsg 0x54 []).source ∧ k.req.txn = (farMsg 0x54 []).txn :=
  ⟨⟨rfl, rfl, by decide⟩, rfl, rfl, by decide, rfl, rfl⟩

theorem wit_HomeFollowsItsAnswers_data :
    let k : Tracker := ⟨1, .daras, farMsg 0x08 [], [], none, [], some 7, false, 5⟩
    let s := running testImage fun d => { d with coh := { d.coh with trackers := [k], writebacks := [(1, 7)] } }
    Quiet s.dp ∧ (∀ x ∈ s.dp.coh.txns, x.txn ≠ (farMsg 0x60 []).txn) ∧ s.dp.coh.trackers = [] ++ k :: [] ∧ k.line = lineOf (farMsg 0x60 []).addr ∧ k.owner = some (farMsg 0x60 []).source :=
  ⟨⟨rfl, rfl, by decide⟩, by decide, rfl, by decide, rfl⟩

theorem wit_HolderAnswersItsHome :
    (let x : RemoteLine := ⟨5 * 2 ^ 44 + 1, 3, zeros 64, none, false⟩
      let s := running testImage fun d => { d with coh := { d.coh with remote := [x] } }
      owning s.dp ((farMsg 0x40 []).addr / 64) = none ∧ copyOf s.dp ((farMsg 0x40 []).addr / 64) = some x)
    ∧ Quiet (running testImage id).dp :=
  ⟨by decide, rfl, rfl, by decide⟩

theorem wit_HolderAnswersItsHome_queued :
    let k : Txn := ⟨0, .task 1, farMsg 0x04 [], 0, none, none, true, [], false⟩
    let s := running testImage fun d => { d with coh := { d.coh with txns := [k] } }
    owning s.dp ((farMsg 0x41 []).addr / 64) = some k ∧ copyOf s.dp ((farMsg 0x41 []).addr / 64) = none ∧ k.acks = true ∧ k.data = none := by
  decide

theorem wit_HolderAnswersItsHome_buffer :
    let x : RemoteLine := ⟨5 * 2 ^ 44 + 1, 3, zeros 64, none, true⟩
    let k : Txn := ⟨0, .task 0, { farMsg 0x08 [] with target := 7 }, 0, none, none, false, [], false⟩
    let s := running testImage fun d => { d with coh := { d.coh with txns := [k], remote := [x] } }
    answered s.mgt s.dp (farMsg 0x55 []) (fun r => r.opcode = 0x08) = some k ∧ bufferOf s.dp (k.msg.addr / 64) = some x := by
  decide

theorem wit_RequesterTakesItsAnswers_data :
    let k : Txn := ⟨9, .task 1, { farMsg 0x03 [] with txn := 9, target := 7 }, 0, some (zeros 64), none, false, [], false⟩
    let s := running testImage fun d => { d with coh := { d.coh with txns := [k] } }
    let q : Msg := { farMsg 0x60 (zeros 64) with txn := 9 }
    Quiet s.dp ∧ answered s.mgt s.dp q (fun r => r.opcode ≤ 0x05) = some k ∧ answered s.mgt s.dp q (fun r => r.opcode = 0x03 || r.opcode = 0x04) = some k ∧ k.dead = false ∧ k.fwds = []
    ∧ s.dp.coh.txns.find? (fun t => t.txn = q.txn && (fromTarget s.mgt t.msg.target q || t.msg.addr = q.addr)) = some k ∧ 3 ∉ s.mgt.epochs :=
  ⟨⟨rfl, rfl, by decide⟩, by decide⟩

theorem wit_RequesterTakesItsAnswers_grant :
    let k : Txn := ⟨9, .task 1, { farMsg 0x02 [] with txn := 9, target := 7 }, 0, none, none, false, [], false⟩
    let x : RemoteLine := ⟨5 * 2 ^ 44 + 1, 1, zeros 64, none, false⟩
    let s := running testImage fun d => { d with coh := { d.coh with txns := [k], remote := [x] } }
    Quiet s.dp ∧ answered s.mgt s.dp { farMsg 0x52 [] with txn := 9 } (fun r => r.opcode = 0x02 || r.opcode = 0x04) = some k
    ∧ s.dp.coh.remote.find? (fun x => x.line = k.msg.addr / 64 && !x.writeback) = some x :=
  ⟨⟨rfl, rfl, by decide⟩, by decide⟩

theorem wit_RequesterTakesItsAnswers_ack :
    let k : Txn := ⟨9, .task 1, { farMsg 0x06 [] with txn := 9, target := 7 }, 0, none, none, false, [], false⟩
    let s := running testImage fun d => { d with coh := { d.coh with txns := [k] }, tasks := { d.tasks with tasks := [{ (default : Task) with id := 1, outstanding := 1 }] } }
    Quiet s.dp ∧ answered s.mgt s.dp { farMsg 0x58 [] with txn := 9 } (fun r => 0x05 < r.opcode && r.opcode ≠ 0x08) = some k ∧ (s.dp.task 1).isSome = true
    ∧ outWindow s.mgt (farMsg 0x58 []).addr = none ∧ s.dp.coh.stamps = [] :=
  ⟨⟨rfl, rfl, by decide⟩, by decide⟩

theorem wit_RequesterTakesItsAnswers_guard :
    let k : Txn := ⟨9, .daras, { farMsg 0x06 [] with txn := 9, target := 7 }, 0, none, none, false, [], false⟩
    let w : Tracker := ⟨1, .daras, farMsg 0x06 [], [], none, [(7, 9, zeros 64, 0)], none, false, 4⟩
    let s := running testImage fun d => { d with coh := { d.coh with txns := [k], trackers := [w] } }
    Quiet s.dp ∧ answered s.mgt s.dp { farMsg 0x58 [] with txn := 9 } (fun r => 0x05 < r.opcode && r.opcode ≠ 0x08) = some k ∧ k.via = .daras ∧ w.guards = [(7, 9, zeros 64, 0)]
    ∧ storePlace s.mgt s.dp w.req.addr = some (1, .plain, 64) :=
  ⟨⟨rfl, rfl, by decide⟩, by decide⟩

theorem wit_RequesterTakesItsAnswers_return :
    let k : Txn := ⟨9, .task 1, { farMsg 0x11 [] with txn := 9, target := 7 }, 0, none, none, false, [], false⟩
    let w : Txn := { k with msg := { k.msg with opcode := 0x1B } }
    let s := fun x => running testImage fun d => { d with coh := { d.coh with txns := [x] } }
    Quiet (s k).dp ∧ answered (s k).mgt (s k).dp { farMsg 0x61 [] with txn := 9 } (fun r => r.opcode = 0x11 || r.opcode = 0x28) = some k
    ∧ Quiet (s w).dp ∧ answered (s w).mgt (s w).dp { farMsg 0x59 [] with txn := 9 } (fun r => r.opcode = 0x1B) = some w :=
  ⟨⟨rfl, rfl, by decide⟩, by decide, ⟨rfl, rfl, by decide⟩, by decide⟩

theorem wit_OtherDarasRequestsAreAnswered_watch :
    let q : Msg := { farMsg 0x1B [] with arg := 3 }
    let s := running testImage id
    Quiet s.dp ∧ gate s.mgt (takeInbox q s.dp) q = .pass ∧ storePlace s.mgt s.dp q.addr = some (1, .plain, 64) ∧ tallyValue s.mgt s.dp q.addr = some 0 ∧ (s.mgt.region 1).map (·.kind) = some 1 :=
  ⟨⟨rfl, rfl, by decide⟩, by decide⟩

theorem wit_OtherDarasRequestsAreAnswered_unwatch :
    let x : Watch := ⟨(farMsg 0x1B []).addr, 3, none, some (farMsg 0x1B []), false⟩
    let s := running testImage fun d => { d with tasks := { d.tasks with watches := [x] } }
    gate s.mgt (takeInbox (farMsg 0x1C []) s.dp) (farMsg 0x1C []) = .pass ∧ s.dp.tasks.watches = [] ++ x :: [] ∧ x.msg = some (farMsg 0x1B []) := by
  decide

theorem wit_OtherDarasRequestsAreAnswered_post :
    let q : Msg := farMsg 0x21 (List.replicate 16 7)
    let s := running testImage id
    Quiet s.dp ∧ gate s.mgt (entered .daras q s.dp) q = .pass ∧ gate s.mgt (entered .daras q s.dp) { q with addr := q.addr + (q.payload.length - 1) } = .pass
    ∧ unhindered s.mgt (entered .daras q s.dp) (.task groupBase) { q with opcode := 0x06, addr := q.addr / 64 * 64, payload := [0] } 1 .plain 64 = true
    ∧ (s.mgt.region 1).map (fun g => (g.sealed, g.guard)) = some (false, 0) :=
  ⟨⟨rfl, rfl, by decide⟩, by decide, by decide, by decide, by decide⟩

theorem wit_OtherDarasRequestsAreAnswered_read :
    (farMsg 0x28 []).epoch ∈ (running testImage id).mgt.epochs ∧ (running testImage id).dp.fab.whist.fenced = false ∧ (running testImage id).mgt.composed 5 = true := by
  decide

theorem wit_ErrorsAndFailuresOfTheTiers :
    (let f : FrameRec := ⟨0, ⟨false, 0, 0⟩, 0, 0, true, false, false, none⟩
      let s := running { testImage with pkg := { testImage.pkg with scrubHours := 24 } } fun d => { d with store := { d.store with frames := [f] } }
      s.mgt.pkg.scrubHours ≠ 0 ∧ frameFailed s.mgt s.dp (1 / 1024) = false
      ∧ frameFailed s.mgt { s.dp with store := { s.dp.store with failed := [(false, 0)] } } (1 / 1024) = true)
    ∧ (∀ x ∈ State.reset.mgt.far.trained, x.channel ≠ (3 : Fin 16).val)
    ∧ ∃ s : State, ∃ x ∈ s.mgt.far.trained, x.channel = (3 : Fin 16).val :=
  ⟨by decide, by decide, { State.reset with mgt := { Mgt.reset with far := { Far.reset with trained := [⟨3, 0, false, true, true, 64, [], 0, true, 0⟩] } } }, by decide⟩

theorem wit_FramesMoveWithTheirHeat :
    (let s := running testImage id; s.mgt.running = true ∧ s.dp.store.heatTick + s.mgt.pkg.heatEpochMs * 100000 ≤ s.mgt.clk.ltb)
    ∧ (let v : Move := ⟨3, ⟨false, 0, 1⟩, some 4, 4, List.range 65, true⟩
      let s := running testImage fun d => { d with store := { d.store with moves := [v] } }
      s.dp.store.moves = [] ++ v :: [] ∧ 64 < v.dirty.length ∧ 4 ≤ v.pass ∧ v.swap ≠ some v.frame ∧ Quiet s.dp ∧ ∀ e ∈ s.dp.store.side, v.covers (e.line / 1024) = false) :=
  ⟨by decide, rfl, by decide, by decide, by decide, ⟨rfl, rfl, by decide⟩, by decide⟩

theorem wit_CoarseCopiesAndDeadlines :
    (let g : Region := { (default : Region) with id := 1, kind := 1, coarse := 1, base := 0, length := 2 ^ 20 }
      let s := running { testImage with regions := [g] } fun d => { d with store := { d.store with frames := [⟨3, ⟨false, 0, 0⟩, 0, 0, false, true, false, none⟩] } }
      frameRegion s.mgt 3 = some g ∧ g.coarse ≠ 0 ∧ (frameRec s.mgt s.dp 3).coarseStale = true ∧ frameFailed s.mgt s.dp 3 = false)
    ∧ (let k : Task := { (default : Task) with id := 1, state := .running, record := wordsBytes [2 * 2 ^ 35] }
      let s := running testImage fun d => { d with tasks := { d.tasks with tasks := [k] }, store := { d.store with frames := [⟨3, ⟨true, 0, 0⟩, 0, 0, false, false, false, none⟩] } }
      s.dp.task 1 = some k ∧ k.state = .running ∧ k.result = none ∧ k.latePolicy = 2 ∧ (frameAt s.mgt s.dp (5 * 2 ^ 50 + 3 * 65536)).any (fun f => (frameRec s.mgt s.dp f).loc.far) = true) := by
  decide

theorem wit_TranslationsAndOutboundReads :
    (let r : XltReq := ⟨1, 2 ^ 30, 2 ^ 30, [0, 3], [1], true, 0⟩
      let o : OutRead := ⟨1, 7, 1, 4, 0, false, false, false, 0⟩
      let v : Inval := ⟨1, 5, 2 ^ 40, 4096, true⟩
      let s := running testImage fun d => { d with hosts := { d.hosts with reqs := [r], reads := [o], invals := [v] } }
      s.dp.hosts.reqs.find? (fun r => r.port = (1 : Fin 2).val && r.page = (0x40000000 : BitVec 64).toNat && r.sent) = some r ∧ invalidating s.dp r.port r.page r.bytes = false ∧ s.dp.tasks.due = []
      ∧ s.dp.hosts.invals.find? (fun v => v.port = (1 : Fin 2).val && v.itag = (5 : Fin 32).val) = some v ∧ underOld s.mgt s.dp v = false
      ∧ s.dp.hosts.reads.find? (fun r => r.port = (1 : Fin 2).val && r.tag = 7) = some o ∧ (1 : Fin 2).val < s.dp.hosts.ports.length
      ∧ (∀ r ∈ s.dp.hosts.reads, r.port = (1 : Fin 2).val → r.tag ≠ 8))
    ∧ Quiet (running testImage id).dp :=
  ⟨by decide, rfl, rfl, by decide⟩

theorem wit_RecordsAreDecidedInOrder_host :
    let s := running testImage fun d => { d with hosts := { d.hosts with ports := [{ HostPort.reset with mode := 2, memEnable := true }, HostPort.reset] } }
    (s.dp.hostPort (0 : Fin 2).val).decodes = true ∧ s.mgt.running = true ∧ s.dp.fab.whist.fenced = false ∧ overLimit s.mgt s.dp (0 : Fin 2).val = false ∧ portWrites s.dp (0 : Fin 2).val = false
    ∧ (s.dp.lease (0 : Fin 2).val).held = [] ∧ (s.dp.hostPort (1 : Fin 2).val).decodes = false ∧ (farMsg 0x20 []).source ≠ s.mgt.self ∧ s.mgt.attach (farMsg 0x20 []).partition = 1
    ∧ (s.mgt.slotEntry (farMsg 0x20 []).slot).isSome = true := by
  decide

theorem wit_RecordsAreDecidedInOrder_accepted :
    let s := running testImage fun d => { d with tasks := { d.tasks with slots := [⟨0, .open_, 7, 0⟩] } }
    let r := testRecord 0x03 7
    s.mgt.slotEntry 0 = some ⟨0, 0x4000, 0, 4, 0⟩ ∧ s.dp.slot 0 = some ⟨0, .open_, 7, 0⟩ ∧ firstFailure s.mgt s.dp ⟨0, 0x4000, 0, 4, 0⟩ ⟨0, .open_, 7, 0⟩ true (.host 0) r = none
    ∧ fieldAt r 0 63 56 = 0x03 ∧ step10 s.mgt s.dp ⟨0, 0x4000, 0, 4, 0⟩ 0x03 r = .ok none ∧ fieldAt r 5 63 62 = 0
    ∧ firstFailure s.mgt s.dp ⟨0, 0x4000, 0, 4, 0⟩ ⟨0, .open_, 8, 0⟩ true (.host 0) r = some (0x11, 8, true) ∧ firstFailure s.mgt s.dp ⟨0, 0x4000, 0, 4, 0⟩ ⟨0, .open_, 6, 0⟩ true (.host 0) r = some (0x12, 6, false)
    ∧ Quiet s.dp :=
  ⟨by decide +kernel, by decide +kernel, by decide +kernel, by decide +kernel, rfl, by decide +kernel, by decide +kernel, by decide +kernel, rfl, rfl, by decide⟩

theorem wit_SlotsAndContextsFollowTheirTasks_control :
    (let k : Task := { (default : Task) with id := 1, state := .waitContext, record := testRecord 0x01 0 }
      let s := running testImage fun d => { d with tasks := { d.tasks with tasks := [k], slots := [⟨0, .closing, 7, 0⟩] } }
      controlTask s.dp 1 [0x01] = some k ∧ s.mgt.slotEntry k.slot = some ⟨0, 0x4000, 0, 4, 0⟩ ∧ 0x4000 - 0x4000 < s.dp.hosts.leases.length ∧ s.dp.slot k.slot = some ⟨0, .closing, 7, 0⟩)
    ∧ (let k : Task := { (default : Task) with id := 1, state := .waitContext, record := testRecord 0x02 0 }
      let s := running testImage fun d => { d with tasks := { d.tasks with tasks := [k, { k with id := 2 }], slots := [⟨0, .resetting, 7, 0⟩] } }
      s.dp.task 1 = some k ∧ k.opcode = 0x02 ∧ k.result = none ∧ s.dp.task 2 = some { k with id := 2 } ∧ (∀ u ∈ s.dp.tasks.tasks, u.id = 2 → u = { k with id := 2 }))
    ∧ (let k : Task := { (default : Task) with id := 1, state := .waitContext, record := testRecord 0x03 0 }
      controlTask (running testImage fun d => { d with tasks := { d.tasks with tasks := [k] } }).dp 1 [0x03] = some k)
    ∧ (let s := running testImage fun d => { d with tasks := { d.tasks with slots := [⟨0, .resetting, 7, 0⟩] } }
      s.dp.slot 0 = some ⟨0, .resetting, 7, 0⟩ ∧ s.dp.tasks.tasks.any (·.slot = 0) = false ∧ ownsViews s.dp 0 = false)
    ∧ Quiet (running testImage id).dp :=
  ⟨by decide +kernel, by decide +kernel, by decide +kernel, by decide +kernel, rfl, rfl, by decide⟩

theorem wit_SlotsAndContextsFollowTheirTasks_context :
    (let k : Task := { (default : Task) with id := 1, state := .waitContext, record := testRecord 0x10 0 }
      let s := running testImage fun d => { d with tasks := { d.tasks with tasks := [k] } }
      s.dp.task 1 = some k ∧ k.state = .waitContext ∧ isControl k.opcode = false ∧ unitOp k.opcode = false ∧ partFull s.mgt s.dp k.part = false ∧ storeFull s.dp k = false ∧ ¬(∀ g ∈ enginesOf s.mgt k.cluster, 16 ≤ ctxCount s.dp g) ∧ s.dp.tasks.queue = [])
    ∧ (let a : Ctx := ⟨3, 0, 1, .running, 0⟩
      let b : Ctx := ⟨3, 1, 2, .ready, 0⟩
      let s : State := let r := running testImage fun d => { d with tasks := { d.tasks with ctxs := [a, b], tasks := [{ (default : Task) with id := 1, state := .running }, { (default : Task) with id := 2, state := .waitContext }] } }
        { r with mgt := { r.mgt with clk := { r.mgt.clk with ltb := 100000000 } } }
      s.dp.tasks.ctxs = [a, b] ∧ ¬(s.mgt.clk.ltb - a.since) * s.mgt.clk.engMhz / 100 < 65536 ∧ (s.dp.task b.task).map (·.state) = some .waitContext ∧ (s.dp.task a.task).map (·.state) = some .running)
    ∧ (let k : Task := { (default : Task) with id := 1, state := .waitRemote }
      let c : Ctx := ⟨3, 0, 1, .waiting, 0⟩
      let s := running testImage fun d => { d with tasks := { d.tasks with ctxs := [c], tasks := [k] } }
      s.dp.task 1 = some k ∧ s.dp.tasks.ctxs = [c] ∧ pendingReads s.dp 1 = false) := by
  decide +kernel

theorem wit_WaitsFencesAndEnds_waits :
    (let w : Watch := ⟨5 * 2 ^ 50 + 64, 0, some 1, none, false⟩
      let k : Task := { (default : Task) with id := 1, state := .waitTally, polling := true, waitAddr := 5 * 2 ^ 50 + 64, arrived := [⟨5 * 2 ^ 44 + 1, zeros 64, none⟩] }
      let s : State := let r := running testImage fun d => { d with tasks := { d.tasks with watches := [w], tasks := [k] } }
        { r with mgt := { r.mgt with clk := { r.mgt.clk with ltb := 100000000 } } }
      s.dp.tasks.watches = [w] ∧ lineOf w.addr = lineOf (64 : BitVec 64).toNat ∧ tallyValue s.mgt s.dp w.addr = some 0 ∧ s.dp.task 1 = some k ∧ ¬s.mgt.clk.ltb < k.seen + 200
      ∧ (k.arrived.find? (·.line = k.waitAddr / 64)) = some ⟨k.waitAddr / 64, zeros 64, none⟩ ∧ k.waitAddr % 64 ≤ 56 ∧ k.waitAddr % 8 = 0)
    ∧ (let k : Task := { (default : Task) with id := 1, record := testRecord 0x30 0, prog := { (default : Progress) with stage := 3 } }
      let s := running testImage fun d => { d with tasks := { d.tasks with tasks := [k] } }
      s.dp.task 1 = some k ∧ k.opcode = 0x30 ∧ k.outstanding = 0 ∧ s.dp.hosts.flushDue = [])
    ∧ Quiet (running testImage id).dp :=
  ⟨by decide +kernel, by decide +kernel, rfl, rfl, by decide⟩

theorem wit_WaitsFencesAndEnds_ends :
    (let k : Task := { (default : Task) with id := 1, record := testRecord 0x10 0, result := some ⟨0, 0, 0, 0, 0⟩, outstanding := 2 }
      let s := running testImage fun d => { d with tasks := { d.tasks with tasks := [k] } }
      s.dp.task 1 = some k ∧ k.prog.stage < 20 ∧ k.opcode = 0x10 ∧ k.entry = none ∧ 0 < k.outstanding ∧ s.dp.coh.txns = [] ∧ s.dp.hosts.flushDue = [])
    ∧ (let k : Task := { (default : Task) with id := 1, record := testRecord 0x10 0, result := some ⟨0, 0, 0, 0, 0⟩, prog := { (default : Progress) with stage := 23 } }
      let s := running testImage fun d => { d with tasks := { d.tasks with tasks := [k] } }
      let addr := wordAt k.record 1
      let q := s.mgt.newMsg 0x07 s.mgt.self k.part k.cls (addr / 64 * 64) ((2 ^ 32 - 1) * 2 ^ (addr % 64)) (zeros (addr % 64) ++ taskCpl s.mgt s.dp k ++ zeros (32 - addr % 64))
      s.dp.task 1 = some k ∧ systemFence s.dp 1 = true ∧ addr % 32 = 0 ∧ addr / 2 ^ 50 = s.mgt.self ∧ s.mgt.pkg.loopEnable = false ∧ hostMapped s.mgt addr = false ∧ Memory.wf s.dp.store.mem = true
      ∧ unhindered s.mgt s.dp (.task 1) q 1 .plain 4096 = true ∧ (s.mgt.region 1).map (fun g => (g.sealed, g.guard)) = some (false, 0) ∧ deliverable s.mgt s.dp 1 .plain 4096 = true) := by
  decide +kernel

theorem wit_VectorOperatorsComputeTheirRows :
    ∀ p ∈ [(0x18, 1), (0x19, 1), (0x1A, 2), (0x1B, 0), (0x1C, 1), (0x1D, 1)],
      let r := operandRecord p.1 [vecRecordX, if usesY p.1 then vecRecordX else 0, vecRecordX + 0x1000, if p.1 = 0x1A then vecRecordX else 0, 2 ^ 32 + 1, 0x05050540, p.2 * 2 ^ 56, 7, 0]
      let s := computing r
      let m := s.mgt
      let o := vecOps r
      let opening : Acc Unit := do
        (vecExtents p.1 r).forM fun e => checkWindow m 0 e.addr e.bytes
        readyOutput m 1 o.z (tensorBytes o.zf 1 1)
      let loadX := loadTensor m 1 o.x o.xf 1 1
      let loadY : Acc (List (List FVal)) := if p.1 = 0x18 then loadTensor m 1 o.y o.yf 1 1 else if p.1 = 0x1A then loadTensor m 1 o.y o.yf 1 1 else pure []
      let loadB : Acc (List (List FVal)) := if p.1 = 0x1A ∧ o.fn = 2 then loadTensor m 1 o.beta o.yf 1 1 else pure []
      let d1 := after opening s.dp
      let d2 := after loadX d1
      let d3 := after loadY d2
      let d4 := after loadB d3
      (runningTask s.dp 1 [p.1]).isSome = true ∧ o.fn ∈ vecCodes p.1 ∧ o.n = 1 ∧ o.k = 1 ∧ ran opening s.dp = true ∧ ran loadX d1 = true ∧ ran loadY d2 = true ∧ ran loadB d3 = true
      ∧ (d4.ctxOf 1).isSome = true ∧ ran (writeTensor m 1 false o.z o.zf false [([0], [])] 1) (drawn d4 1 7 false 1) = true := by
  decide +kernel

theorem wit_MatrixOperatorsComputeTheirSums :
    ∀ p ∈ [(0x10, 0x06, 1), (0x11, 0x03, 0)],
      let r := operandRecord p.1 [vecRecordX, vecRecordX, vecRecordX + 0x1000, vecRecordX * p.2.2, 2 ^ 32 + 1, 2 ^ 32 + 0x01000500 + p.2.1 * 0x10000, 0, 0x3F800000 * 2 ^ 32, 0]
      let s := computing r
      let m := s.mgt
      let o := matOps r
      let opening : Acc Unit := do
        (matExtents r).forM fun e => checkWindow m 0 e.addr e.bytes
        readyOutput m 1 o.c (tensorBytes o.cf 1 1)
      let d1 := after opening s.dp
      let loadA := loadAValues m 1 o [] [0]
      let loadB := (List.range 1).mapM (loadBRow m 1 o [0])
      let loadBias : Acc Bytes := if o.bias ≠ 0 then load m 1 true o.bias 2 else pure []
      let loadC : Acc (List (List FVal)) := if p.1 = 0x11 then loadTensor m 1 o.c 0x05 1 1 else pure []
      let d4 := after loadA d1
      let d5 := after loadB d4
      let d6 := after loadBias d5
      let d7 := after loadC d6
      (runningTask s.dp 1 [p.1]).isSome = true ∧ o.n = 1 ∧ o.rows = 1 ∧ o.k = 1 ∧ o.cf = 5 ∧ o.sparse = 0 ∧ o.bMask = false ∧ o.coded = false ∧ ran opening s.dp = true ∧ ran loadA d1 = true ∧ ran loadB d4 = true
      ∧ ran loadBias d5 = true ∧ ran loadC d6 = true ∧ (d7.ctxOf 1).isSome = true ∧ ran (writeTensor m 1 false o.c o.cf false [([0], [])] 1) d7 = true := by
  decide +kernel

theorem wit_RouteChoosesSendsAndCombines_first :
    let s := routing 0 0 []
    let m := s.mgt
    let o := routeOps routeRecord
    let loadMap := load m 1 true o.map 64
    let d1 := after loadMap s.dp
    let b := got loadMap s.dp
    let d2 := after (loadLogits m 1 o) d1
    let table := store m 1 true (o.work + 64) (wordsBytes [0])
    let d3 := after table d2
    let d4 := withProg 1 (fun p => { p with stage := 1, started := 0, pairs := [(0, 0, 0, 0)] }) d3
    let zero := store m 1 true o.work (zeros 8)
    let d5 := after zero d4
    let asks : Acc Unit := [0].forM fun e => reserve m 1 o b e 0 1
    let d6 := after asks d5
    let d7 := withProg 1 (fun p => { p with stage := 2 }) d6
    let drain := drainAnswers m 1 o b 80
    let d8 := after drain d7
    (runningTask s.dp 1 [0x30]).map (fun k => (k.phase, k.prog.stage)) = some (0, 0) ∧ ran loadMap s.dp = true ∧ presentExperts o b = [0] ∧ ran (loadLogits m 1 o) d1 = true ∧ ran table d2 = true ∧ ran zero d4 = true
    ∧ ran asks d5 = true ∧ ran drain d7 = true ∧ (prog d1 1).stage = 0 ∧ (prog d4 1).stage = 1 ∧ (prog d5 1).pairs = [(0, 0, 0, 0)] ∧ (prog d7 1).stage = 2 ∧ (prog d8 1).stage = 2 ∧ (prog d8 1).pend ≠ []
    ∧ (d8.task 1).any (·.result.isNone) = true := by
  decide +kernel

theorem wit_RouteChoosesSendsAndCombines_later :
    (let s := routing 2 0 [(0, 0, 0, 1)]
      let m := s.mgt
      let o := routeOps routeRecord
      let loadMap := load m 1 true o.map 64
      let d1 := after loadMap s.dp
      let b := got loadMap s.dp
      let drain := drainAnswers m 1 o b 80
      let d2 := after drain d1
      let d3 := after (loadLogits m 1 o) d2
      let table := store m 1 true (o.work + 64) (wordsBytes [2 ^ 48])
      let header := store m 1 true (o.work + 8) (natBytes 8 (2 ^ 32))
      let d4 := after table d3
      let d5 := after header d4
      let d6 := withProg 1 (fun p => { p with stage := 3, count := 1 }) d5
      (runningTask s.dp 1 [0x30]).map (·.prog.stage) = some 2 ∧ ran loadMap s.dp = true ∧ ran drain d1 = true ∧ ran (loadLogits m 1 o) d2 = true ∧ ran table d3 = true ∧ ran header d4 = true
      ∧ (prog d1 1).stage = 2 ∧ (prog d2 1).pend = [] ∧ (prog d6 1).stage = 3 ∧ (d6.task 1).any (·.result.isNone) = true)
    ∧ (let s := routing 4 0 [(0, 0, 0, 1)]
      let m := s.mgt
      let o := routeOps routeRecord
      let loadMap := load m 1 true o.map 64
      let d1 := after loadMap s.dp
      let banks := [(0, 0, 7 * 2 ^ 50, 0)]
      let d2 := withProg 1 (fun p => { p with stage := 5, pend := banks }) d1
      let close : Acc Unit := banks.forM fun x => postAtomic m 1 0x19 x.2.2.1 0 [] 0
      let d3 := after close d2
      let drain := drainCloses m 1 80
      (runningTask s.dp 1 [0x30]).map (·.prog.stage) = some 4 ∧ ran loadMap s.dp = true ∧ ran close d2 = true ∧ ran drain d3 = true ∧ (prog d1 1).stage = 4 ∧ (prog d3 1).stage = 5 ∧ ((after drain d3).task 1).any (·.result.isNone) = true)
    ∧ (let s := routing 0 2 []
      (runningTask s.dp 1 [0x30]).map (fun k => (k.phase, k.prog.stage)) = some (2, 0) ∧ ran (load s.mgt 1 true (routeOps routeRecord).work 16) s.dp = true) := by
  decide +kernel

theorem wit_RouteChoosesSendsAndCombines_combine :
    (let s := routing 6 2 []
      let m := s.mgt
      let o := routeOps routeRecord
      let opening := readyOutput m 1 o.out (tensorBytes o.outF 1 32)
      let d1 := after opening s.dp
      let loadTable := load m 1 true (o.work + 64) 8
      let d2 := after loadTable d1
      let prior : Acc (List (List FVal)) := if o.acc = true then loadTensor m 1 o.out o.outF 1 32 else pure []
      (runningTask s.dp 1 [0x30]).map (·.prog.stage) = some 6 ∧ ran opening s.dp = true ∧ ran loadTable d1 = true ∧ got loadTable d1 = zeros 8 ∧ ran prior d2 = true
      ∧ ran (writeTensor m 1 false o.out o.outF false [(List.replicate 32 0, [])] 32) (after prior d2) = true)
    ∧ (let s := later (routing 2 0 [(0, 0, 0, 0)])
      ((runningTask s.dp 1 [0x30]).map (·.prog.pairs) = some [(0, 0, 0, 0)]) ∧ (prog s.dp 1).stage = 2 ∧ (routeOps routeRecord).limitUs = 5 ∧ Pair.waits (0, 0, 0, 0) = true)
    ∧ (let s := later (routing 5 0 [])
      let d := withProg 1 (fun p => { p with retry := [(7 * 2 ^ 50, 100)], pend := [(0, 0, 7 * 2 ^ 50, 0)] }) s.dp
      (prog d 1).retry = [(7 * 2 ^ 50, 100)] ∧ ran (postAtomic s.mgt 1 0x19 (7 * 2 ^ 50) 0 [] 0) d = true) := by
  decide +kernel

theorem wit_ExpertClaimsServesAndReturns :
    (let s := serving [(0x2008, 1)]
      let t := modTask 1 (fun t => { t with state := .waitClaim }) s.dp
      (t.task 1).map (fun k => (k.opcode, k.state, k.result)) = some (0x31, .waitClaim, none) ∧ storePlace s.mgt t (expertOps expertRecord).inbox = some (1, .plain, 0x2000)
      ∧ busy t 128 = false ∧ heldAdds t 128 = false ∧ (readLine s.mgt t 1 0x2000).2 = false ∧ lineOf (expertOps expertRecord).inbox = 128 ∧ fieldAt (readLine s.mgt t 1 0x2000).1 1 31 0 = 1)
    ∧ (let s := serving []
      let m := s.mgt
      let o := expertOps expertRecord
      let loadHeads := load m 1 true o.inbox 128
      let d1 := after loadHeads s.dp
      let turn := store m 1 true o.inbox (wordsBytes [2 ^ 33, 0])
      (runningTask s.dp 1 [0x31]).map (fun k => (k.prog.stage, k.prog.count)) = some (1, 0) ∧ ran loadHeads s.dp = true ∧ o.seed = 0 ∧ ran turn (modTask 1 (fun t => { t with flags := 0 }) d1) = true)
    ∧ (let d := withProg 1 (fun p => { p with stage := 2, count := 1, seen := [vecRecordX + 0x800] }) (serving []).dp
      (d.task 1).map (fun k => (k.prog.stage, k.prog.seen, k.result)) = some (2, [vecRecordX + 0x800], none) ∧ systemFence d 1 = true ∧ ran (postAtomic (serving []).mgt 1 0x12 (vecRecordX + 0x800) 1 [] 0) d = true) := by
  decide +kernel

theorem wit_AttendsAndScans_attends :
    (let r := operandRecord 0x32 [2 * 2 ^ 52, 1, vecRecordX, vecRecordX + 0x1000, 0, 2 ^ 24 + 0x500, 0x3F800000 * 2 ^ 32, 0, 0]
      let s := computing r
      let s : State := { s with mgt := { s.mgt with image := some { testImage with regions := testImage.regions ++ [{ (default : Region) with id := 2, kind := 3, base := 2 ^ 20, length := 2 ^ 20, kvHeads := 1, kvDim16 := 1, kvFormat := 0x05 }] } } }
      let o := attOps r
      let opening : Acc Unit := do
        (attExtents s.mgt r).forM fun e => checkWindow s.mgt 0 e.addr e.bytes
        readyOutput s.mgt 1 o.out (tensorBytes o.outF 1 16)
      let d1 := after opening s.dp
      let loadQ := loadTensor s.mgt 1 o.q 5 1 16
      (runningTask s.dp 1 [0x32]).map (fun k => k.bind.pages) = some [] ∧ (s.mgt.region o.region).map (fun g => (g.kvHeads, g.kvDim16)) = some (1, 1) ∧ o.fn = 0 ∧ o.heads = 1 ∧ o.selected = 0 ∧ ran opening s.dp = true
      ∧ ran loadQ d1 = true ∧ ran (writeTensor s.mgt 1 false o.out 5 false [(List.replicate 16 0, [])] 16) (after loadQ d1) = true) := by
  decide +kernel

theorem wit_AttendsAndScans_combines :
    (let r := operandRecord 0x32 [2 * 2 ^ 16, 0, vecRecordX, vecRecordX + 0x1000, 0, 0x500, 0, 0, 2 * 2 ^ 32]
      let s := computing r
      let opening : Acc Unit := do
        (attExtents s.mgt r).forM fun e => checkWindow s.mgt 0 e.addr e.bytes
        readyOutput s.mgt 1 (attOps r).out 0
      (runningTask s.dp 1 [0x32]).isSome = true ∧ (attOps r).fn = 2 ∧ (attOps r).heads = 0 ∧ ran opening s.dp = true ∧ ran (load s.mgt 1 true (attOps r).q 0) (after opening s.dp) = true
      ∧ ran (writeTensor s.mgt 1 false (attOps r).out 5 false [] 16) (after opening s.dp) = true) := by
  decide +kernel

theorem wit_AttendsAndScans_scans :
    (let r := operandRecord 0x50 [vecRecordX, 3, 0, vecRecordX + 0x1000, 2 ^ 56, 0, 0, 0, 0]
      let s := computing r
      let m := s.mgt
      let o := scanOps r
      let opening : Acc Unit := do
        (scanExtents r).forM fun e => checkWindow m 0 e.addr e.bytes
        readyOutput m 1 o.save 32
      let d1 := after opening s.dp
      let d3 := after (streamCheck m 1 o.start o.length) d1
      let loadRange := load m 1 false o.start o.length
      let reg := crcFold ((crcAlg 1).getD ⟨0, 0, 0, false, 0⟩) (((crcAlg 1).map (·.init)).getD 0) (got loadRange d3)
      (runningTask s.dp 1 [0x50]).isSome = true ∧ (crcAlg o.algo).isSome = true ∧ o.load = 0 ∧ ran opening s.dp = true ∧ ran (streamCheck m 1 o.start o.length) d1 = true ∧ ran loadRange d3 = true
      ∧ ran (store m 1 true o.save (contextBytes 1 reg 3)) (after loadRange d3) = true)
    ∧ (crcAlg 3).map (·.width) = some 64 := by
  decide +kernel

theorem wit_SearchesAndMerges_search :
    (let r := operandRecord 0x40 [vecRecordX, vecRecordX + 0x100, vecRecordX + 0x1000, 0, 0, 2 ^ 48 + 2 ^ 32 + 0x10001, 0, 0, 0]
      let s := computing r
      let m := s.mgt
      let o := searchOps r
      let loadIndex := load m 1 false o.index 64
      let d1 := after loadIndex s.dp
      let x := indexOf o.index (got loadIndex s.dp)
      let opening : Acc Unit := do
        (searchExtents m s.dp r).forM fun e => checkWindow m 0 e.addr e.bytes
        readyOutput m 1 o.out (o.q * (64 + 16 * o.k))
      let d2 := after opening d1
      let write : Acc Unit := store m 1 true o.out (resultBlock 1 0 0 0 0 [])
      (runningTask s.dp 1 [0x40]).isSome = true ∧ ran loadIndex s.dp = true ∧ x.lists = 0 ∧ x.projectLen = 0 ∧ o.q = 1 ∧ o.k = 1 ∧ ran opening d1 = true ∧ ran (load m 1 true o.query (o.q * x.rowLen)) d2 = true
      ∧ ran (streamCheck m 1 x.centroids 0) d2 = true ∧ ran write d2 = true) := by
  decide +kernel

theorem wit_SearchesAndMerges_merge :
    (let r := operandRecord 0x41 [vecRecordX, vecRecordX + 0x1000, 2 * 2 ^ 48 + 2 ^ 32 + 0x10001, 0, 0, 0, 0, 0, 0]
      let s := computing r
      let s : State := { s with dp := { s.dp with store := { s.dp.store with mem := [(0x2001, 0x21), (0x2006, 0x14), (0x2009, 0x21), (0x200E, 0x14)] } } }
      let m := s.mgt
      let o := mergeOps r
      let opening : Acc Unit := do
        (mergeExtents r).forM fun e => checkWindow m 0 e.addr e.bytes
        readyOutput m 1 o.out (o.q * (64 + 16 * o.k))
      let d1 := after opening s.dp
      let loadList := load m 1 true o.list (8 * o.parts)
      let d2 := after loadList d1
      let part := fun p : Nat => wordAt (got loadList d1) p
      let ask := loadLines m 1 true ((List.range o.parts).flatMap fun p => linesOf (part p) (o.q * (64 + 16 * o.kIn))).eraseDups
      let d3 := after ask d2
      (runningTask s.dp 1 [0x41]).isSome = true ∧ (o.parts, o.q, o.kIn, o.k) = (2, 1, 1, 1) ∧ ran opening s.dp = true ∧ ran loadList d1 = true ∧ part 0 = vecRecordX + 0x100 ∧ part 1 = part 0 ∧ ran ask d2 = true
      ∧ ran ((List.range 2).mapM fun _ => load m 1 true (part 0) 80) d3 = true ∧ ran (store m 1 true o.out (resultBlock 1 0 0 0 0 [])) (after ((List.range 2).mapM fun _ => load m 1 true (part 0) 80) d3) = true) := by
  decide +kernel

theorem wit_GathersAddsAndEncodes_meld :
    (let r := operandRecord 0x48 [vecRecordX, vecRecordX + 0x400, vecRecordX + 0x1000, 0, 2 ^ 24, 2 ^ 32 + 64, 0, 0, 0]
      let s := computing r
      let m := s.mgt
      let o := gatherOps r
      let opening : Acc Unit := do
        (gatherExtents r).forM fun e => checkWindow m 0 e.addr e.bytes
        readyOutput m 1 o.out (o.n * o.rowLen)
      let d1 := after opening s.dp
      let loadIndex := loadWindow m 1 o.index o.wide o.rows o.n 0
      let d2 := after loadIndex d1
      let d3 := after (loadLines m 1 false (linesOf o.table 64) 0) d2
      let d4 := after (gatherRow m 1 0 o.table 64) d3
      (runningTask s.dp 1 [0x48]).isSome = true ∧ ran opening s.dp = true ∧ (prog d1 1).next = 0 ∧ o.n = 1 ∧ ran loadIndex d1 = true ∧ got loadIndex d1 = [.valid 0] ∧ ran (loadLines m 1 false (linesOf o.table 64) 0) d2 = true
      ∧ ran (gatherRow m 1 0 o.table 64) d3 = true ∧ ran (putRow m 1 o.out (zeros 64)) d4 = true ∧ ran (runWindows m 1 1 (gatherWindow m 1 o 0) 2) d1 = true)
    ∧ (let r := operandRecord 0x49 [vecRecordX, vecRecordX + 0x400, vecRecordX + 0x1000, 2 ^ 24, 2 ^ 32 + 1, 0x0303 * 2 ^ 48, 0, 0, 0]
      let s := computing r
      let m := s.mgt
      let o := addOps r
      let opening : Acc Unit := (addExtents r).forM fun e => checkWindow m 0 e.addr e.bytes
      let loadIndex := loadWindow m 1 o.index o.wide o.rows o.n 0
      let d2 := after loadIndex s.dp
      (runningTask s.dp 1 [0x49]).isSome = true ∧ ran opening s.dp = true ∧ ran loadIndex s.dp = true ∧ got loadIndex s.dp = [.valid 0] ∧ ran (streamCheck m 1 o.src 64) d2 = true ∧ ran (load m 1 false o.src 2) d2 = true
      ∧ ran (postAtomic m 1 0x10 o.table (2 ^ 32 + 3) (zeros 128) 0 0) (after (load m 1 false o.src 2) d2) = true) := by
  decide +kernel

theorem wit_GathersAddsAndEncodes_encode :
    (let r := operandRecord 0x38 [vecRecordX, vecRecordX + 0x1000, vecRecordX + 0x1040, vecRecordX + 0x2000, vecRecordX + 0x1080, 64, 1, 0x01011 * 2 ^ 44, 0]
      let s := computing r
      let m := s.mgt
      let o := encOps r
      let x := o.dsc
      let opening : Acc Unit := do
        (encExtents r).forM fun e => checkWindow m 0 e.addr e.bytes
        needSet 1 o.books (x.bookAt (x.booksN + 1))
      let d1 := after opening s.dp
      let loadX := loadTensor m 1 o.x o.xf 1 o.values
      (runningTask s.dp 1 [0x38]).isSome = true ∧ o.values = 1 ∧ x.blocks = 1 ∧ ran opening s.dp = true ∧ ran (load m 1 false o.books (x.bookAt (x.booksN + 1))) d1 = true ∧ ran loadX d1 = true ∧ ran (store m 1 false o.blocks (zeros 32)) d1 = true)
    ∧ (let w := (1, 0, 0, 64, 4096)
      let s := running testImage fun d => { d with tasks := { d.tasks with bookWaits := [w] } }
      s.dp.tasks.bookWaits.find? (·.1 = 1) = some w ∧ booksUsed s.dp 0 + 4096 ≤ 2 ^ 21) := by
  decide +kernel

theorem wit_SnapshotsFollowTheirViews_opens :
    (let v : View := ⟨2, .version 1, 0, some 1, none, none, false⟩
      let s := snapping 0x60 (0x002 * 2 ^ 52) v [] []
      let r := (s.dp.task 1).map (·.record)
      (controlTask s.dp 1 [0x60]).isSome = true ∧ r.map recRegion = some 2 ∧ (s.mgt.region 2).isSome = true ∧ openingView s.dp 2 1 = some v ∧ anyView s.dp 2 2 = some v ∧ regionDead s.mgt s.dp 2 = false)
    ∧ (let v : View := ⟨2, .draft ⟨1, .draft, false, [], [], [(0, 5)], [100], []⟩, 0, none, none, none, false⟩
      let s := snapping 0x61 (0x002 * 2 ^ 52) v [] []
      anyView s.dp 2 2 = some v ∧ (assoc [(0, 5)] 0).isSome = true ∧ (s.mgt.region 2).map (fun g => (mappedFrame g [] 0, g.sealed)) = some (16, false) ∧ restoredFrame s.dp 100 = false ∧ s.dp.store.mem = [] ∧ s.dp.store.poison = [])
    ∧ Quiet (snapping 0x61 0 ⟨2, .version 1, 0, none, none, none, false⟩ [] []).dp :=
  ⟨by decide +kernel, by decide +kernel, rfl, rfl, by decide⟩

theorem wit_SnapshotsFollowTheirViews_publishes :
    (let dr : Draft := ⟨1, .draft, true, [(0, 100)], [(0, 100)], [], [101], []⟩
      let v : View := ⟨2, .draft dr, 0, none, none, some 1, false⟩
      let s := snapping 0x62 (0x002 * 2 ^ 52 + 2) v [⟨1, .head, []⟩] []
      let d := modTask 1 (fun t => { t with prog := { t.prog with stage := 1 } }) s.dp
      (controlTask s.dp 1 [0x62]).map (fun k => (recRegion k.record, fieldAt k.record 6 7 0, k.prog.stage)) = some (2, 2, 0) ∧ (controlTask d 1 [0x62]).map (·.prog.stage) = some 1 ∧ (s.mgt.region 2).map (·.base) = some (2 ^ 20)
      ∧ (d.snap 2).map (fun x => (x.head, x.versions)) = some (1, [⟨1, .head, []⟩]) ∧ anyView d 2 2 = some v ∧ d.coh.dir = [] ∧ d.coh.trackers = [] ∧ regionDead s.mgt d 2 = false ∧ (s.mgt.region 2).map (mapPoisoned d · dr.map) = some false)
    ∧ (let v : View := ⟨2, .version 1, 0, none, some (some 1), none, false⟩
      let s := snapping 0x63 (0x002 * 2 ^ 52 + 2) v [] []
      let d := modTask 1 (fun t => { t with state := .running }) s.dp
      (controlTask s.dp 1 [0x63]).map (fun k => (recRegion k.record, fieldAt k.record 6 7 0)) = some (2, 2) ∧ anyView s.dp 2 2 = some v ∧ viewUsers d 2 2 (some 1) = false ∧ (d.task 1).map (·.state) = some .running ∧ d.coh.dir = [] ∧ d.coh.trackers = [])
    ∧ (let s := snapping 0x63 0 ⟨2, .version 2, 0, none, none, none, false⟩ [⟨1, .retired, [(0, 100)]⟩, ⟨2, .head, [(0, 101)]⟩] []
      (s.mgt.region 2).isSome = true ∧ (s.dp.snap 2).bind (·.version 1) = some ⟨1, .retired, [(0, 100)]⟩) := by
  decide +kernel

theorem wit_SessionsFollowTheirRecords_creates :
    (let x : KvSession := ⟨3, 1, .active, 0, 1, none, [0], [], some 1, none⟩
      let s := sessionState 0x68 (3 * 2 ^ 52 + 2 ^ 32) 0 ⟨[], [x], [], 0, []⟩
      let d := modTask 1 (fun t => { t with bind := { t.bind with session := some (3, 1) } }) s.dp
      (controlTask d 1 [0x68]).map (fun k => (recRegion k.record, k.bind.session)) = some (3, some (3, 1)) ∧ d.session 3 1 = some x ∧ regionDead s.mgt d 3 = false)
    ∧ (let r := operandRecord 0x68 [3 * 2 ^ 52 + 2 ^ 32, 0, 0, 0, 0, 0, 0, 0, 0]
      let s := sessionState 0x68 0 0 ⟨[], [], [], 0, []⟩
      (s.mgt.region (recRegion r)).map (·.id) = some 3 ∧ recRegion r = 3 ∧ s.dp.session 3 (recSession r) = none)
    ∧ (let x : KvSession := ⟨3, 1, .active, 128, 2, none, [0], [(0, 0, 0)], none, none⟩
      let r := operandRecord 0x6C [3 * 2 ^ 52 + 2 ^ 32 + 2 * 2 ^ 16, 128, 0, 0, 0, 0, 0, 0, 0]
      let s := sessionState 0x68 0 0 ⟨[], [x], [⟨0, 3, 1, 0, 0, 128, 100, none, 0, 1⟩], 1, []⟩
      metSession s.dp 3 (recSession r) = some x ∧ recRegion r = 3 ∧ fieldAt r 7 39 0 = 128 ∧ fieldAt r 6 31 16 = 2 ∧ s.dp.session 3 2 = none) := by
  decide +kernel

theorem wit_SessionsFollowTheirRecords_appends :
    (let x : KvSession := ⟨3, 1, .appending, 0, 1, some 0, [1], [(0, 0, 0)], none, none⟩
      let p : KvPage := ⟨0, 3, 1, 0, 0, 0, 100, none, 6553600, 1⟩
      let s := sessionState 0x69 (3 * 2 ^ 52 + 2 ^ 32 + 1) 1 ⟨[], [x], [p], 1, []⟩
      let m := s.mgt
      let r := ((s.dp.task 1).map (·.record)).getD []
      let loadK := load m 1 true (wordAt r 8) 64
      let d2 := after loadK s.dp
      (controlTask s.dp 1 [0x69]).isSome = true ∧ (m.region (recRegion r)).map (fun g => (g.kvToken, g.sealed, g.guard)) = some (64, false, 0) ∧ fieldAt r 6 7 0 = 1 ∧ ran (checkWindow m 0 (wordAt r 8) 64) s.dp = true
      ∧ ran loadK s.dp = true ∧ ran (load m 1 true (wordAt r 9) 64) d2 = true ∧ regionDead m s.dp 3 = false ∧ s.dp.store.restored = [] ∧ Memory.wf s.dp.store.mem = true)
    ∧ (let x : KvSession := ⟨3, 1, .appending, 0, 1, some 0, [1], [(0, 0, 0)], none, some (1, 1)⟩
      let p : KvPage := ⟨0, 3, 1, 0, 0, 0, 100, none, 6553600, 1⟩
      let s := sessionState 0x6A (3 * 2 ^ 52 + 2 ^ 32 + 1) 1 ⟨[], [x], [p], 1, []⟩
      let d := modTask 1 (fun t => { t with prog := { t.prog with stage := 1 } }) s.dp
      (controlTask d 1 [0x6A]).map (fun k => (recRegion k.record, recSession k.record, k.prog.stage, fieldAt k.record 6 7 0)) = some (3, 1, 1, 1) ∧ d.session 3 1 = some x ∧ d.page 0 = some p ∧ (s.mgt.region 3).map (·.id) = some 3)
    ∧ (let x : KvSession := ⟨3, 1, .appending, 128, 1, some 0, [1], [(0, 0, 0), (0, 1, 1)], none, none⟩
      let p : KvPage := ⟨0, 3, 1, 0, 0, 128, 100, none, 6553600, 1⟩
      let s := sessionState 0x6B (3 * 2 ^ 52 + 2 ^ 32) 0 ⟨[], [x], [p, { p with id := 1, index := 1 }], 2, []⟩
      (controlTask s.dp 1 [0x6B]).map (fun k => (recRegion k.record, recSession k.record)) = some (3, 1) ∧ s.dp.session 3 1 = some x ∧ regionDead s.mgt s.dp 3 = false ∧ s.dp.page 0 = some p)
    ∧ (let x : KvSession := ⟨3, 1, .dropping, 128, 1, none, [0], [(0, 0, 0)], none, none⟩
      let p : KvPage := ⟨0, 3, 1, 0, 0, 128, 100, none, 6553600, 2⟩
      let s := sessionState 0x6D (3 * 2 ^ 52 + 2 ^ 32) 0 ⟨[], [x], [p], 1, []⟩
      (controlTask s.dp 1 [0x6D]).map (fun k => (recRegion k.record, recSession k.record)) = some (3, 1) ∧ s.dp.session 3 1 = some x ∧ s.dp.page 0 = some p ∧ sessionReaders s.dp 3 1 = false
      ∧ sessionReaders (finish 1 ⟨0, 1, 0, 0, 0⟩ s.dp) 3 1 = false ∧ ((finish 1 ⟨0, 1, 0, 0, 0⟩ s.dp).tasks.tasks.all fun y => y.result.isSome) = true) := by
  decide +kernel

theorem wit_WhistBeatsSuspectsAndDecides_beats :
    ∃ s : State, s.mgt.running = true ∧ s.dp.fab.whist.fenced = false ∧ s.dp.fab.whist.lastBeatSend + s.mgt.timers.beat10us * 1000 ≤ s.mgt.clk.ltb
      ∧ (∀ x ∈ s.dp.fab.whist.members, x.suspectedAt = none) ∧ s.mgt.leaseSet = [6, 7] ∧ whistPorts s.mgt s.dp 7 = [1] ∧ (∀ y ∈ s.dp.fab.ports, Sendable y) :=
  ⟨leasing [watched 6 none, watched 7 none], by decide⟩

theorem wit_WhistBeatsSuspectsAndDecides_beat :
    ∃ (s : State) (w : Whist) (x : Member), w.kind = 1 ∧ w.target = s.mgt.self ∧ (s.dp.darPort 1).state.carries = true ∧ s.dp.member w.source = some x ∧ x.lease ≠ 2 :=
  ⟨leasing [watched 7 none], ⟨1, 0, 7, 7, 1, 5, false, 0, [5, 6]⟩, watched 7 none, by decide⟩

theorem wit_WhistBeatsSuspectsAndDecides_lost :
    ∃ (s : State) (w : Whist) (x : Member), w.kind = 1 ∧ w.target = s.mgt.self ∧ (s.dp.darPort 1).state.carries = true ∧ s.dp.member w.source = some x ∧ x.lease = 2
      ∧ lostPkg s.mgt s.dp w.source = true :=
  ⟨verdictOn 7 (leasing [{ watched 7 none with lease := 2 }]), ⟨1, 0, 7, 7, 1, 5, false, 0, [5, 6]⟩, { watched 7 none with lease := 2 }, by decide⟩

theorem wit_WhistBeatsSuspectsAndDecides_suspect :
    ∃ (s : State) (w : Whist) (x : Member), w.kind = 2 ∧ w.target = s.mgt.self ∧ (s.dp.darPort 1).state.carries = true ∧ s.dp.member w.subject = some x ∧ w.source ∈ x.set ∧ x.lease ≠ 2
      ∧ x.suspectedAt ≠ none ∧ s.mgt.self ∈ x.set ∧ lostPkg s.mgt s.dp w.subject = false ∧ s.dp.fab.whist.fenced = false ∧ w.subject ≠ s.mgt.self ∧ (∀ y ∈ s.dp.fab.ports, Sendable y)
      ∧ 2 * (suspecters { s.dp with fab := { s.dp.fab with whist := { s.dp.fab.whist with suspicions := [(7, 6, s.mgt.clk.ltb)] } } } x + 1) > x.set.length ∧ s.dp.fab.whist.suspicions = [] :=
  ⟨leasing [{ watched 7 (some 5) with lease := 1, suspectedAt := some 5 }], ⟨2, 0, 6, 7, 0, 5, false, 0, []⟩, { watched 7 (some 5) with lease := 1, suspectedAt := some 5 }, by decide⟩

theorem wit_WhistBeatsSuspectsAndDecides_held :
    ∃ (s : State) (w v : Whist) (x : Member), w.kind = 2 ∧ w.target = s.mgt.self ∧ (s.dp.darPort 1).state.carries = true ∧ s.dp.member w.subject = some x ∧ w.source ∈ x.set ∧ x.lease ≠ 2
      ∧ x.suspectedAt = none ∧ v.kind = 2 ∧ s.dp.member v.subject = some x ∧ v.source ∉ x.set :=
  ⟨leasing [watched 7 (some 5)], ⟨2, 0, 6, 7, 0, 5, false, 0, []⟩, ⟨2, 0, 9, 7, 0, 5, false, 0, []⟩, watched 7 (some 5), by decide⟩

theorem wit_WhistBeatsSuspectsAndDecides_silence :
    ∃ (s : State) (x : Member), s.dp.member 7 = some x ∧ x.id = 7 ∧ s.dp.fab.whist.fenced = false ∧ x.lastBeat = some 0 ∧ x.lease = 0 ∧ 0 + s.mgt.timers.silence10us * 1000 ≤ s.mgt.clk.ltb
      ∧ 2 * (suspecters s.dp x + 1) ≤ x.set.length ∧ s.dp.member 6 = some (watched 6 none) :=
  ⟨leasing [watched 6 none, watched 7 (some 0)], watched 7 (some 0), by decide⟩

theorem wit_WhistBeatsSuspectsAndDecides_silence_early :
    ∃ (s : State) (x : Member), s.dp.member 7 = some x ∧ x.id = 7 ∧ s.dp.fab.whist.fenced = false ∧ x.lastBeat = some 1 ∧ s.mgt.clk.ltb < 1 + s.mgt.timers.silence10us * 1000 :=
  ⟨{ leasing [watched 7 (some 1)] with mgt := { (leasing []).mgt with clk := { (leasing []).mgt.clk with ltb := 100000 } } }, watched 7 (some 1), by decide⟩

theorem wit_WhistBeatsSuspectsAndDecides_decide :
    ∃ (s : State) (x : Member), s.dp.member 7 = some x ∧ x.id = 7 ∧ x.suspectedAt = some 0 ∧ x.logged = false ∧ 0 + s.mgt.timers.decide10us * 1000 ≤ s.mgt.clk.ltb :=
  ⟨leasing [{ watched 7 (some 0) with lease := 1, suspectedAt := some 0 }], { watched 7 (some 0) with lease := 1, suspectedAt := some 0 }, by decide⟩

theorem wit_WhistBeatsSuspectsAndDecides_fence :
    ∃ s : State, s.dp.fab.whist.armed = some 0 ∧ s.dp.fab.whist.fenced = false ∧ s.dp.fab.whist.members ≠ []
      ∧ 2 * (s.dp.fab.whist.members.filter fun x => 4 * (s.mgt.clk.ltb - x.lastBeat.getD (max 0 x.since)) ≥ 3 * (s.mgt.timers.silence10us * 1000)).length ≥ s.dp.fab.whist.members.length :=
  ⟨let s := leasing [watched 6 (some 100000000), watched 7 none]; { s with dp := { s.dp with fab := { s.dp.fab with whist := { s.dp.fab.whist with armed := some 0 } } } }, by decide⟩

theorem wit_WhistBeatsSuspectsAndDecides_unfenced :
    ∃ s : State, s.dp.fab.whist.armed = some 0 ∧ s.dp.fab.whist.fenced = false
      ∧ 2 * (s.dp.fab.whist.members.filter fun x => 4 * (s.mgt.clk.ltb - x.lastBeat.getD (max 0 x.since)) ≥ 3 * (s.mgt.timers.silence10us * 1000)).length < s.dp.fab.whist.members.length :=
  ⟨let s := leasing [watched 6 (some 100000000), watched 7 (some 100000000)]; { s with dp := { s.dp with fab := { s.dp.fab with whist := { s.dp.fab.whist with armed := some 0 } } } }, by decide⟩

theorem wit_VerdictsGuardsAndHoldsEndWaits_again :
    ∃ (s : State) (w : Whist), w.kind = 3 ∧ (s.dp.darPort 1).state.carries = true ∧ lostPkg s.mgt s.dp w.subject = true :=
  ⟨verdictOn 7 (leasing [watched 7 none]), ⟨3, 0, 6, 7, 0, 0, true, 0, []⟩, by decide +kernel⟩

theorem wit_VerdictsGuardsAndHoldsEndWaits_self :
    ∃ (s : State) (w : Whist), w.kind = 3 ∧ (s.dp.darPort 1).state.carries = true ∧ lostPkg s.mgt s.dp w.subject = false ∧ w.subject = s.mgt.self ∧ s.dp.fab.whist.fenced = false :=
  ⟨leasing [watched 7 none], ⟨3, 0, 6, 5, 0, 0, true, 0, []⟩, by decide +kernel⟩

theorem wit_VerdictsGuardsAndHoldsEndWaits_quiet :
    ∃ (s : State) (w : Whist), w.kind = 3 ∧ (s.dp.darPort 1).state.carries = true ∧ lostPkg s.mgt s.dp w.subject = false ∧ w.subject ≠ s.mgt.self ∧ NoTrace s.mgt s.dp w.subject
      ∧ s.dp.coh.txns.filter (fun x => x.msg.target = w.subject) = [] :=
  ⟨leasing [watched 7 none], ⟨3, 0, 6, 7, 0, 0, true, 0, []⟩, by decide +kernel⟩

theorem wit_VerdictsGuardsAndHoldsEndWaits_request :
    ∃ (s : State) (w : Whist) (x : Txn) (k : Task), w.kind = 3 ∧ (s.dp.darPort 1).state.carries = true ∧ lostPkg s.mgt s.dp w.subject = false ∧ w.subject ≠ s.mgt.self ∧ NoTrace s.mgt s.dp w.subject
      ∧ s.dp.coh.txns.filter (fun x => x.msg.target = w.subject) = [x] ∧ x.dead = false ∧ x.via = .task 1 ∧ x.msg.opcode ≠ 0x08 ∧ s.dp.task 1 = some k ∧ k.result = none
      ∧ k.state ≠ .waitResume ∧ k.opcode ≠ 0x30 :=
  ⟨asking 0x50 0 0, ⟨3, 0, 6, 7, 0, 0, true, 0, []⟩, askTxn, askTask 0x50 0 0, by decide +kernel⟩

theorem wit_VerdictsGuardsAndHoldsEndWaits_select :
    ∃ (s : State) (w : Whist) (x : Txn) (k : Task), w.kind = 3 ∧ (s.dp.darPort 1).state.carries = true ∧ lostPkg s.mgt s.dp w.subject = false ∧ w.subject ≠ s.mgt.self
      ∧ NoTrace s.mgt s.dp w.subject ∧ s.dp.coh.txns.filter (fun x => x.msg.target = w.subject) = [x] ∧ x.dead = false ∧ x.via = .task 1 ∧ x.msg.opcode ≠ 0x08 ∧ s.dp.task 1 = some k
      ∧ k.result = none ∧ k.state ≠ .waitResume ∧ k.opcode = 0x30 ∧ k.prog.stage = 0 ∧ k.phase = 0 :=
  ⟨asking 0x30 0 0, ⟨3, 0, 6, 7, 0, 0, true, 0, []⟩, askTxn, askTask 0x30 0 0, by decide +kernel⟩

theorem wit_VerdictsGuardsAndHoldsEndWaits_dispatch :
    ∃ (s : State) (w : Whist) (x : Txn) (k : Task), w.kind = 3 ∧ (s.dp.darPort 1).state.carries = true ∧ lostPkg s.mgt s.dp w.subject = false ∧ w.subject ≠ s.mgt.self
      ∧ NoTrace s.mgt s.dp w.subject ∧ s.dp.coh.txns.filter (fun x => x.msg.target = w.subject) = [x] ∧ x.dead = false ∧ x.via = .task 1 ∧ x.msg.opcode ≠ 0x08 ∧ s.dp.task 1 = some k
      ∧ k.result = none ∧ k.state ≠ .waitResume ∧ k.opcode = 0x30 ∧ k.prog.stage = 3 ∧ k.phase = 0 :=
  ⟨asking 0x30 3 0, ⟨3, 0, 6, 7, 0, 0, true, 0, []⟩, askTxn, askTask 0x30 3 0, by decide +kernel⟩

theorem wit_VerdictsGuardsAndHoldsEndWaits_guard :
    ∃ (s : State) (k : Tracker) (x : Txn) (r : Task), s.dp.coh.trackers = [k] ∧ k.line = 4 ∧ k.guards = [(7, 9, zeros 64, 0)] ∧ 0 + s.mgt.e2e ≤ s.mgt.clk.ltb
      ∧ s.dp.coh.txns.find? (·.txn = 9) = some x ∧ s.dp.coh.heldHome.any (·.txn = 9) = false ∧ k.via = .task 1 ∧ k.cause = 4 ∧ s.dp.task 1 = some r ∧ r.result = none :=
  ⟨guarding 4, ⟨4, .task 1, default, [], none, [(7, 9, zeros 64, 0)], none, false, 4⟩, guardTxn, askTask 0x50 0 0, by decide +kernel⟩

theorem wit_VerdictsGuardsAndHoldsEndWaits_guard_other :
    ∃ (s : State) (k : Tracker) (x : Txn), s.dp.coh.trackers = [k] ∧ k.line = 4 ∧ k.guards = [(7, 9, zeros 64, 0)] ∧ 0 + s.mgt.e2e ≤ s.mgt.clk.ltb
      ∧ s.dp.coh.txns.find? (·.txn = 9) = some x ∧ s.dp.coh.heldHome.any (·.txn = 9) = false ∧ k.cause ≠ 4 :=
  ⟨guarding 6, ⟨4, .task 1, default, [], none, [(7, 9, zeros 64, 0)], none, false, 6⟩, guardTxn, by decide +kernel⟩

theorem wit_VerdictsGuardsAndHoldsEndWaits_early :
    ∃ s : State, (∀ t ∈ s.dp.coh.trackers, t.line = 4 → ∀ g ∈ t.guards, s.mgt.clk.ltb < g.2.2.2 + s.mgt.e2e) ∧ s.dp.coh.trackers ≠ [] :=
  ⟨let s := guarding 4; { s with mgt := { s.mgt with clk := { s.mgt.clk with ltb := 0 } } }, by decide +kernel⟩

theorem wit_VerdictsGuardsAndHoldsEndWaits_hold :
    ∃ (s : State) (h : Nat × Nat × Nat), h ∈ s.dp.fab.whist.holds ∧ h.1 = 3 ∧ h.2.2 + 5000 ≤ s.mgt.clk.ltb ∧ (∀ h ∈ s.dp.fab.whist.holds, h.1 = 4 → s.mgt.clk.ltb < h.2.2 + 5000) :=
  ⟨let s := leasing []; { s with dp := { s.dp with fab := { s.dp.fab with whist := { s.dp.fab.whist with holds := [(3, 7, 0), (4, 7, 99999999)] } } } }, (3, 7, 0), by decide +kernel⟩

theorem wit_VerdictsGuardsAndHoldsEndWaits_resume :
    ∃ (s : State) (k : Task), s.dp.task 1 = some k ∧ k.state = .waitResume ∧ k.result = none ∧ k.waitValue + s.mgt.pkg.resumeWaitMs * 100000 ≤ s.mgt.clk.ltb :=
  ⟨let s := asking 0x30 6 2; { s with dp := modTask 1 (fun t => { t with state := .waitResume }) s.dp }, { askTask 0x30 6 2 with state := .waitResume }, by decide +kernel⟩

theorem wit_VerdictsGuardsAndHoldsEndWaits_resume_early :
    ∃ (s : State) (k : Task), s.dp.task 1 = some k ∧ k.state = .waitResume ∧ k.result = none ∧ s.mgt.clk.ltb < k.waitValue + s.mgt.pkg.resumeWaitMs * 100000 :=
  ⟨let s := asking 0x30 6 2; { s with dp := modTask 1 (fun t => { t with state := .waitResume, waitValue := 100000000 - 9999 }) s.dp },
    { askTask 0x30 6 2 with state := .waitResume, waitValue := 100000000 - 9999 }, by decide +kernel⟩

theorem wit_HostPortsTrainResetAndAreConfigured_trains :
    ∃ (s : State) (h : HostPort), s.dp.hosts.ports[1]? = some h ∧ s.mgt.image ≠ none ∧ imagePortMode s.mgt 1 = 1 ∧ h.perst = false ∧ h.mode = 0 ∧ s.mgt.sec.power ≠ .retain
      ∧ s.mgt.hostTesting 1 = false := ⟨hosting HostPort.reset, HostPort.reset, by decide⟩

theorem wit_HostPortsTrainResetAndAreConfigured_linked :
    ∃ (s : State) (h : HostPort), s.dp.hosts.ports[1]? = some h ∧ h.mode = 1 ∧ h.perst = false ∧ h.resetting = false ∧ h.d3 = false ∧ h.decodes = true ∧ (h.hdm 3).committed = false ∧ h.bi = true
      ∧ (∃ w ∈ inWindows s.mgt 1, w.hostBase = 2 ^ 40 ∧ w.lengthGib * 2 ^ 30 = 2 ^ 30) ∧ (∀ x ∈ h.decoders, x.committed = true → x.base = 2 ^ 40 → x.index = 3) :=
  ⟨hosting cxlPort, cxlPort, by decide⟩

theorem wit_HostPortsTrainResetAndAreConfigured_resetting :
    ∃ (s : State) (h : HostPort), s.dp.hosts.ports[1]? = some h ∧ h.mode ≠ 0 ∧ h.perst = false ∧ h.resetting = true ∧ h.decodes = false :=
  ⟨hosting { cxlPort with resetting := true }, { cxlPort with resetting := true }, by decide⟩

theorem wit_HostPortsTrainResetAndAreConfigured_locked :
    ∃ (s : State) (h : HostPort), s.dp.hosts.ports[1]? = some h ∧ h.mode = 1 ∧ (h.hdm 3).committed = true ∧ (h.hdm 3).locked = true :=
  ⟨hosting { cxlPort with decoders := [⟨3, 2 ^ 40, 2 ^ 30, true, true, false⟩] }, { cxlPort with decoders := [⟨3, 2 ^ 40, 2 ^ 30, true, true, false⟩] }, by decide⟩

theorem wit_HostsReachThePoolThroughTheirWindows_read :
    ∃ (s : State) (n : Nat), (s.dp.hostPort 1).decodes = true ∧ n < barSize s.mgt 1 ∧ mustWait s.mgt s.dp 1 (.hostMemoryRead 1 (BitVec.ofNat 64 n) 8 3) = false
      ∧ (∃ x, windowAt s.mgt 1 ((barSpan s.mgt 1).1 + n) = some x ∧ inbound s.mgt s.dp x.2 ((barSpan s.mgt 1).1 + n - x.2.hostBase + x.2.poolBase) false = .served 1) :=
  ⟨hosting cxlPort, 0x1000, by decide⟩

theorem wit_HostsReachThePoolThroughTheirWindows_refused :
    ∃ (s : State) (n : Nat), (s.dp.hostPort 1).decodes = true ∧ n < barSize s.mgt 1 ∧ mustWait s.mgt s.dp 1 (.hostMemoryRead 1 (BitVec.ofNat 64 n) 8 3) = false
      ∧ (∃ x, windowAt s.mgt 1 ((barSpan s.mgt 1).1 + n) = some x ∧ inbound s.mgt s.dp x.2 ((barSpan s.mgt 1).1 + n - x.2.hostBase + x.2.poolBase) false = .refused) :=
  ⟨hosting cxlPort, 2 ^ 29, by decide⟩

theorem wit_HostsReachThePoolThroughTheirWindows_outside :
    ∃ s : State, (s.dp.hostPort 1).decodes = true ∧ barSize s.mgt 1 = 2 ^ 30 ∧ mustWait s.mgt s.dp 1 (.hostMemoryWrite 1 (2 ^ 31) [] true) = false :=
  ⟨hosting cxlPort, by decide⟩

theorem wit_HostsReachThePoolThroughTheirWindows_undecoded :
    ∃ s : State, (s.dp.hostPort 1).decodes = false ∧ (s.dp.hostPort 1).mode ≠ 0 ∧ (s.dp.hostPort 1).perst = false :=
  ⟨hosting { cxlPort with d3 := true }, by decide⟩

theorem wit_HostsReachThePoolThroughTheirWindows_waits :
    ∃ s : State, (s.dp.hostPort 1).decodes = true ∧ 0x1000 < barSize s.mgt 1 ∧ mustWait s.mgt s.dp 1 (.hostMemoryRead 1 0x1000 8 3) = true :=
  ⟨let s := hosting cxlPort; { s with dp := modLease 1 (fun l => { l with held := [.slotTableRead 1 0x800] }) s.dp }, by decide⟩

theorem wit_HostsReachThePoolThroughTheirWindows_cxl :
    ∃ (s : State) (x : Hdm), (s.dp.hostPort 1).mode = 1 ∧ mustWait s.mgt s.dp 1 (.cxlMemRead 1 (2 ^ 40) .any 3) = false ∧ mustWait s.mgt s.dp 1 (.cxlMemWrite 1 (2 ^ 40) [] 1 true) = false
      ∧ x ∈ (s.dp.hostPort 1).decoders ∧ x.committed = true ∧ x.base ≤ 2 ^ 40 ∧ 2 ^ 40 < x.base + x.size ∧ (s.dp.hostPort 1).d3 = false ∧ (s.dp.hostPort 1).perst = false
      ∧ (∀ t ∈ s.dp.coh.trackers, ∀ n ∈ t.snoops, n.holder ≠ .host 1) ∧ overLimit s.mgt s.dp 1 = false ∧ (s.dp.lease 1).held = [] :=
  ⟨hosting { cxlPort with decoders := [⟨3, 2 ^ 40, 2 ^ 30, true, true, false⟩] }, ⟨3, 2 ^ 40, 2 ^ 30, true, true, false⟩, by decide⟩

theorem wit_HostsReachThePoolThroughTheirWindows_cxl_closed :
    ∃ s : State, (s.dp.hostPort 1).mode = 1 ∧ mustWait s.mgt s.dp 1 (.cxlMemRead 1 0 .shared 3) = false ∧ (∀ x ∈ (s.dp.hostPort 1).decoders, x.committed = true → 0 < x.base ∨ x.base + x.size ≤ 0) :=
  ⟨hosting cxlPort, by decide⟩

theorem wit_HostsReachThePoolThroughTheirWindows_window :
    ∃ s : State, s.mgt.forerunner = true ∧ s.dp.hosts.windowAt + 1000 ≤ s.mgt.clk.ltb ∧ s.dp.hosts.leases = [HostLease.reset, HostLease.reset] :=
  ⟨let s := hosting cxlPort; { s with mgt := { s.mgt with clk := { s.mgt.clk with mode48 := true } } }, by decide⟩

theorem wit_HostsReachThePoolThroughTheirWindows_lease :
    ∃ (s : State) (l : HostLease), s.dp.hosts.leases[1]? = some l ∧ l.state = 1 ∧ l.renewed + s.mgt.timers.leaseLossMs * 100000 ≤ s.mgt.clk.ltb ∧ s.dp.coh.trackers = [] ∧ s.dp.hosts.reqs = []
      ∧ s.dp.coh.dir.filter (fun e => e.hosts.getLsb 1) = [] := ⟨leased [], { HostLease.reset with state := 1 }, by decide⟩

theorem wit_HostsReachThePoolThroughTheirWindows_shared :
    ∃ (s : State) (e : DirEntry), s.dp.coh.dir.filter (fun e => e.hosts.getLsb 1) = [e] ∧ s.dp.entry e.line = some e ∧ e.owned = false :=
  ⟨leased [hostLine false], hostLine false, by decide⟩

theorem wit_HostsReachThePoolThroughTheirWindows_owned :
    ∃ (s : State) (e : DirEntry), s.dp.coh.dir.filter (fun e => e.hosts.getLsb 1) = [e] ∧ s.dp.entry e.line = some e ∧ e.owned = true
      ∧ placeOffset s.mgt (removeHolder e.line (.host 1) { s.dp with hosts := { s.dp.hosts with leases := s.dp.hosts.leases.set 1 { HostLease.reset with state := 2 } }, coh := { s.dp.coh with walk := modAt s.dp.coh.walk 1 fun _ => true } })
        (e.line * 64) = .store 1 .plain 4096 := ⟨leased [hostLine true], hostLine true, by decide⟩

theorem wit_StrapsAreHeldUntilTheNextRelease : State.reset.mgt.clk.phase = .inReset ∧ State.reset.mgt.pwr.thermTrip = false := by decide

theorem wit_StrapsAreHeldUntilTheNextRelease_running :
    ∃ s : State, s.mgt.clk.phase ≠ .inReset ∧ s.mgt.clk.phase ≠ .off ∧ ∃ t, (∀ mode48 bootSel b, Instr.ltbTick ≠ .internalRelease mode48 bootSel b) ∧ exec .ltbTick s = .next t :=
  ⟨running testImage id, by decide, by decide, _, by intros; exact Instr.noConfusion, rfl⟩

theorem wit_ResetIsWellStarted : State.reset.mgt.far.final = false ∧ State.reset.mgt.image = none ∧ State.reset.mgt.clk.engMhz = 1000 := by decide

theorem wit_StepsKeepTheStartAndItsSizes :
    ∃ s : State, WellStarted s.mgt ∧ s.mgt.clk.phase = .running ∧ s.pending = [.ltbTick] ∧ ∃ t, step s = .next t ∧ t.mgt.clk.phase = .running :=
  ⟨let s := running testImage id; { s with mgt := { s.mgt with clk := { s.mgt.clk with farDone := true, engDone := true } }, pending := [.ltbTick] },
    by decide, rfl, rfl, _, rfl, by decide⟩

end Sys2Proof.Tests
end

/-! The words of a byte string and the fields of a transaction header (R5, R346, Table 4), and from them that a message reads back as it was written (R339). -/

namespace Sys2Proof.Proofs

open Sys2Proof.Machine Sys2Proof.Laws

/-! ### Fields and words -/

/-- A field is a quotient's remainder, which is the form `omega` computes with. -/
theorem bits_eq_div_mod (x hi lo : Nat) : bits x hi lo = x / 2 ^ lo % 2 ^ (hi + 1 - lo) := by
  rw [bits, Nat.shiftRight_eq_div_pow]

theorem bitAt_eq_iff (x i : Nat) (b : Bool) : bitAt x i = b ↔ x / 2 ^ i % 2 = b.toNat := by
  rw [bitAt, Nat.shiftRight_eq_div_pow]
  cases b with
  | false => rw [decide_eq_false_iff_not, Bool.toNat_false, Nat.mod_two_not_eq_one]
  | true => rw [decide_eq_true_iff, Bool.toNat_true]

theorem wordAt_natBytes_append_zero (x : Nat) (c : Bytes) (hx : x < 2 ^ 64) : wordAt (natBytes 8 x ++ c) 0 = x := by
  rw [wordAt, slice, Nat.mul_zero, List.drop_zero, List.take_left' (natBytes_length 8 x), leNat_natBytes]
  exact Nat.mod_eq_of_lt hx

theorem wordAt_natBytes_append_succ (x i : Nat) (c : Bytes) : wordAt (natBytes 8 x ++ c) (i + 1) = wordAt c i := by
  have hdrop : (natBytes 8 x ++ c).drop (8 * (i + 1)) = c.drop (8 * i) := by
    rw [Nat.mul_succ, Nat.add_comm, ← List.drop_drop, List.drop_left' (natBytes_length 8 x)]
  rw [wordAt, wordAt, slice, slice, hdrop]

theorem wordsBytes_cons (x : Nat) (ws : List Nat) : wordsBytes (x :: ws) = natBytes 8 x ++ wordsBytes ws := rfl

theorem wordsBytes_length (ws : List Nat) : (wordsBytes ws).length = 8 * ws.length := by
  induction ws with
  | nil => rfl
  | cons x ws ih =>
    rw [wordsBytes_cons, List.length_append, natBytes_length, ih, List.length_cons]
    omega

/-- Words written one after the other read back, each at its index, whatever bytes follow them. -/
theorem wordAt_wordsBytes_append (ws : List Nat) (c : Bytes) (i w : Nat) (hi : ws[i]? = some w) (hw : w < 2 ^ 64) :
    wordAt (wordsBytes ws ++ c) i = w := by
  induction ws generalizing i with
  | nil => cases hi
  | cons x ws ih =>
    rw [wordsBytes_cons, List.append_assoc]
    cases i with
    | zero =>
      obtain rfl : x = w := Option.some.inj hi
      exact wordAt_natBytes_append_zero x _ hw
    | succ i => rw [wordAt_natBytes_append_succ, ih i hi]

/-! ### The transaction header -/

/-- The bounds that `Msg.wf` checks, by name (R339, R346, Table 4). -/
structure FitsHeader (q : Msg) : Prop where
  opcode : q.opcode < 2 ^ 8
  cls : q.cls < 2 ^ 3
  bwClass : q.bwClass < 2 ^ 3
  hops : q.hops < 2 ^ 2
  partition : q.partition < 2 ^ 6
  epoch : q.epoch < 2 ^ 8
  source : q.source < 2 ^ 14
  target : q.target < 2 ^ 14
  txn : q.txn < 2 ^ 16
  combine : q.combine < 2 ^ 16
  status : q.status < 2 ^ 8
  slot : q.slot < 2 ^ 10
  origin : q.origin < 2 ^ 14
  addr : q.addr < 2 ^ 64
  arg : q.arg < 2 ^ 64
  wholeUnits : q.payload.length % 16 = 0
  payload : q.payload.length ≤ 240

theorem fitsHeader_of_wf {q : Msg} (h : q.wf = true) : FitsHeader q := by
  simp only [Msg.wf, Bool.and_eq_true, decide_eq_true_eq, and_assoc] at h
  obtain ⟨h1, h2, h3, h4, h5, h6, h7, h8, h9, h10, h11, h12, h13, h14, h15, h16, h17⟩ := h
  exact ⟨h1, h2, h3, h4, h5, h6, h7, h8, h9, h10, h11, h12, h13, h14, h15, h16, h17⟩

/-- Word 0 of a message's header. -/
def headWord (q : Msg) : Nat :=
  q.opcode * 2 ^ 56 + q.cls * 2 ^ 53 + q.bwClass * 2 ^ 50 + q.hops * 2 ^ 48 + q.partition * 2 ^ 42 + q.epoch * 2 ^ 34
    + q.source * 2 ^ 20 + q.target * 2 ^ 6 + q.poison.toNat * 2 ^ 5 + q.redirected.toNat * 2 ^ 4 + ceilDiv q.payload.length 16

/-- Word 1 of a message's header. -/
def tagWord (q : Msg) : Nat :=
  q.txn * 2 ^ 48 + q.combine * 2 ^ 32 + q.status * 2 ^ 24 + q.slot * 2 ^ 14 + q.origin

theorem msgWords_eq (q : Msg) : msgWords q = [headWord q, tagWord q, q.addr, q.arg] := rfl

section
variable {q : Msg} (h : FitsHeader q)
include h

theorem unitCount_lt : ceilDiv q.payload.length 16 < 2 ^ 4 := by
  have := h.payload
  unfold ceilDiv
  omega

/-- Whole units need no padding. -/
theorem unitBytes_eq : 16 * ceilDiv q.payload.length 16 = q.payload.length := by
  have := h.wholeUnits
  unfold ceilDiv
  omega

theorem msgBytes_eq : msgBytes q = wordsBytes (msgWords q) ++ q.payload := by
  rw [msgBytes, unitBytes_eq h, fit_eq _ _ rfl]

/-- No two fields of word 0 share a bit: each is read back from its own place. -/
theorem headWord_fields :
    bits (headWord q) 63 56 = q.opcode ∧ bits (headWord q) 55 53 = q.cls ∧ bits (headWord q) 52 50 = q.bwClass
    ∧ bits (headWord q) 49 48 = q.hops ∧ bits (headWord q) 47 42 = q.partition ∧ bits (headWord q) 41 34 = q.epoch
    ∧ bits (headWord q) 33 20 = q.source ∧ bits (headWord q) 19 6 = q.target
    ∧ bitAt (headWord q) 5 = q.poison ∧ bitAt (headWord q) 4 = q.redirected ∧ headWord q < 2 ^ 64 := by
  have hunits := unitCount_lt h
  obtain ⟨hop, hcls, hbw, hhops, hpart, hepoch, hsrc, htgt, -⟩ := h
  have hpoison := q.poison.toNat_lt
  have hred := q.redirected.toNat_lt
  simp only [bits_eq_div_mod, bitAt_eq_iff, headWord]
  and_intros <;> omega

/-- No two fields of word 1 share a bit. -/
theorem tagWord_fields :
    bits (tagWord q) 63 48 = q.txn ∧ bits (tagWord q) 47 32 = q.combine ∧ bits (tagWord q) 31 24 = q.status
    ∧ bits (tagWord q) 23 14 = q.slot ∧ bits (tagWord q) 13 0 = q.origin ∧ tagWord q < 2 ^ 64 := by
  obtain ⟨-, -, -, -, -, -, -, -, htxn, hcombine, hstatus, hslot, horigin, -⟩ := h
  simp only [bits_eq_div_mod, tagWord]
  and_intros <;> omega

/-- The header's four words stand at the front of a message's bytes. -/
theorem wordAt_msgBytes :
    wordAt (msgBytes q) 0 = headWord q ∧ wordAt (msgBytes q) 1 = tagWord q ∧ wordAt (msgBytes q) 2 = q.addr
    ∧ wordAt (msgBytes q) 3 = q.arg := by
  obtain ⟨-, -, -, -, -, -, -, -, -, -, hhead⟩ := headWord_fields h
  obtain ⟨-, -, -, -, -, htag⟩ := tagWord_fields h
  rw [msgBytes_eq h, msgWords_eq]
  exact ⟨wordAt_wordsBytes_append _ _ 0 _ rfl hhead, wordAt_wordsBytes_append _ _ 1 _ rfl htag,
    wordAt_wordsBytes_append _ _ 2 _ rfl h.addr, wordAt_wordsBytes_append _ _ 3 _ rfl h.arg⟩

theorem drop_msgBytes : (msgBytes q).drop 32 = q.payload := by
  rw [msgBytes_eq h]
  exact List.drop_left' (wordsBytes_length (msgWords q))

theorem msgBytes_length : (msgBytes q).length = 32 + q.payload.length := by
  rw [msgBytes_eq h, List.length_append, wordsBytes_length, msgWords_eq]
  rfl

theorem msgOfBytes_msgBytes : msgOfBytes (msgBytes q) = q := by
  obtain ⟨hword0, hword1, hword2, hword3⟩ := wordAt_msgBytes h
  obtain ⟨hop, hcls, hbw, hhops, hpart, hepoch, hsrc, htgt, hpoison, hred, -⟩ := headWord_fields h
  obtain ⟨htxn, hcombine, hstatus, hslot, horigin, -⟩ := tagWord_fields h
  simp only [msgOfBytes, fieldAt, hword0, hword1, hword2, hword3, drop_msgBytes h, hop, hcls, hbw, hhops, hpart, hepoch,
    hsrc, htgt, hpoison, hred, htxn, hcombine, hstatus, hslot, horigin]

end

/-- Settles O24: the words read back from the front of the bytes, and each field from its own bits of its word. -/
theorem messageHeaderRoundTrips : Obligations.MessageHeaderRoundTrips := by
  unfold Obligations.MessageHeaderRoundTrips
  intro q hq
  have h := fitsHeader_of_wf hq
  exact ⟨msgOfBytes_msgBytes h, msgBytes_length h⟩

end Sys2Proof.Proofs

/-! What a command leaves of a start: the fields of the management side on which the size table, the image in force and forerunner mode rest, and the part of the well-started form that a command may move (R20, R22, R427, R429, R483, R495, R516). -/

namespace Sys2Proof.Proofs

open Sys2Proof.Machine Sys2Proof.Laws Sys2Proof.Safety

/-! ### What a start settles, and what may move after it -/

/-- What the size table, the image in force and forerunner mode rest on, with the phase. -/
structure Settled where
  phase : Phase
  mode48 : Bool
  farDone : Bool
  far : Far
  image : Option Image
  partB : Bool

/-- The settled fields of a management side. -/
def settled (m : Mgt) : Settled := ⟨m.clk.phase, m.clk.mode48, m.clk.farDone, m.far, m.image, m.nvm.fuses.partB⟩

/-- The level is at most the highest one, and no key stands at Open (R427, R429). -/
def LevelsFit (m : Mgt) : Prop := m.sec.level.code ≤ m.sec.highest.code ∧ (m.sec.level = .opened → m.sec.keys = [])

/-- ENG and the clock it waits for are whole steps of 25 MHz (R483). -/
def WholeSteps (m : Mgt) : Prop := m.clk.engMhz % 25 = 0 ∧ (m.pwr.pendingMhz.getD 0) % 25 = 0

/-- No non-volatile write but the first has begun (R516). -/
def OneBegun (ops : List NvOp) : Prop := ∀ o ∈ ops.tail, o.begun = false

/-- The far tier, the image and the ends of training and ENG stand as the phase asks (R20, R493). -/
def PhaseFits (m : Mgt) : Prop :=
  (m.far.final = true ↔ m.clk.phase = .running) ∧ (m.image.isSome = true ↔ m.clk.phase = .loading ∨ m.clk.phase = .running)
  ∧ (m.far.final = true → m.clk.farDone = true ∧ m.clk.engDone = true)

theorem wellStarted_iff (m : Mgt) : WellStarted m ↔ PhaseFits m ∧ LevelsFit m ∧ WholeSteps m ∧ OneBegun m.nvm.ops := by
  simp only [WellStarted, PhaseFits, LevelsFit, WholeSteps, OneBegun, and_assoc]

/-- From one management side to another nothing settled has changed, and what may move keeps its form. -/
structure SameStart (m n : Mgt) : Prop where
  fixed : settled n = settled m
  engDone : m.clk.engDone = true → n.clk.engDone = true
  levels : LevelsFit m → LevelsFit n
  steps : WholeSteps m → WholeSteps n
  writes : OneBegun m.nvm.ops → OneBegun n.nvm.ops

theorem SameStart.refl (m : Mgt) : SameStart m m := ⟨rfl, id, id, id, id⟩

theorem SameStart.trans {l m n : Mgt} (h : SameStart l m) (h' : SameStart m n) : SameStart l n :=
  ⟨h'.fixed.trans h.fixed, h'.engDone ∘ h.engDone, h'.levels ∘ h.levels, h'.steps ∘ h.steps, h'.writes ∘ h.writes⟩

theorem SameStart.phase {m n : Mgt} (h : SameStart m n) : n.clk.phase = m.clk.phase := congrArg Settled.phase h.fixed

theorem SameStart.phaseFits {m n : Mgt} (h : SameStart m n) (hm : PhaseFits m) : PhaseFits n := by
  have hfarDone : n.clk.farDone = m.clk.farDone := congrArg Settled.farDone h.fixed
  have hfar : n.far = m.far := congrArg Settled.far h.fixed
  have himage : n.image = m.image := congrArg Settled.image h.fixed
  obtain ⟨hfinal, hsome, hdone⟩ := hm
  rw [PhaseFits, hfar, himage, h.phase, hfarDone]
  exact ⟨hfinal, hsome, fun hf => ⟨(hdone hf).1, h.engDone (hdone hf).2⟩⟩

theorem SameStart.wellStarted {m n : Mgt} (h : SameStart m n) (hm : WellStarted m) : WellStarted n := by
  obtain ⟨hphase, hlevels, hsteps, hwrites⟩ := (wellStarted_iff m).mp hm
  exact (wellStarted_iff n).mpr ⟨h.phaseFits hphase, h.levels hlevels, h.steps hsteps, h.writes hwrites⟩

/-- What every command does to a start: it keeps all that is settled, or the package is not RUNNING both before and after, and the form stands all the same. -/
def KeepsStart (m n : Mgt) : Prop :=
  SameStart m n ∨ (m.clk.phase = .running → n.clk.phase ≠ .running) ∧ (WellStarted m → WellStarted n)

theorem KeepsStart.wellStarted {m n : Mgt} (h : KeepsStart m n) (hm : WellStarted m) : WellStarted n :=
  h.elim (·.wellStarted hm) (·.2 hm)

theorem KeepsStart.fixed {m n : Mgt} (h : KeepsStart m n) (hm : m.clk.phase = .running) (hn : n.clk.phase = .running) :
    settled n = settled m :=
  h.elim (·.fixed) fun h => absurd hn (h.1 hm)

/-- What holds between the management side before a command and the one it gives holds between the states. -/
theorem keeps_of_next {P : Mgt → Mgt → Prop} {s t : State} {m : Mgt} {d : Dp} {pending : List Instr}
    (h : (.next ⟨m, d, pending⟩ : Host.Outcome State Fault Refusal) = .next t) (hm : P s.mgt m) : P s.mgt t.mgt := by
  cases h
  exact hm

/-- What both branches of a condition keep is kept. -/
theorem SameStart.ite {c : Prop} [Decidable c] {m : Mgt} {x y : Mgt × Dp} (hx : SameStart m x.1) (hy : SameStart m y.1) :
    SameStart m (if c then x else y).1 := by
  split
  · exact hx
  · exact hy

/-! ### Non-volatile writes -/

theorem OneBegun.filter {ops : List NvOp} (h : OneBegun ops) (p : NvOp → Bool) : OneBegun (ops.filter p) := by
  cases ops with
  | nil => exact h
  | cons o rest =>
    intro x hx
    by_cases ho : p o = true
    · rw [List.filter_cons_of_pos ho, List.tail_cons] at hx
      exact h x (List.mem_filter.mp hx).1
    · rw [List.filter_cons_of_neg ho] at hx
      exact h x (List.mem_filter.mp (List.mem_of_mem_tail hx)).1

theorem OneBegun.map {ops : List NvOp} (h : OneBegun ops) (f : NvOp → NvOp) (hf : ∀ o, (f o).begun = o.begun) : OneBegun (ops.map f) := by
  intro x hx
  rw [← List.map_tail] at hx
  obtain ⟨o, ho, rfl⟩ := List.mem_map.mp hx
  rw [hf]
  exact h o ho

/-- Writes that join the queue have not begun. -/
theorem OneBegun.append {ops new : List NvOp} (h : OneBegun ops) (hnew : ∀ o ∈ new, o.begun = false) : OneBegun (ops ++ new) := by
  cases ops with
  | nil => exact fun o ho => hnew o (List.mem_of_mem_tail ho)
  | cons o rest => exact fun x hx => (List.mem_append.mp hx).elim (h x) (hnew x)

theorem nvStart_sameStart (m : Mgt) : SameStart m (nvStart m) := by
  unfold nvStart
  split
  · exact .refl m
  · split
    · exact .refl m
    next o rest hops => exact ⟨rfl, id, id, id, by rw [hops]; exact id⟩

theorem nvQueue_sameStart (origin : NvOrigin) (ks : List NvKind) (m : Mgt) : SameStart m (nvQueue origin ks m) := by
  have hjoin : SameStart m { m with nvm := { m.nvm with ops := m.nvm.ops ++ ks.map fun k => ⟨k, origin, false, false⟩ } } :=
    ⟨rfl, id, id, id, fun h => h.append fun o ho => by
      obtain ⟨k, -, rfl⟩ := List.mem_map.mp ho
      rfl⟩
  exact hjoin.trans (nvStart_sameStart _)

theorem appendLog_sameStart (m : Mgt) (d : Dp) : SameStart m (appendLog m d).1 := by
  refine foldl_keeps (SameStart m) _ (fun n e h => h.trans (SameStart.trans ?_ (nvQueue_sameStart _ _ _))) _ m (.refl m)
  exact ⟨rfl, id, id, id, id⟩

theorem nvSag_sameStart (m : Mgt) (d : Dp) : SameStart m (nvSag m d).1 :=
  ⟨rfl, id, id, id, fun h => (h.filter _).map _ fun o => by split <;> rfl⟩

/-- A write that takes effect leaves the part's number as it is. -/
@[simp] theorem apply_partB (k : NvKind) (n : Nvm) : (n.apply k).fuses.partB = n.fuses.partB := by
  cases k with
  | burnFuse w b =>
    dsimp only [Nvm.apply]
    split <;> rfl
  | _ => rfl

/-- A write that ends leaves the queue. -/
theorem writeEnds_sameStart (m : Mgt) (o : NvOp) (rest : List NvOp) (h : m.nvm.ops = o :: rest) :
    SameStart m (nvStart { m with nvm := { m.nvm.apply o.kind with ops := rest } }) := by
  refine SameStart.trans ?_ (nvStart_sameStart _)
  refine ⟨?_, id, id, id, fun hm x hx => ?_⟩
  · simp only [settled, apply_partB]
  · rw [h] at hm
    exact hm x (List.mem_of_mem_tail hx)

theorem nonvolatileWriteDone_sameStart {s t : State} (h : execNonvolatileWriteDone s = .next t) : SameStart s.mgt t.mgt := by
  refine keeps_of_next h ?_
  generalize s.mgt = m, s.dp = d
  dsimp only
  split
  next o rest hops =>
    have hend := writeEnds_sameStart m o rest hops
    refine .ite (.refl m) ?_
    split
    · exact .ite hend (hend.trans ⟨rfl, id, id, id, id⟩)
    · refine .ite hend ?_
      split
      · exact hend.trans ⟨rfl, id, id, id, id⟩
      · exact hend
    · exact hend
  · exact .refl m

/-! ### Operational messages -/

theorem heard_sameStart {x y : Mgt × Dp} (h : Heard x y) : SameStart x.1 y.1 := by
  obtain ⟨hmgt, -⟩ := h
  rw [hmgt]
  exact ⟨rfl, id, id, id, id⟩

/-- A message acted on changes of a start what its action changes. -/
theorem opAct_sameStart (code : Nat) (ready : Mgt → Dp → Accepted → Bool) (f : Accepted → Mgt → Dp → Mgt × Dp)
    (hf : ∀ a m d, SameStart m (f a m d).1) (m : Mgt) (d : Dp) : SameStart m (opAct code ready f m d).1 := by
  have hleft : SameStart m { m with comp := { m.comp with accepted := none } } := ⟨rfl, id, id, id, id⟩
  unfold opAct
  split
  next a _ =>
    exact .ite ((hleft.trans (hf a _ d)).trans (heard_sameStart (opPump_heard _))) (.refl m)
  · exact .refl m

/-- A level short of Open that a message sets is at most the highest one noted with it (R428). -/
theorem code_le_highest (l h : Level) (hl : l ≠ .opened) : l.code ≤ (if h = .sealed then l else h).code := by
  split
  · exact Nat.le_refl _
  · cases h with
    | sealed => contradiction
    | observe | opened =>
      cases l with
      | sealed | observe => decide
      | opened => contradiction

theorem setDebug_sameStart (a : Accepted) (m : Mgt) (d : Dp) : SameStart m (setDebug a m d).1 := by
  have hset : (if fieldAt a.body 0 63 62 = 0 then Level.sealed else .observe) ≠ .opened := by split <;> nofun
  unfold setDebug
  refine .ite (.refl m) (.ite ⟨rfl, id, id, id, id⟩ ?_)
  exact ⟨rfl, id, fun _ => ⟨code_le_highest _ _ hset, fun hopen => absurd hopen hset⟩, id, id⟩

theorem setDeal_sameStart (a : Accepted) (m : Mgt) (d : Dp) : SameStart m (setDeal a m d).1 := by
  unfold setDeal
  exact .ite (.refl m) (.refl m)

theorem beginImageWrite_sameStart (a : Accepted) (m : Mgt) (d : Dp) : SameStart m (beginImageWrite a m d).1 :=
  SameStart.trans (m := { opTake m a.body with nvm := { m.nvm with writeAsker := some (a.asker, 5) } }) ⟨rfl, id, id, id, id⟩
    (nvQueue_sameStart _ _ _)

theorem refuseImageWrite_sameStart (m : Mgt) (d : Dp) : SameStart m (refuseImageWrite m d).1 := by
  have hleft : SameStart m { m with comp := { m.comp with accepted := none } } := ⟨rfl, id, id, id, id⟩
  unfold refuseImageWrite
  dsimp only
  split
  next a _ =>
    exact .ite (hleft.trans (heard_sameStart (opPump_heard (_, _)))) (.refl m)
  · exact .refl m

theorem takeSegment_sameStart (m : Mgt) (d : Dp) (q : Msg) : SameStart m (takeSegment m d q).1 := by
  unfold takeSegment
  extract_lets i n held mine rest
  have hleft : SameStart m { m with comp := { m.comp with partials := rest } } := ⟨rfl, id, id, id, id⟩
  exact .ite ⟨rfl, id, id, id, id⟩ (.ite (hleft.trans (heard_sameStart (opReceive_heard _ _ (_, d)))) ⟨rfl, id, id, id, id⟩)

theorem mctpMessage_sameStart (e : Nat) (b : Bytes) (m : Mgt) (d : Dp) : SameStart m (mctpMessage e b m d).1 := by
  unfold mctpMessage
  exact .ite (heard_sameStart (opReceive_heard (.mctp e) b (m, d))) (.ite (.refl m) (.refl m))

theorem mctpServe_sameStart (i : Instr) (m : Mgt) (d : Dp) : SameStart m (mctpServe m d i).1 := by
  cases i with
  | mctpOpMessage e b => exact mctpMessage_sameStart e.val b m d
  | getCapabilities | negotiateAlgorithms => exact .ite ⟨rfl, id, id, id, id⟩ ⟨rfl, id, id, id, id⟩
  | _ => exact ⟨rfl, id, id, id, id⟩

theorem mctpRow_sameStart {e : Nat} {i : Instr} {s t : State} (h : mctpRow e i s = .next t) : SameStart s.mgt t.mgt := by
  refine keeps_of_next h ?_
  generalize s.mgt = m, s.dp = d
  dsimp only
  exact .ite (.refl m) (.ite ⟨rfl, id, id, id, id⟩ (mctpServe_sameStart i m d))

theorem opMessage_sameStart {q : Msg} {s t : State} (h : execOpMessage q s = .next t) : SameStart s.mgt t.mgt := by
  refine keeps_of_next h ?_
  generalize s.mgt = m, s.dp = d
  dsimp only
  exact .ite (.refl m) (.ite (.refl m) (.ite (.refl m) (takeSegment_sameStart m _ q)))

/-! ### The debug port and the test port -/

theorem dbgReadCmd_sameStart (m : Mgt) (d : Dp) : SameStart m (dbgReadCmd m d).1 := by
  unfold dbgReadCmd
  refine .ite (.refl m) (.ite ⟨rfl, id, id, id, id⟩ ?_)
  dsimp only
  split <;> exact ⟨rfl, id, id, id, id⟩

theorem dbgWriteCmd_sameStart (m : Mgt) (d : Dp) : SameStart m (dbgWriteCmd m d).1 := by
  have hbusy : SameStart m (modDbg (fun p => { p with busy := true }) m) := ⟨rfl, id, id, id, id⟩
  unfold dbgWriteCmd
  refine .ite (.refl m) (.ite ⟨rfl, id, id, id, id⟩ ?_)
  -- the spaces in order: 2, 4, 5, 6, 8, and any other
  split
  case h_2 => exact .ite ⟨rfl, id, id, id, id⟩ ⟨rfl, id, id, id, id⟩
  case h_3 | h_4 => split <;> exact ⟨rfl, id, id, id, id⟩
  case h_5 => exact .ite ⟨rfl, id, id, id, id⟩ (hbusy.trans (nvQueue_sameStart _ _ _))
  case h_1 | h_6 => exact ⟨rfl, id, id, id, id⟩

theorem dbgPatienceCmd_sameStart (m : Mgt) (d : Dp) : SameStart m (dbgPatienceCmd m d).1 := by
  unfold dbgPatienceCmd
  exact .ite (.refl m) (.ite ⟨rfl, id, id, id, id⟩ (.refl m))

theorem dbgUnlisted_sameStart (code : Nat) (m : Mgt) (d : Dp) : SameStart m (dbgUnlisted code m d).1 := by
  unfold dbgUnlisted
  exact .ite (.refl m) ⟨rfl, id, id, id, id⟩

theorem dbgPut_sameStart (index : Nat) (v : BitVec 64) (m : Mgt) (d : Dp) : SameStart m (dbgPut index v m d).1 := by
  unfold dbgPut
  dsimp only
  split
  -- word 5 takes a command
  case h_4 =>
    exact .ite (dbgReadCmd_sameStart m d)
      (.ite (dbgWriteCmd_sameStart m d) (.ite (dbgPatienceCmd_sameStart m d) (dbgUnlisted_sameStart _ m d)))
  all_goals exact ⟨rfl, id, id, id, id⟩

theorem tapLog_sameStart (code : Nat) (m : Mgt) (d : Dp) : SameStart m (tapLog code m d).1 := by
  unfold tapLog
  extract_lets log
  split <;> exact ⟨rfl, id, id, id, id⟩

theorem loadIr_sameStart (code : Nat) (m : Mgt) (d : Dp) : SameStart m (loadIr code m d).1 := by
  unfold loadIr
  split
  · exact ⟨rfl, id, id, id, id⟩
  · refine SameStart.trans ?_ (tapLog_sameStart _ _ _)
    exact ⟨rfl, id, id, id, id⟩

/-- An instruction loaded changes of a start what follows it changes. -/
theorem withIr_sameStart (code : Nat) (f : Mgt → Dp → Mgt × Dp) (hf : ∀ m d, SameStart m (f m d).1) (m : Mgt) (d : Dp) :
    SameStart m (withIr code f m d).1 := by
  have hload := loadIr_sameStart code m d
  unfold withIr
  exact .ite (hload.trans (hf _ _)) hload

theorem linkPut_sameStart (i : Nat) (v : BitVec 64) (m : Mgt) (d : Dp) : SameStart m (linkPut i v m d).1 := by
  unfold linkPut
  exact .ite (.refl m) (.ite ⟨rfl, id, id, id, id⟩ (.ite ⟨rfl, id, id, id, id⟩ (.refl m)))

theorem linkGet_sameStart (i : Nat) (m : Mgt) (d : Dp) : SameStart m (linkGet i m d).1 := by
  unfold linkGet
  exact .ite ⟨rfl, id, id, id, id⟩ ⟨rfl, id, id, id, id⟩

theorem registerWrite_sameStart {index : Fin 32768} {data : BitVec 64} {s t : State} (h : execRegisterWrite index data s = .next t) :
    SameStart s.mgt t.mgt := by
  refine keeps_of_next h ?_
  generalize s.mgt = m, s.dp = d
  dsimp only
  refine .ite (dbgPut_sameStart _ _ m d) (.ite (linkPut_sameStart _ _ m d) (.ite (.ite (.refl m) (.refl m)) (.ite ?_ (.refl m))))
  split
  · exact ⟨rfl, id, id, id, id⟩
  · split <;> exact ⟨rfl, id, id, id, id⟩

/-! ### ENG and VCORE -/

/-- VCORE is commanded, and the clock that waits for it is a whole step. -/
theorem commandVcore_sameStart (mv : Nat) (f : Option Nat) (m : Mgt) (d : Dp) (hf : WholeSteps m → f.getD 0 % 25 = 0) :
    SameStart m (commandVcore mv f m d).1 := ⟨rfl, id, id, fun hm => ⟨hm.1, hf hm⟩, id⟩

theorem setEng_sameStart (f : Nat) (m : Mgt) (hf : WholeSteps m → f % 25 = 0) : SameStart m (setEng f m) :=
  ⟨rfl, fun h => Bool.or_eq_true_iff.mpr (.inl h), id, fun hm => ⟨hf hm, hm.2⟩, id⟩

/-- A raise that waited for its voltage is given up. -/
theorem giveUpRaise_sameStart (m : Mgt) : SameStart m { m with pwr := { m.pwr with pendingMhz := none } } :=
  ⟨rfl, id, id, fun hm => ⟨hm.1, rfl⟩, id⟩

theorem raiseEng_sameStart (m : Mgt) (d : Dp) : SameStart m (raiseEng m d).1 := by
  have hstep : WholeSteps m → (m.clk.engMhz + 25) % 25 = 0 := fun hm => by rw [Nat.add_mod_right]; exact hm.1
  unfold raiseEng
  exact .ite (commandVcore_sameStart _ _ m d hstep) (setEng_sameStart _ m hstep)

theorem lowerEng_sameStart (m : Mgt) (d : Dp) : SameStart m (lowerEng m d).1 := by
  have hlow : SameStart m (setEng (m.clk.engMhz - 25) { m with pwr := { m.pwr with pendingMhz := none } }) :=
    (giveUpRaise_sameStart m).trans (setEng_sameStart _ _ fun ⟨heng, _⟩ => by dsimp only at heng; omega)
  unfold lowerEng
  exact .ite (hlow.trans (commandVcore_sameStart _ _ _ d fun _ => rfl)) hlow

theorem controlPower_sameStart (x : Sensed) (m : Mgt) (d : Dp) : SameStart m (controlPower x m d).1 := by
  have hsense : SameStart m (sense x m) := ⟨rfl, id, id, id, id⟩
  have hcause : SameStart m { sense x m with
      pwr := { (sense x m).pwr with causeTick := (sense x m).clk.ltb }, clk := { (sense x m).clk with engDone := true } } :=
    hsense.trans ⟨rfl, fun _ => rfl, id, id, id⟩
  unfold controlPower
  exact .ite (.ite (.ite hcause (hcause.trans (lowerEng_sameStart _ d))) (hcause.trans (giveUpRaise_sameStart _)))
    (.ite (hsense.trans (raiseEng_sameStart _ d)) hsense)

theorem avsVoltageReached_sameStart {s t : State} (h : execAvsVoltageReached s = .next t) : SameStart s.mgt t.mgt := by
  refine keeps_of_next h ?_
  generalize s.mgt = m, s.dp = d
  dsimp only
  split
  · exact .refl m
  next t₀ _ =>
    have hreached (n : Mgt) (c : Option Nat) (hn : SameStart m n) :
        SameStart m { n with pwr := { n.pwr with pendingMhz := none, commandTick := c } } :=
      hn.trans ⟨rfl, id, id, fun hm => ⟨hm.1, rfl⟩, id⟩
    split
    next f hf => exact hreached _ _ (setEng_sameStart f m fun ⟨_, hpending⟩ => by rwa [hf] at hpending)
    · exact hreached m _ (.refl m)

/-! ### Supply sags and the tick -/

theorem supplySagBegin_sameStart {vcore vdd : Bool} {s t : State} (h : execSupplySagBegin vcore vdd s = .next t) : SameStart s.mgt t.mgt := by
  refine keeps_of_next h ?_
  generalize s.mgt = m, s.dp = d
  dsimp only
  refine .ite (.refl m) (SameStart.trans (SameStart.trans ?_ (nvSag_sameStart _ d)) (refuseImageWrite_sameStart _ _))
  exact ⟨rfl, id, id, id, id⟩

theorem supplySagEnd_sameStart {s t : State} (h : execSupplySagEnd s = .next t) : SameStart s.mgt t.mgt := by
  refine keeps_of_next h ?_
  generalize s.mgt = m, s.dp = d
  dsimp only
  split
  · exact .refl m
  · refine foldl_keeps (fun x : Mgt × Dp => SameStart m x.1) _ (fun x i hx => hx.trans (mctpServe_sameStart i x.1 x.2)) _ _ ?_
    refine SameStart.trans ?_ (nvStart_sameStart _)
    exact ⟨rfl, id, id, id, id⟩

theorem tickWork_sameStart (m : Mgt) (d : Dp) : SameStart m (tickWork m d).1 := by
  unfold tickWork
  exact .ite (.refl m) (appendLog_sameStart m _)

/-- The count goes on, and what a tick does is done. -/
theorem countTick_sameStart (m : Mgt) (d : Dp) : SameStart m (tickWork { m with clk := { m.clk with ltb := m.clk.ltb + 1 } } d).1 := by
  refine SameStart.trans ?_ (tickWork_sameStart _ d)
  exact ⟨rfl, id, id, id, id⟩

/-! ### Resets and the stages of a start -/

/-- The package is neither LOADING nor RUNNING: no image is in force. -/
def Unloaded (m : Mgt) : Prop := m.clk.phase ≠ .loading ∧ m.clk.phase ≠ .running

theorem unloaded_of_phase {m : Mgt} {p : Phase} (h : m.clk.phase = p) (hp : p ≠ .loading ∧ p ≠ .running) : Unloaded m := by
  rwa [Unloaded, h]

theorem Unloaded.phaseFits_iff {m : Mgt} (h : Unloaded m) : PhaseFits m ↔ m.far.final = false ∧ m.image = none := by
  obtain ⟨hl, hr⟩ := h
  constructor
  · rintro ⟨hfinal, hsome, -⟩
    exact ⟨Bool.eq_false_iff.mpr fun hf => hr (hfinal.mp hf), Option.not_isSome_iff_eq_none.mp fun hi => (hsome.mp hi).elim hl hr⟩
  · rintro ⟨hfinal, himage⟩
    simp [PhaseFits, hl, hr, hfinal, himage]

/-- A stage without an image in force that leads to another keeps the form where it keeps its moving parts. -/
theorem Unloaded.keepsStart {m n : Mgt} (hm : Unloaded m) (hn : Unloaded n) (hfar : m.far.final = false → n.far.final = false)
    (himage : n.image = m.image) (hlevels : LevelsFit m → LevelsFit n) (hsteps : WholeSteps m → WholeSteps n)
    (hwrites : OneBegun m.nvm.ops → OneBegun n.nvm.ops) : KeepsStart m n := by
  refine .inr ⟨fun hr => absurd hr hm.2, fun hw => ?_⟩
  obtain ⟨hphase, hl, hs, ho⟩ := (wellStarted_iff m).mp hw
  obtain ⟨hfinal, hnone⟩ := hm.phaseFits_iff.mp hphase
  exact (wellStarted_iff n).mpr ⟨hn.phaseFits_iff.mpr ⟨hfar hfinal, himage.trans hnone⟩, hlevels hl, hsteps hs, hwrites ho⟩

theorem afterReset_unloaded (m : Mgt) : Unloaded m.afterReset := by
  unfold Unloaded Mgt.afterReset
  dsimp only
  split <;> exact ⟨nofun, nofun⟩

theorem afterReset_wellStarted (m : Mgt) : WellStarted m.afterReset :=
  (wellStarted_iff _).mpr ⟨(afterReset_unloaded m).phaseFits_iff.mpr ⟨rfl, rfl⟩, ⟨Nat.le_refl 0, fun _ => rfl⟩,
    ⟨(rfl : 1000 % 25 = 0), rfl⟩, nofun⟩

theorem afterReset_keepsStart (m n : Mgt) : KeepsStart m n.afterReset :=
  .inr ⟨fun _ => (afterReset_unloaded n).2, fun _ => afterReset_wellStarted n⟩

theorem thermalTrip_keepsStart {s t : State} (h : execThermalTrip s = .next t) : KeepsStart s.mgt t.mgt := by
  refine keeps_of_next h (.inr ⟨fun _ => (afterReset_unloaded _).2, fun _ => ?_⟩)
  refine SameStart.wellStarted ?_ (afterReset_wellStarted { s.mgt with pwr := { s.mgt.pwr with thermTrip := true } })
  exact ⟨rfl, id, id, id, id⟩

/-- The boot ROM's first stage runs firmware or halts (R409). -/
theorem bootFirst_unloaded (m : Mgt) : Unloaded (bootFirst m) := by
  unfold Unloaded bootFirst
  dsimp only
  split <;> exact ⟨nofun, nofun⟩

theorem internalRelease_keepsStart {mode48 : Bool} {bootSel : Fin 4} {board : Option Board} {s t : State}
    (h : execInternalRelease mode48 bootSel board s = .next t) : KeepsStart s.mgt t.mgt := by
  refine keeps_of_next h ?_
  generalize s.mgt = m, s.dp = d
  dsimp only
  split
  next hcond =>
    simp only [Bool.and_eq_true, Bool.or_eq_true, decide_eq_true_eq] at hcond
    obtain ⟨hreset, -⟩ := hcond
    have hup : Unloaded m := hreset.elim (unloaded_of_phase · ⟨nofun, nofun⟩) (unloaded_of_phase · ⟨nofun, nofun⟩)
    exact hup.keepsStart (bootFirst_unloaded _) id rfl id (fun hm => ⟨(rfl : 1000 % 25 = 0), hm.2⟩) id
  · exact .inl (.refl m)

theorem runFirmware_keepsStart (b : Bytes) (m : Mgt) (d : Dp) (hm : Unloaded m) : KeepsStart m (runFirmware b m d).1 := by
  unfold runFirmware enterHeld
  dsimp only
  split
  · exact hm.keepsStart ⟨nofun, nofun⟩ id rfl (fun _ => ⟨Nat.le_refl 2, fun _ => rfl⟩) id id
  · exact hm.keepsStart ⟨nofun, nofun⟩ id rfl id id id

theorem tryFirmware_keepsStart (m : Mgt) (d : Dp) (hm : Unloaded m) : KeepsStart m (tryFirmware m d).1 := by
  unfold tryFirmware
  dsimp only
  split
  · exact .inl (.refl m)
  · split
    · exact runFirmware_keepsStart _ m d hm
    · refine hm.keepsStart ?_ id rfl id id id
      unfold Unloaded
      dsimp only
      split <;> exact ⟨nofun, nofun⟩

theorem firmwareCopyRead_keepsStart {s t : State} (h : execFirmwareCopyRead s = .next t) : KeepsStart s.mgt t.mgt := by
  refine keeps_of_next h ?_
  generalize s.mgt = m, s.dp = d
  dsimp only
  split
  next hcond =>
    simp only [Bool.and_eq_true, decide_eq_true_eq] at hcond
    exact tryFirmware_keepsStart m d (unloaded_of_phase hcond.1 ⟨nofun, nofun⟩)
  · exact .inl (.refl m)

/-- An accepted image is in force, and the package is LOADING (R493). -/
theorem takeImage_wellStarted (i : Image) (m : Mgt) (hm : Unloaded m) (hw : WellStarted m) : WellStarted (takeImage i m) := by
  obtain ⟨hphase, -, hsteps, hwrites⟩ := (wellStarted_iff m).mp hw
  obtain ⟨hfinal, -⟩ := hm.phaseFits_iff.mp hphase
  have hfinal' : (takeImage i m).far.final = false := hfinal
  have hlevel : (takeImage i m).sec.level ≠ .opened := by
    unfold takeImage
    dsimp only
    split <;> nofun
  refine (wellStarted_iff _).mpr ⟨⟨?_, ?_, ?_⟩, ⟨Nat.le_refl _, fun hopen => absurd hopen hlevel⟩, hsteps, hwrites⟩
  · rw [hfinal']
    exact ⟨nofun, nofun⟩
  · exact ⟨fun _ => .inl rfl, fun _ => rfl⟩
  · rw [hfinal']
    nofun

theorem acceptImage_keepsStart (i : Image) (m : Mgt) (d : Dp) (hm : Unloaded m) : KeepsStart m (acceptImage i m d).1 := by
  have hrest : SameStart (takeImage i m) (acceptImage i m d).1 := by
    unfold acceptImage
    dsimp only
    split
    · exact commandVcore_sameStart _ _ _ _ fun _ => rfl
    · exact .refl _
  exact .inr ⟨fun hr => absurd hr hm.2, fun hw => hrest.wellStarted (takeImage_wellStarted i m hm hw)⟩

theorem tryImage_keepsStart (m : Mgt) (d : Dp) (hm : Unloaded m) : KeepsStart m (tryImage m d).1 := by
  unfold tryImage enterHeld
  dsimp only
  split
  · exact .inl (.refl m)
  · split
    · exact acceptImage_keepsStart _ m d hm
    · split
      · exact .inl ⟨rfl, id, id, id, id⟩
      · exact hm.keepsStart ⟨nofun, nofun⟩ id rfl (fun _ => ⟨Nat.le_refl 2, fun _ => rfl⟩) id id

theorem imageCopyRead_keepsStart {s t : State} (h : execImageCopyRead s = .next t) : KeepsStart s.mgt t.mgt := by
  refine keeps_of_next h ?_
  generalize s.mgt = m, s.dp = d
  dsimp only
  split
  next hcond =>
    simp only [Bool.and_eq_true, decide_eq_true_eq] at hcond
    exact tryImage_keepsStart m d (unloaded_of_phase hcond.1 ⟨nofun, nofun⟩)
  · exact .inl (.refl m)

theorem mbistStart_keepsStart {data : BitVec 64} {dimms : List Dimm} {s t : State} (h : execMbistStart data dimms s = .next t) :
    KeepsStart s.mgt t.mgt := by
  refine keeps_of_next h ?_
  generalize s.mgt = m, s.dp = d
  dsimp only
  split
  · exact .inl (.refl m)
  · split
    · exact .inl (tapLog_sameStart 0x12 m d)
    next hphase =>
      have hm : Unloaded m := unloaded_of_phase (Decidable.of_not_not hphase) ⟨nofun, nofun⟩
      split
      · exact .inl (.refl m)
      · exact hm.keepsStart hm (fun _ => rfl) rfl id id id

/-! ### The far tier and the end of a start -/

theorem farTierTrained_keepsStart {dimms : List Dimm} {s t : State} (h : execFarTierTrained dimms s = .next t) : KeepsStart s.mgt t.mgt := by
  refine keeps_of_next h ?_
  generalize s.mgt = m, s.dp = d
  dsimp only
  split
  · exact .inl (.refl m)
  next hcond =>
    simp only [Bool.or_eq_true, decide_eq_true_eq, not_or, ne_eq, Decidable.not_not] at hcond
    obtain ⟨hloading, -⟩ := hcond
    refine .inr ⟨fun hr => (nomatch hloading.symm.trans hr), fun hw => ?_⟩
    obtain ⟨⟨-, hsome, -⟩, hlevels, hsteps, hwrites⟩ := (wellStarted_iff m).mp hw
    refine (wellStarted_iff _).mpr ⟨⟨⟨nofun, fun hr => ?_⟩, hsome, nofun⟩, hlevels, hsteps, hwrites⟩
    nomatch hloading.symm.trans hr

/-- What `raiseCounters` changes is the queue of writes. -/
theorem raiseCounters_sameStart (m : Mgt) : SameStart m (raiseCounters m) := by
  unfold raiseCounters
  dsimp only
  split
  · exact .refl m
  · exact nvQueue_sameStart _ _ m

theorem startComplete_keepsStart {s t : State} (h : execStartComplete s = .next t) : KeepsStart s.mgt t.mgt := by
  refine keeps_of_next h ?_
  generalize s.mgt = m, s.dp = d
  dsimp only
  split
  · exact .inl (.refl m)
  next hcond =>
    simp only [Bool.or_eq_true, decide_eq_true_eq, Bool.not_eq_true', not_or, ne_eq, Decidable.not_not, Bool.not_eq_false] at hcond
    obtain ⟨⟨hloading, hfarDone⟩, hengDone⟩ := hcond
    refine .inr ⟨fun hr => (nomatch hloading.symm.trans hr), fun hw => (raiseCounters_sameStart _).wellStarted ?_⟩
    obtain ⟨⟨-, hsome, -⟩, hlevels, hsteps, hwrites⟩ := (wellStarted_iff m).mp hw
    exact (wellStarted_iff _).mpr ⟨⟨⟨fun _ => rfl, fun _ => rfl⟩, ⟨fun _ => .inr rfl, fun _ => hsome.mpr (.inl hloading)⟩,
      fun _ => ⟨hfarDone, hengDone⟩⟩, hlevels, hsteps, hwrites⟩

end Sys2Proof.Proofs

/-! What every command and every step leave of a start, and how a start ends (R18 to R22, R27, R32, R39, R493, R495, R497). -/

namespace Sys2Proof.Proofs

open Sys2Proof.Machine Sys2Proof.Laws Sys2Proof.Safety

/-! ### Every command -/

theorem contextAssign_sameStart {task : Nat} {s t : State} (h : execContextAssign task s = .next t) : SameStart s.mgt t.mgt := by
  have hawake (m : Mgt) (p : PowerState) : SameStart m { m with sec := { m.sec with power := p } } := ⟨rfl, id, id, id, id⟩
  refine keeps_of_next h ?_
  generalize s.mgt = m, s.dp = d
  dsimp only
  split
  · exact .refl m
  · refine .ite (.refl m) (.ite (hawake m _) ?_)
    split
    · exact .refl m
    · exact hawake m _

theorem spareReady_sameStart {copy : Bytes} {s t : State} (h : execSpareReady copy s = .next t) : SameStart s.mgt t.mgt := by
  refine keeps_of_next h ?_
  generalize s.mgt = m, s.dp = d
  dsimp only
  split
  · exact .refl m
  · exact .ite (.refl m) (.ite ⟨rfl, id, id, id, id⟩ ⟨rfl, id, id, id, id⟩)

theorem mailboxUnsupported_sameStart {port : Fin 2} {opcode : Nat} {s t : State} (h : execMailboxUnsupported port opcode s = .next t) :
    SameStart s.mgt t.mgt := by
  unfold execMailboxUnsupported at h
  split at h
  · cases h
    exact .refl _
  · exact keeps_of_next h (.refl _)

/-- What every command does to a start. The commands not named are of the data plane. -/
theorem exec_keepsStart (c : Instr) (s t : State) (h : exec c s = .next t) : KeepsStart s.mgt t.mgt := by
  cases c with
  | internalRelease => exact internalRelease_keepsStart h
  | resetNFall | pwrokFall | brownOut => exact keeps_of_next h (afterReset_keepsStart _ _)
  | thermalTrip => exact thermalTrip_keepsStart h
  | firmwareCopyRead => exact firmwareCopyRead_keepsStart h
  | imageCopyRead => exact imageCopyRead_keepsStart h
  | farTierTrained => exact farTierTrained_keepsStart h
  | startComplete => exact startComplete_keepsStart h
  | mbistStart => exact mbistStart_keepsStart h
  | engClockStep => exact .inl (keeps_of_next h (.ite (raiseEng_sameStart _ _) (.refl _)))
  | powerControlTick => exact .inl (keeps_of_next h (.ite (controlPower_sameStart _ _ _) (.refl _)))
  | avsVoltageReached => exact .inl (avsVoltageReached_sameStart h)
  | supplySagBegin => exact .inl (supplySagBegin_sameStart h)
  | supplySagEnd => exact .inl (supplySagEnd_sameStart h)
  | nonvolatileWriteDone => exact .inl (nonvolatileWriteDone_sameStart h)
  | ltbTick => exact .inl (keeps_of_next h (.ite (.refl _) (countTick_sameStart _ _)))
  | contextAssign => exact .inl (contextAssign_sameStart h)
  | opMessage => exact .inl (opMessage_sameStart h)
  | mapPrepare | mapSwitch | mapRetire | partAttach | partDetach | engage | resync | powerRetain | powerRun | obsSet | obsWatch =>
    exact .inl (keeps_of_next h (opAct_sameStart _ _ _ (fun _ _ _ => ⟨rfl, id, id, id, id⟩) _ _))
  | debugSet => exact .inl (keeps_of_next h (opAct_sameStart _ _ _ setDebug_sameStart _ _))
  | dealSet => exact .inl (keeps_of_next h (opAct_sameStart _ _ _ setDeal_sameStart _ _))
  | imageWrite => exact .inl (keeps_of_next h (opAct_sameStart _ _ _ beginImageWrite_sameStart _ _))
  | openAesDrainEnd => exact .inl (keeps_of_next h (.ite ⟨rfl, id, fun _ => ⟨Nat.le_refl 2, fun _ => rfl⟩, id, id⟩ (.refl _)))
  | spareReady => exact .inl (spareReady_sameStart h)
  | size | status | mctpOpMessage | mctpUnsupportedCommand | getVersion | getCapabilities | negotiateAlgorithms | getDigests
    | getCertificate | challenge | getMeasurements | spdmUnsupportedRequest | eidAssignment => exact .inl (mctpRow_sameStart h)
  | dbgRead => exact .inl (keeps_of_next h (.ite (dbgReadCmd_sameStart _ _) (.refl _)))
  | dbgWrite => exact .inl (keeps_of_next h (.ite (dbgWriteCmd_sameStart _ _) (.refl _)))
  | dbgPatience => exact .inl (keeps_of_next h (.ite (dbgPatienceCmd_sameStart _ _) (.refl _)))
  | dbgCmdUnlisted => exact .inl (keeps_of_next h (.ite (dbgUnlisted_sameStart _ _ _) (.refl _)))
  | registerWrite => exact .inl (registerWrite_sameStart h)
  | idcode => exact .inl (keeps_of_next h (loadIr_sameStart _ _ _))
  | bypass => exact .inl (keeps_of_next h (.ite (loadIr_sameStart _ _ _) (.refl _)))
  | samplePreload | extest | extestPulse | extestTrain =>
    exact .inl (keeps_of_next h (withIr_sameStart _ _ (fun _ _ => ⟨rfl, id, id, id, id⟩) _ _))
  | dbgAccess | hbm1500 | mbist =>
    refine .inl (keeps_of_next h (withIr_sameStart _ _ (fun m d => ?_) _ _))
    split <;> exact ⟨rfl, id, id, id, id⟩
  | linkTest =>
    refine .inl (keeps_of_next h (withIr_sameStart _ _ (fun m d => ?_) _ _))
    split
    · exact linkGet_sameStart _ m d
    · exact .refl m
  | laneTestWrite => exact .inl (keeps_of_next h (.ite (linkPut_sameStart _ _ _ _) (.refl _)))
  | testFlagClear => exact .inl (keeps_of_next h (.ite ⟨rfl, id, id, id, id⟩ (.ite ⟨rfl, id, id, id, id⟩ (.refl _))))
  | opMessagePartialTimeout | testLogicReset => exact .inl (keeps_of_next h ⟨rfl, id, id, id, id⟩)
  | detachDrainEnd | resyncDone | retainEntered | runReported | idleDelayExpiry | pmbusPollRound | pmbusAlert | mbistDone
    | checkerLock | checkerLostLock | ltInject | dbgFlagClear =>
    exact .inl (keeps_of_next h (.ite ⟨rfl, id, id, id, id⟩ ⟨rfl, id, id, id, id⟩))
  | setPointSettleExpiry | spareRebuildDone =>
    refine .inl (keeps_of_next h ?_)
    dsimp only
    split
    · exact .ite ⟨rfl, id, id, id, id⟩ (.refl _)
    · exact .refl _
  | patienceCopyDone =>
    refine .inl (keeps_of_next h ?_)
    dsimp only
    split <;> exact ⟨rfl, id, id, id, id⟩
  | mailboxUnsupported => exact .inl (mailboxUnsupported_sameStart h)
  | _ => exact .inl (keeps_of_next h (.refl _))

theorem step_keepsStart (s t : State) (h : step s = .next t) : KeepsStart s.mgt t.mgt := by
  cases hq : s.pending with
  | nil =>
    rw [step_nil s hq] at h
    cases h
    exact .inl (.refl _)
  | cons c rest =>
    rw [step_cons s c rest hq] at h
    exact exec_keepsStart c { s with pending := rest } t h

/-! ### The size table and forerunner mode -/

/-- The size table rests on what a start has settled (R19). -/
theorem sizeBytes_of_settled {m n : Mgt} (h : settled n = settled m) : sizeBytes n = sizeBytes m := by
  have hfar : n.far = m.far := congrArg Settled.far h
  have himage : n.image = m.image := congrArg Settled.image h
  have hpartB : n.nvm.fuses.partB = m.nvm.fuses.partB := congrArg Settled.partB h
  have hword : sizeWord n = sizeWord m := by
    funext i
    simp only [sizeWord, Mgt.self, Mgt.pkg, hfar, himage, hpartB]
  rw [sizeBytes, sizeBytes, hword]

/-- Forerunner mode is in force exactly where MODE48 was sampled high and the image in force sets it (R495). -/
theorem forerunner_iff (m : Mgt) : m.forerunner = true ↔ m.clk.mode48 = true ∧ ∃ i, m.image = some i ∧ i.pkg.forerunner = true := by
  cases himage : m.image with
  | none => simp [Mgt.forerunner, himage]
  | some i => simp [Mgt.forerunner, Mgt.pkg, himage]

theorem forerunner_of_settled {m n : Mgt} (h : settled n = settled m) : n.forerunner = m.forerunner := by
  have hmode48 : n.clk.mode48 = m.clk.mode48 := congrArg Settled.mode48 h
  have himage : n.image = m.image := congrArg Settled.image h
  rw [Mgt.forerunner, Mgt.forerunner, Mgt.pkg, Mgt.pkg, hmode48, himage]

/-- Settles O59: reset is the state of every field at its reset value, which has the form. -/
theorem resetIsWellStarted : Obligations.ResetIsWellStarted := by
  unfold Obligations.ResetIsWellStarted
  decide

/-- Settles O60, by cases on the command at the front of the queue: only a reset and the stages of a start touch what a start has settled, and none of them leads from RUNNING to RUNNING. -/
theorem stepsKeepTheStartAndItsSizes : Obligations.StepsKeepTheStartAndItsSizes := by
  unfold Obligations.StepsKeepTheStartAndItsSizes
  refine ⟨fun s t hw hstep => (step_keepsStart s t hstep).wellStarted hw, fun s t _ hs hstep ht => ?_⟩
  have hsettled := (step_keepsStart s t hstep).fixed hs ht
  have hforerunner := forerunner_of_settled hsettled
  exact ⟨sizeBytes_of_settled hsettled, congrArg Settled.image hsettled, hforerunner, by rw [hforerunner, forerunner_iff]⟩

/-! ### The end of a start -/

/-- Starting a write changes the queue of writes alone. -/
theorem nvStart_frame (m : Mgt) : nvStart m = { m with nvm := { m.nvm with ops := (nvStart m).nvm.ops } } := by
  unfold nvStart
  split
  · rfl
  · split <;> rfl

theorem raiseCounters_frame (m : Mgt) : raiseCounters m = { m with nvm := { m.nvm with ops := (raiseCounters m).nvm.ops } } := by
  unfold raiseCounters
  dsimp only
  split
  · rfl
  · unfold nvQueue
    rw [nvStart_frame]

/-- From one data plane to another only what is observed has changed. -/
def OnlyObserved (d e : Dp) : Prop := { e with obs := d.obs } = d

theorem OnlyObserved.logEvent {d e : Dp} (h : OnlyObserved d e) (m : Mgt) (severity block event : Nat) (detail : List Nat) :
    OnlyObserved d (logEvent m severity block event none 0 0 0 detail e) := h

/-- From one data plane to another only the slots have changed. -/
def OnlySlots (d e : Dp) : Prop := { e with tasks := { e.tasks with slots := d.tasks.slots } } = d

theorem OnlySlots.openSlot {d e : Dp} (h : OnlySlots d e) (m : Mgt) (n : Nat) : OnlySlots d (openSlot m n e) := by
  unfold Machine.openSlot
  split
  · split <;> exact h
  · exact h

theorem OnlySlots.fields {d e : Dp} (h : OnlySlots d e) :
    e.store = d.store ∧ e.tasks.idleSince = d.tasks.idleSince ∧ e.coh = d.coh ∧ e.hosts = d.hosts ∧ e.out = d.out := by
  rw [OnlySlots] at h
  rw [← h]
  exact ⟨rfl, rfl, rfl, rfl, rfl⟩

theorem openSlots_onlySlots (m : Mgt) (p : SlotEntry → Bool) (d : Dp) : OnlySlots d (openSlots m p d) :=
  foldl_keeps (OnlySlots d) _ (fun _ e h => h.openSlot m e.number) _ d rfl

theorem farTierTrained_next (s : State) (dimms : List Dimm) (hloading : s.mgt.clk.phase = .loading) (hfarDone : s.mgt.clk.farDone = false) :
    ∃ t : State, exec (.farTierTrained dimms) s = .next t
      ∧ t.mgt.clk = { s.mgt.clk with farDone := true }
      ∧ t.mgt.far = { (trainFar s.mgt.pkg.mrdimm s.mgt.pkg.farMtsCap dimms).far [] with
          absent := absentRegions { s.mgt with far := (trainFar s.mgt.pkg.mrdimm s.mgt.pkg.farMtsCap dimms).far [] } }
      ∧ t.mgt.image = s.mgt.image ∧ t.mgt.sec = s.mgt.sec ∧ t.mgt.nvm = s.mgt.nvm ∧ t.mgt.pwr = s.mgt.pwr ∧ OnlyObserved s.dp t.dp := by
  have hgo : ¬((decide (s.mgt.clk.phase ≠ .loading) || s.mgt.clk.farDone) = true) := by simp [hloading, hfarDone]
  refine ⟨_, rfl, ?_⟩
  dsimp only
  rw [if_neg hgo]
  refine ⟨rfl, rfl, rfl, rfl, rfl, rfl, ?_⟩
  refine foldl_keeps (OnlyObserved s.dp) _ (fun _ _ h => ?_) _ _ (foldl_keeps (OnlyObserved s.dp) _ (fun _ _ h => ?_) _ _ rfl)
  · exact h.logEvent _ 3 7 1 _
  · exact h.logEvent _ 1 7 2 _

/-- Settles O7: on the data plane training only logs; raising the counters touches only the queue of writes, and opening slots only the slots. -/
theorem startEndsInRunning : Obligations.StartEndsInRunning := by
  unfold Obligations.StartEndsInRunning
  refine ⟨farTierTrained_next, ?_⟩
  intro s hloading hfarDone hengDone
  have hgo : ¬((decide (s.mgt.clk.phase ≠ .loading) || !s.mgt.clk.farDone || !s.mgt.clk.engDone) = true) := by
    simp [hloading, hfarDone, hengDone]
  refine ⟨_, rfl, ?_⟩
  dsimp only
  rw [if_neg hgo, raiseCounters_frame]
  refine ⟨rfl, rfl, rfl, rfl, rfl, rfl, rfl, ?_⟩
  exact (openSlots_onlySlots _ _ _).fields

end Sys2Proof.Proofs

/-! The frame table after a change to it, the end of a coarse copy's rebuild, and the deadline of a streamed far-tier block (R47, R49 to R52). -/

namespace Sys2Proof.Proofs

open Sys2Proof.Machine Sys2Proof.Laws Sys2Proof.Safety

/-! ### The frame table and the named counters -/

theorem frameRec_frame (m : Mgt) (d : Dp) (f : Nat) : (frameRec m d f).frame = f := by
  unfold frameRec
  cases h : d.store.frames.find? (·.frame = f) with
  | none => rfl
  | some x => simpa using List.find?_some h

/-- The frame table holds what was put there last, and every other frame as before. -/
theorem frameRec_setFrame (m : Mgt) (x : FrameRec) (d : Dp) (f : Nat) :
    frameRec m (setFrame x d) f = if f = x.frame then x else frameRec m d f := by
  by_cases h : f = x.frame
  · rw [if_pos h, frameRec, setFrame, List.find?_cons_of_pos (by simp [h])]
    rfl
  · have hfind : (setFrame x d).store.frames.find? (·.frame = f) = d.store.frames.find? (·.frame = f) := by
      rw [setFrame, List.find?_cons_of_neg (by simpa using Ne.symm h), List.find?_filter]
      congr 1
      funext y
      by_cases hy : y.frame = f <;> simp [hy, h]
    rw [if_neg h, frameRec, frameRec, hfind]
    rfl

@[simp] theorem setFrame_coarse (x : FrameRec) (d : Dp) : (setFrame x d).store.coarse = d.store.coarse := rfl

/-- What a counter counts rests on the counters alone. -/
theorem countNamed_obs_congr (n : Nat) {d e : Dp} (h : d.obs = e.obs) : (countNamed n d).obs = (countNamed n e).obs := by
  unfold countNamed countAt
  rw [h]
  split
  · simp only
  · exact h

/-- The frame table rests on the store alone. -/
theorem frameRec_congr (m : Mgt) {d e : Dp} (h : d.store = e.store) (f : Nat) : frameRec m d f = frameRec m e f := by
  unfold frameRec restoredFrame
  rw [h]

/-! ### The end of a rebuild -/

/-- The dual-resolution region that a frame stores a part of, as the end of its rebuild finds it. -/
def coarseRegion (m : Mgt) (d : Dp) (f : Nat) : Option Region :=
  m.regions.find? fun r => r.coarse ≠ 0 && ((frameRegion m f).map (·.id) = some r.id || (regionMaps d r).any fun mp => mp.any (·.2 = f))

theorem coarseRegion_isSome {m : Mgt} {d : Dp} {f : Nat} {g : Region} (hg : frameRegion m f = some g) (hc : g.coarse ≠ 0) :
    (coarseRegion m d f).isSome = true := by
  rw [coarseRegion, List.find?_isSome]
  exact ⟨g, List.mem_of_find?_eq_some hg, by simp [hg, hc]⟩

/-- The coarse codes of a frame's blocks, each once (R49, R254). -/
def coarseCodes (m : Mgt) (d : Dp) (r : Region) (f : Nat) : List (Nat × Bytes) :=
  ((regionMaps d r).flatMap fun mp => (descriptorsOf m d r mp).flatMap (tensorCoarse m d r mp f)).eraseDups

/-- The bytes that a frame's coarse copy takes of the reserve: its codes, and a line for each descriptor that lies in the frame (R49). -/
def coarseBytes (m : Mgt) (d : Dp) (r : Region) (f : Nat) : Nat :=
  ((coarseCodes m d r f).map fun c => c.2.length - 2).sum
    + 64 * ((((regionMaps d r).flatMap fun mp => (descriptorsOf m d r mp).map fun x =>
        mappedFrame r mp (x.1 / 65536) * 65536 + x.1 % 65536).eraseDups).filter (· / 65536 = f)).length

/-- The data plane with a frame's coarse copy put in place, or marked absent (R49, R50). -/
def putCoarse (m : Mgt) (f : Nat) (codes : List (Nat × Bytes)) (absent : Bool) (d : Dp) : Dp :=
  setFrame { frameRec m d f with coarseStale := false, coarseAbsent := absent }
    { d with store := { d.store with coarse := codes ++ d.store.coarse.filter (·.1 / 65536 ≠ f) } }

/-- A stale copy of a frame in service is rebuilt: its codes are taken anew, or it is absent and counted where they exceed the frame's share. -/
theorem coarseRebuildDone_eq (s : State) (f : Nat) (r : Region) (hr : coarseRegion s.mgt s.dp f = some r) :
    exec (.coarseRebuildDone f) s =
      if (frameRec s.mgt s.dp f).coarseStale = true ∧ frameFailed s.mgt s.dp f = false then
        if coarseShare r < coarseBytes s.mgt s.dp r f then .next { s with dp := countNamed 6 (putCoarse s.mgt f [] true s.dp) }
        else .next { s with dp := putCoarse s.mgt f (coarseCodes s.mgt s.dp r f) false s.dp }
      else .next s := by
  have hexec : exec (.coarseRebuildDone f) s = execCoarseRebuildDone f s := rfl
  rw [coarseRegion] at hr
  simp only [hexec, execCoarseRebuildDone, liftDp_next, hr]
  by_cases hdue : (frameRec s.mgt s.dp f).coarseStale = true ∧ frameFailed s.mgt s.dp f = false
  · have hgo : ¬((!(frameRec s.mgt s.dp f).coarseStale || frameFailed s.mgt s.dp f) = true) := by simp [hdue]
    rw [if_pos hdue, if_neg hgo]
    by_cases habsent : coarseShare r < coarseBytes s.mgt s.dp r f
    · rw [if_pos habsent]
      rw [coarseBytes, coarseCodes] at habsent
      simp [habsent, putCoarse]
    · rw [if_neg habsent]
      rw [coarseBytes, coarseCodes] at habsent
      simp [habsent, coarseCodes, putCoarse]
  · rw [if_neg hdue, if_pos]
    rw [Decidable.not_and_iff_not_or_not, Bool.not_eq_true, Bool.not_eq_false] at hdue
    simpa using hdue

/-- What the end of a rebuild is to leave: the mark is gone, codes stand for the frame only where its copy is not absent, and every other frame and byte is as before (R49, R50). -/
structure Rebuilt (m : Mgt) (f : Nat) (d e : Dp) : Prop where
  mem : e.store.mem = d.store.mem
  poison : e.store.poison = d.store.poison
  coh : e.coh = d.coh
  tasks : e.tasks = d.tasks
  frame : ∃ absent, frameRec m e f = { frameRec m d f with coarseStale := false, coarseAbsent := absent }
    ∧ (absent = true → (∀ c ∈ e.store.coarse, c.1 / 65536 ≠ f) ∧ e.obs = (countNamed 6 d).obs)
  codes : ∀ c ∈ d.store.coarse, c.1 / 65536 ≠ f → c ∈ e.store.coarse
  others : ∀ x : Nat, x ≠ f → frameRec m e x = frameRec m d x

theorem frameRec_putCoarse (m : Mgt) (f : Nat) (codes : List (Nat × Bytes)) (absent : Bool) (d : Dp) (x : Nat) :
    frameRec m (putCoarse m f codes absent d) x
      = if x = f then { frameRec m d f with coarseStale := false, coarseAbsent := absent } else frameRec m d x := by
  rw [putCoarse, frameRec_setFrame, frameRec_frame]
  rfl

theorem mem_putCoarse (m : Mgt) (f : Nat) (codes : List (Nat × Bytes)) (absent : Bool) (d : Dp) (c : Nat × Bytes) :
    c ∈ (putCoarse m f codes absent d).store.coarse ↔ c ∈ codes ∨ (c ∈ d.store.coarse ∧ c.1 / 65536 ≠ f) := by
  simp [putCoarse]

theorem putCoarse_rebuilt (m : Mgt) (f : Nat) (codes : List (Nat × Bytes)) (d : Dp) : Rebuilt m f d (putCoarse m f codes false d) where
  mem := rfl
  poison := rfl
  coh := rfl
  tasks := rfl
  frame := ⟨false, by rw [frameRec_putCoarse, if_pos rfl], nofun⟩
  codes c hc hf := (mem_putCoarse ..).mpr (.inr ⟨hc, hf⟩)
  others x hx := by rw [frameRec_putCoarse, if_neg hx]

theorem countNamed_putCoarse_rebuilt (m : Mgt) (f : Nat) (d : Dp) : Rebuilt m f d (countNamed 6 (putCoarse m f [] true d)) where
  mem := by rw [countNamed_store]; rfl
  poison := by rw [countNamed_store]; rfl
  coh := countNamed_coh ..
  tasks := countNamed_tasks ..
  frame := by
    refine ⟨true, ?_, fun _ => ⟨fun c hc => ?_, countNamed_obs_congr 6 rfl⟩⟩
    · rw [frameRec_congr m (countNamed_store ..), frameRec_putCoarse, if_pos rfl]
    · rw [countNamed_store, mem_putCoarse] at hc
      exact (hc.resolve_left List.not_mem_nil).2
  codes c hc hf := by
    rw [countNamed_store]
    exact (mem_putCoarse ..).mpr (.inr ⟨hc, hf⟩)
  others x hx := by rw [frameRec_congr m (countNamed_store ..), frameRec_putCoarse, if_neg hx]

theorem coarseRebuildDone_rebuilt (s : State) (f : Nat) (r : Region) (hr : coarseRegion s.mgt s.dp f = some r)
    (hdue : (frameRec s.mgt s.dp f).coarseStale = true ∧ frameFailed s.mgt s.dp f = false) :
    ∃ e : Dp, exec (.coarseRebuildDone f) s = .next { s with dp := e } ∧ Rebuilt s.mgt f s.dp e := by
  rw [coarseRebuildDone_eq s f r hr, if_pos hdue]
  split
  · exact ⟨_, rfl, countNamed_putCoarse_rebuilt s.mgt f s.dp⟩
  · exact ⟨_, rfl, putCoarse_rebuilt s.mgt f _ s.dp⟩

/-! ### Tasks -/

/-- A change of one task leaves the others. -/
theorem task_modTask_ne {id y : Nat} (f : Task → Task) (d : Dp) (hf : ∀ t, (f t).id = t.id) (hy : y ≠ id) :
    (modTask id f d).task y = d.task y := by
  rw [Dp.task, modTask_tasks, Dp.task]
  induction d.tasks.tasks with
  | nil => rfl
  | cons t ts ih =>
    have hkeep : (if t.id = id then f t else t).id = t.id := by split <;> simp [hf]
    by_cases ht : t.id = y
    · rw [List.map_cons, List.find?_cons_of_pos (by simpa [hkeep] using ht), List.find?_cons_of_pos (by simpa using ht),
        if_neg (ht ▸ hy)]
    · rw [List.map_cons, List.find?_cons_of_neg (by simpa [hkeep] using ht), List.find?_cons_of_neg (by simpa using ht), ih]

/-- A task without a result that is concluded has the result it ended with, and lets its gathered lines go. -/
theorem task_concludeTask {id : Nat} (r : Result) {d : Dp} {k : Task} (hk : d.task id = some k) (hr : k.result = none) :
    (concludeTask id r d).task id = some { k with result := some r, state := .ending, arrived := [] } := by
  rw [concludeTask, task_modTask, task_finish id r d k hk hr, Option.map_some]
  exact fun _ => rfl

theorem task_concludeTask_ne {id y : Nat} (r : Result) (d : Dp) (hy : y ≠ id) : (concludeTask id r d).task y = d.task y := by
  rw [concludeTask, task_modTask_ne _ _ ?_ hy, finish, task_modTask_ne _ _ (fun t => by split <;> rfl) hy]
  exact fun _ => rfl

theorem concludeTask_quiet (id : Nat) (r : Result) {d : Dp} (h : Quiet d) : Quiet (concludeTask id r d) := h

/-! ### The deadline of a block -/

/-- Does a task stream this far-tier block, and is it still to end? -/
abbrev blockAwaited (s : State) (k : Task) (block : Nat) : Prop :=
  k.state = .running ∧ k.result = none ∧ (frameAt s.mgt s.dp block).any (fun f => (frameRec s.mgt s.dp f).loc.far) = true

/-- A block that passes its deadline counts for a running task and the far tier alone; there the late policy says what follows (R51, R52). -/
theorem blockDeadlineExpiry_eq (s : State) (id block : Nat) (k : Task) (hk : s.dp.task id = some k) :
    exec (.blockDeadlineExpiry id block) s =
      if blockAwaited s k block then
        if k.latePolicy = 2 then .next { s with dp := settle s.mgt (concludeTask id ⟨0x23, regionOf s.mgt s.dp block, 0, 0, 0⟩ s.dp) }
        else if k.latePolicy = 1 then .next { s with dp := modTask id (fun x => { x with late := addNew x.late block }) s.dp }
        else .next s
      else .next s := by
  change execBlockDeadlineExpiry id block s = _
  have hfar : ((frameAt s.mgt s.dp block).map fun f => (frameRec s.mgt s.dp f).loc.far).getD false
      = (frameAt s.mgt s.dp block).any fun f => (frameRec s.mgt s.dp f).loc.far := by
    cases frameAt s.mgt s.dp block <;> rfl
  simp only [execBlockDeadlineExpiry, liftDp_next, hk, hfar]
  split
  next hnot =>
    rw [if_neg]
    rintro ⟨hstate, hresult, hany⟩
    simp [hstate, hresult, hany] at hnot
  next hgo =>
    have hawaited : blockAwaited s k block := by
      simpa [blockAwaited, and_assoc] using hgo
    rw [if_pos hawaited]
    split
    · rfl
    · split <;> rfl

/-- Under FAIL the task ends with FAIL_LATE and the block's region, and no other task (R52). -/
theorem lateBlock_fails (s : State) (id block : Nat) (k : Task) (hk : s.dp.task id = some k) (hawaited : blockAwaited s k block)
    (hpolicy : k.latePolicy = 2) (hquiet : Quiet s.dp) :
    ∃ (t : State) (x : Task), exec (.blockDeadlineExpiry id block) s = .next t ∧ t.mgt = s.mgt ∧ t.dp.store = s.dp.store ∧ t.dp.fab = s.dp.fab
      ∧ t.dp.task id = some x ∧ x.result = some ⟨0x23, regionOf s.mgt s.dp block, 0, 0, 0⟩ ∧ x.state = .ending
      ∧ ∀ y : Nat, y ≠ id → t.dp.task y = s.dp.task y := by
  have ⟨_, hresult, _⟩ := hawaited
  rw [blockDeadlineExpiry_eq s id block k hk, if_pos hawaited, if_pos hpolicy, settle_quiet _ _ (concludeTask_quiet _ _ hquiet)]
  exact ⟨_, _, rfl, rfl, rfl, rfl, task_concludeTask _ hk hresult, rfl, rfl, fun y hy => task_concludeTask_ne _ _ hy⟩

/-- Settles O40: the end of a rebuild changes the frame's own entry and codes, and a deadline one task at most. -/
theorem coarseCopiesAndDeadlines : Obligations.CoarseCopiesAndDeadlines := by
  unfold Obligations.CoarseCopiesAndDeadlines
  refine ⟨fun s f g hg hc => ?_, fun s id block k hk => ?_⟩
  · obtain ⟨r, hr⟩ := Option.isSome_iff_exists.mp (coarseRegion_isSome (d := s.dp) hg hc)
    split
    next hdue =>
      obtain ⟨e, hexec, h⟩ := coarseRebuildDone_rebuilt s f r hr hdue
      obtain ⟨absent, hframe, habsent⟩ := h.frame
      refine ⟨_, hexec, rfl, h.mem, h.poison, h.coh, h.tasks, ?_⟩
      rw [hframe]
      exact ⟨rfl, rfl, rfl, habsent, h.codes, h.others⟩
    next hdue => rw [coarseRebuildDone_eq s f r hr, if_neg hdue]
  · split
    next hawaited =>
      have hawaited : blockAwaited s k block := hawaited
      refine ⟨lateBlock_fails s id block k hk hawaited, fun hcoarse => ?_, fun hnotCoarse hnotFail => ?_⟩
      · rw [blockDeadlineExpiry_eq s id block k hk, if_pos hawaited, if_neg (by omega), if_pos hcoarse]
      · rw [blockDeadlineExpiry_eq s id block k hk, if_pos hawaited, if_neg hnotFail, if_neg hnotCoarse]
    next hnot => rw [blockDeadlineExpiry_eq s id block k hk, if_neg (show ¬blockAwaited s k block from hnot)]

end Sys2Proof.Proofs

/-! An ADD_FLOAT of a package at its home: held in an entry and acknowledged, made to wait, or refused (R43, R291, R292, R347, R349). -/

namespace Sys2Proof.Proofs

open Sys2Proof.Machine Sys2Proof.Laws Sys2Proof.Safety

/-! ### What a reading of the data plane rests on -/

section
variable {d e : Dp} (m : Mgt)

theorem placeOffset_congr (h : e.snaps = d.snaps) (off : Nat) : placeOffset m e off = placeOffset m d off := by
  unfold placeOffset Dp.snap
  rw [h]

theorem storePlace_congr (h : e.snaps = d.snaps) (addr : Nat) : storePlace m e addr = storePlace m d addr := by
  rw [storePlace, storePlace, placeOffset_congr m h]

theorem viewWritable_congr (h : e.snaps = d.snaps) (region slot : Nat) : viewWritable e region slot = viewWritable d region slot := by
  unfold viewWritable Dp.snap
  rw [h]

theorem needsCopy_congr (h : e.snaps = d.snaps) (region : Nat) (reach : Reach) (off : Nat) :
    needsCopy e region reach off = needsCopy d region reach off := by
  unfold needsCopy Dp.snap
  rw [h]

theorem hostGone_congr (h : e.hosts = d.hosts) (p : Fin 2) : hostGone e p = hostGone d p := by
  unfold hostGone Dp.lease
  rw [h]

theorem readLine_congr (h : e.store = d.store) (region at_ : Nat) : readLine m e region at_ = readLine m d region at_ := by
  unfold readLine rawLine restoredFrame
  rw [h]
  simp only [frameRec_congr m h]

/-- What a message sent does to the fabric rests on the fabric alone. -/
theorem send_fab_congr (h : e.fab = d.fab) (q : Msg) : (send m q e).fab = (send m q d).fab := by
  have hport : portFor m e q = portFor m d q := by
    unfold portFor openPorts
    rw [h]
  unfold send
  rw [hport]
  split
  · exact h
  · simp only [enqueue, h]

theorem reply_fab_congr (h : e.fab = d.fab) (q : Msg) (opcode status arg : Nat) (payload : Bytes) :
    (reply m q opcode status arg payload e).fab = (reply m q opcode status arg payload d).fab :=
  send_fab_congr m h _

end

/-! ### A Daras request as it enters -/

@[simp] theorem takeInbox_whist (q : Msg) (d : Dp) : (takeInbox q d).fab.whist = d.fab.whist := by
  unfold takeInbox
  split <;> rfl

@[simp] theorem countIn_store (q : Msg) (d : Dp) : (countIn q d).store = d.store := countAt_store ..

@[simp] theorem countIn_snaps (q : Msg) (d : Dp) : (countIn q d).snaps = d.snaps := countAt_snaps ..

@[simp] theorem countIn_coh (q : Msg) (d : Dp) : (countIn q d).coh = d.coh := countAt_coh ..

@[simp] theorem countIn_hosts (q : Msg) (d : Dp) : (countIn q d).hosts = d.hosts := countAt_hosts ..

@[simp] theorem countIn_fab (q : Msg) (d : Dp) : (countIn q d).fab = d.fab := countAt_fab ..

/-- The other coherence mode is one of reads. -/
theorem otherMode_of_change {m : Mgt} {via : Via} {q : Msg} (h : 0x05 ≤ q.opcode) : otherMode m via q = false := by
  unfold otherMode
  cases m.pkg.ownerOrdered <;> simp <;> omega

theorem kindOf_addFloat {m : Mgt} {via : Via} {q : Msg} (h : q.opcode = 0x10) : kindOf m via q = .atomic := by
  rw [kindOf, otherMode_of_change (by omega), h]
  rfl

/-- A Daras request that passes its judgement goes on to its home. -/
theorem enter_daras_pass {m : Mgt} {q : Msg} {codes : List Nat} {d : Dp} (hcode : q.opcode ∈ codes) (hmode : otherMode m .daras q = false)
    (hgate : gate m (entered .daras q d) q = .pass) :
    enter m .daras q codes d = settle m (arriveAt m .daras q (entered .daras q d)) := by
  have hnote : noteMode m q (entered .daras q d) = entered .daras q d := by simp [noteMode, hmode]
  rw [enter, if_neg (not_not_intro hcode)]
  change settle m (judged m q (gate m (entered .daras q d) q) _ (entered .daras q d)) = _
  rw [hgate, judged, hnote]

/-- No host port's lease has expired: no line is to be walked first (R143). -/
theorem purgeGone_none (m : Mgt) (line : Nat) (d : Dp) (h : ∀ p : Fin 2, hostGone d p = false) : purgeGone m line d = d :=
  foldl_same _ _ _ fun p _ => by simp [h p]

/-! ### What an add can do at its home -/

/-- Whatever becomes of an add that a package sent, memory, poison and directory stay, and at most the add itself waits afterwards. -/
structure AddKept (q : Msg) (d e : Dp) : Prop where
  mem : e.store.mem = d.store.mem
  poison : e.store.poison = d.store.poison
  dir : e.coh.dir = d.coh.dir
  trackers : e.coh.trackers = d.coh.trackers
  heldHome : e.coh.heldHome = d.coh.heldHome
  waiting : e.coh.waiting = d.coh.waiting ∨ e.coh.waiting = d.coh.waiting ++ [(.daras, q)]
  hosts : e.hosts = d.hosts

section
variable {m : Mgt} {q : Msg} {d e : Dp}

theorem AddKept.of_parts (hstore : e.store = d.store) (hcoh : e.coh = d.coh) (hhosts : e.hosts = d.hosts) : AddKept q d e :=
  ⟨by rw [hstore], by rw [hstore], by rw [hcoh], by rw [hcoh], by rw [hcoh], .inl (by rw [hcoh]), hhosts⟩

theorem refuse_addKept (opcode status arg : Nat) : AddKept q d (refuse m q opcode status arg d) :=
  .of_parts (refuse_store ..) (refuse_coh ..) (refuse_hosts ..)

theorem reply_addKept (opcode status arg : Nat) (payload : Bytes) (h : AddKept q d e) : AddKept q d (reply m q opcode status arg payload e) := by
  obtain ⟨hmem, hpoison, hdir, htrackers, hheld, hwaiting, hhosts⟩ := h
  constructor <;> simpa

theorem waitHome_addKept (hstore : e.store = d.store) (hcoh : e.coh = d.coh) (hhosts : e.hosts = d.hosts) :
    AddKept q d (waitHome .daras q e) := by
  constructor <;> simp [waitHome, hstore, hcoh, hhosts]

/-- An entry takes an add, and nothing but the entries changes. -/
theorem holdAdd_frame {via : Via} {at_ : Nat} (h : holdAdd via q at_ d = some e) :
    { e with store := { e.store with side := d.store.side, combine := d.store.combine } } = d := by
  unfold holdAdd at h
  dsimp only at h
  split at h <;> (obtain ⟨es, -, rfl⟩ := Option.map_eq_some_iff.mp h; rfl)

theorem holdAdd_addKept {via : Via} {at_ : Nat} (h : holdAdd via q at_ d = some e) : AddKept q d e := by
  rw [← holdAdd_frame h]
  exact ⟨rfl, rfl, rfl, rfl, rfl, .inl rfl, rfl⟩

theorem acknowledge_addFloat (region : Nat) (c : Change) (hcode : q.opcode = 0x10) :
    acknowledge m .daras q region c d = reply m q 0x58 c.status (if c.status = 0x04 ∨ c.status = 0x05 then region else c.arg) [] d := by
  simp [acknowledge, hcode]

theorem arriveAdd_addKept (region at_ : Nat) (reach : Reach) (hcode : q.opcode = 0x10) :
    AddKept q d (arriveAdd m .daras q region reach at_ d) := by
  unfold arriveAdd
  dsimp only
  split
  · rw [acknowledge_addFloat _ _ hcode]
    exact reply_addKept _ _ _ _ (.of_parts rfl rfl rfl)
  · split
    · exact waitHome_addKept rfl rfl rfl
    · split
      · split
        · exact waitHome_addKept rfl rfl rfl
        · exact refuse_addKept ..
      · split
        next hheld =>
          rw [acknowledge_addFloat _ _ hcode]
          exact reply_addKept _ _ _ _ (holdAdd_addKept hheld)
        · exact waitHome_addKept rfl rfl rfl

/-- Every ADD_FLOAT is held, whatever moves. -/
theorem heldKind_addFloat (d : Dp) (at_ : Nat) (hcode : q.opcode = 0x10) : heldKind d q at_ = true := by simp [heldKind, hcode]

theorem arrive_addFloat (region at_ : Nat) (reach : Reach) (hcode : q.opcode = 0x10) (hgone : ∀ p : Fin 2, hostGone d p = false) :
    arrive m .daras q region reach at_ d = arriveAdd m .daras q region reach at_ d := by
  unfold arrive
  dsimp only
  rw [purgeGone_none m _ d hgone, if_pos (heldKind_addFloat d at_ hcode)]

/-- The guard space takes no adds (R392). -/
theorem arriveGuard_addFloat (hcode : q.opcode = 0x10) : ∃ status arg, arriveGuard m q d = refuse m q 0x58 status arg d := by
  unfold arriveGuard
  dsimp only
  rw [hcode]
  split
  · exact ⟨_, _, rfl⟩
  · split
    · split
      · contradiction
      · contradiction
      · contradiction
      · exact ⟨_, _, rfl⟩
    · split
      · exact ⟨_, _, rfl⟩
      · exact ⟨_, _, rfl⟩

theorem unplaced_addFloat (hcode : q.opcode = 0x10) : unplaced m .daras q d = refuse m q 0x58 0x01 0 d := by
  rw [unplaced, kindOf_addFloat hcode, hcode]
  rfl

theorem arriveAt_addKept (hcode : q.opcode = 0x10) (hgone : ∀ p : Fin 2, hostGone d p = false) : AddKept q d (arriveAt m .daras q d) := by
  unfold arriveAt
  split
  · dsimp only
    split
    · exact refuse_addKept ..
    · rw [arrive_addFloat _ _ _ hcode hgone]
      exact arriveAdd_addKept _ _ _ hcode
  · rw [arrive_addFloat _ _ _ hcode hgone]
    exact arriveAdd_addKept _ _ _ hcode
  · obtain ⟨status, arg, h⟩ := arriveGuard_addFloat (m := m) (d := d) hcode
    rw [if_pos rfl, h]
    exact refuse_addKept ..
  · rw [unplaced_addFloat hcode]
    exact refuse_addKept ..

/-- A line reached through a view may be written where the view may. -/
def reachWritable (d : Dp) (r : Nat) (reach : Reach) : Prop := match reach with | .view v => viewWritable d r v = true | _ => True

/-- An add let in at a line of the store is dealt with there. -/
theorem arriveAt_addFloat {r a : Nat} {reach : Reach} (hcode : q.opcode = 0x10) (hplace : placeOffset m d (q.addr % 2 ^ 50) = .store r reach a)
    (hgone : ∀ p : Fin 2, hostGone d p = false) (hview : reachWritable d r reach) :
    arriveAt m .daras q d = arriveAdd m .daras q r reach a d := by
  unfold arriveAt
  rw [hplace]
  cases reach with
  | view v =>
    have hview : viewWritable d r v = true := hview
    simp [hview, arrive_addFloat r a (.view v) hcode hgone]
  | plain => exact arrive_addFloat r a .plain hcode hgone
  | head => exact arrive_addFloat r a .head hcode hgone

/-- The data plane with no request waiting at a home. -/
def noneWaiting (d : Dp) : Dp := { d with coh := { d.coh with waiting := [] } }

/-- What an add let in leaves once the home has settled: it is tried a second time where it waits. -/
theorem settle_arriveAt_addFloat (hcode : q.opcode = 0x10) (hgone : ∀ p : Fin 2, hostGone d p = false) (hquiet : Quiet d) :
    settle m (arriveAt m .daras q d) = stampWaits m (retryHome m (arriveAt m .daras q d))
    ∧ AddKept q d (retryHome m (arriveAt m .daras q d)) := by
  obtain ⟨hwaiting, hheld, hsent⟩ := hquiet
  have h : AddKept q d (arriveAt m .daras q d) := arriveAt_addKept hcode hgone
  generalize arriveAt m .daras q d = e at h
  have hretry : AddKept q d (retryHome m e) := by
    rcases h.waiting with hnone | hone
    · rwa [retryHome_none m e (hnone.trans hwaiting)]
    · rw [hwaiting] at hone
      have h' : AddKept q (noneWaiting e) (arriveAt m .daras q (noneWaiting e)) :=
        arriveAt_addKept hcode fun p => (hostGone_congr (d := d) h.hosts p).trans (hgone p)
      have hagain : retryHome m e = arriveAt m .daras q (noneWaiting e) := by
        rw [retryHome, hone]
        rfl
      rw [hagain]
      exact ⟨h'.mem.trans h.mem, h'.poison.trans h.poison, h'.dir.trans h.dir, h'.trackers.trans h.trackers,
        h'.heldHome.trans h.heldHome, by rw [hwaiting]; exact h'.waiting, h'.hosts.trans h.hosts⟩
  refine ⟨?_, hretry⟩
  rw [settle, retrySnoops_sent m e (by rwa [h.trackers]), releaseHeld_none m _ (hretry.heldHome.trans hheld)]

end

/-! ### The entry that another package's add joins -/

/-- An add's entry: by address and format alone while its frame is moved, otherwise one of its burst (R43, R292). -/
def joinEntry (moved : Bool) (q : Msg) (a : Nat) : AddEntry :=
  if moved then ⟨a / 64, q.addr / 64 * 64, bits q.arg 7 0, 0, 0, addendsOf q⟩
  else ⟨a / 64, q.addr / 64 * 64, bits q.arg 7 0, 2 ^ 40 + q.source, q.txn, addendsOf q⟩

/-- The entries it joins: the side buffer while its frame is moved, otherwise the combining entries. -/
def entriesOf (moved : Bool) (st : Store) : List AddEntry := if moved then st.side else st.combine

/-- The store with those entries replaced. -/
def withEntries (moved : Bool) (es : List AddEntry) (st : Store) : Store := if moved then { st with side := es } else { st with combine := es }

theorem holdAdd_daras {q : Msg} {a : Nat} {d : Dp} {moved : Bool} (hcode : q.opcode = 0x10)
    (hmoved : (d.store.moves.any fun v => v.covers (a / 65536)) = moved) :
    holdAdd .daras q a d = (putEntry (if moved then 4096 else 1024) (joinEntry moved q a) (entriesOf moved d.store)).map fun es =>
      { d with store := withEntries moved es d.store } := by
  unfold holdAdd heldSums
  rw [hmoved, hcode]
  cases moved with
  | true => rfl
  | false => rfl

/-! ### An add of another package -/

/-- An ADD_FLOAT of a package, let in at a line of the store. -/
structure AddLetIn (s : State) (q : Msg) (r : Nat) (reach : Reach) (a : Nat) : Prop where
  opcode : q.opcode = 0x10
  quiet : Quiet s.dp
  admitted : admitted s .daras q = true
  place : placeOffset s.mgt s.dp (q.addr % 2 ^ 50) = .store r reach a
  present : ∀ p : Fin 2, hostGone s.dp p = false
  writable : reachWritable s.dp r reach

namespace AddLetIn

variable {s : State} {q : Msg} {r a : Nat} {reach : Reach} (h : AddLetIn s q r reach a)
include h

theorem quiet_entered : Quiet (entered .daras q s.dp) := by simpa [Quiet] using h.quiet

theorem present_entered (p : Fin 2) : hostGone (entered .daras q s.dp) p = false :=
  (hostGone_congr (by simp) p).trans (h.present p)

theorem exec_eq :
    exec (.addFloat q) s = .next { s with dp := settle s.mgt (arriveAt s.mgt .daras q (entered .daras q s.dp)) } := by
  have hexec : exec (.addFloat q) s = execAddFloat q s := rfl
  rw [hexec, execAddFloat, liftDp_next, enter_daras_pass (by simp [h.opcode]) (otherMode_of_change (by rw [h.opcode]; decide))
    (of_decide_eq_true h.admitted)]

theorem arriveAt_eq :
    arriveAt s.mgt .daras q (entered .daras q s.dp) = arriveAdd s.mgt .daras q r reach a (entered .daras q s.dp) := by
  refine arriveAt_addFloat h.opcode ((placeOffset_congr s.mgt (by simp) _).trans h.place) h.present_entered ?_
  cases reach with
  | view v => exact (viewWritable_congr (by simp) r v).trans h.writable
  | plain => trivial
  | head => trivial

/-- An add that does not wait is dealt with once. -/
theorem exec_of_arriveAdd {e : Dp} (he : arriveAdd s.mgt .daras q r reach a (entered .daras q s.dp) = e) (hwaiting : e.coh.waiting = []) :
    exec (.addFloat q) s = .next { s with dp := stampWaits s.mgt e } := by
  rw [h.exec_eq, (settle_arriveAt_addFloat h.opcode h.present_entered h.quiet_entered).1, h.arriveAt_eq, he, retryHome_none s.mgt e hwaiting]

/-- On a poisoned line an add is refused with POISON and the region (R142). -/
theorem arriveAdd_poisoned (hpoison : (readLine s.mgt s.dp r a).2 = true) :
    arriveAdd s.mgt .daras q r reach a (entered .daras q s.dp) = reply s.mgt q 0x58 0x04 r [] (entered .daras q s.dp) := by
  have hread : readLine s.mgt (entered .daras q s.dp) r a = readLine s.mgt s.dp r a := readLine_congr s.mgt (by simp) r a
  rw [arriveAdd, hread, if_pos hpoison, acknowledge_addFloat _ _ h.opcode]
  rfl

/-- What another package's add leaves on a poisoned line: nothing of the store changes. -/
theorem exec_poisoned (hpoison : (readLine s.mgt s.dp r a).2 = true) :
    exec (.addFloat q) s = .next { s with dp := stampWaits s.mgt (reply s.mgt q 0x58 0x04 r [] (entered .daras q s.dp)) } :=
  h.exec_of_arriveAdd (h.arriveAdd_poisoned hpoison) (by simpa using h.quiet.1)

theorem next :
    ∃ t : State, exec (.addFloat q) s = .next t ∧ t.mgt = s.mgt ∧ t.dp.store.mem = s.dp.store.mem ∧ t.dp.store.poison = s.dp.store.poison
      ∧ t.dp.coh.dir = s.dp.coh.dir := by
  have ⟨hsettle, hkept⟩ := settle_arriveAt_addFloat (m := s.mgt) h.opcode h.present_entered h.quiet_entered
  refine ⟨_, h.exec_eq, rfl, ?_⟩
  rw [hsettle]
  have hmem := hkept.mem
  have hpoison := hkept.poison
  have hdir := hkept.dir
  rw [countIn_store, takeInbox_store] at hmem hpoison
  rw [countIn_coh, takeInbox_coh] at hdir
  exact ⟨hmem, hpoison, hdir⟩

section
variable {moved : Bool} (hsound : (readLine s.mgt s.dp r a).2 = false) (hhold : frameHeld s.dp (a / 65536) = false)
  (hflip : (s.dp.store.moves.any fun v => v.covers (a / 65536) && v.flipping) = false)
  (hcopy : needsCopy s.dp r reach (frameIndex s.mgt r reach (q.addr % 2 ^ 50)) = none)
  (hmoved : (s.dp.store.moves.any fun v => v.covers (a / 65536)) = moved)
include hsound hhold hflip hcopy hmoved

/-- Where nothing stops an add, it is held and acknowledged, or waits for an entry (R43, R292). -/
theorem arriveAdd_free :
    arriveAdd s.mgt .daras q r reach a (entered .daras q s.dp)
      = match putEntry (if moved then 4096 else 1024) (joinEntry moved q a) (entriesOf moved s.dp.store) with
        | some es => reply s.mgt q 0x58 0 0 [] { entered .daras q s.dp with store := withEntries moved es s.dp.store }
        | none => waitHome .daras q (entered .daras q s.dp) := by
  have hstore : (entered .daras q s.dp).store = s.dp.store := by simp
  have hread : readLine s.mgt (entered .daras q s.dp) r a = readLine s.mgt s.dp r a := readLine_congr s.mgt hstore r a
  have hheld : frameHeld (entered .daras q s.dp) (a / 65536) = false := by simpa [frameHeld] using hhold
  have hwaiting : (entered .daras q s.dp).coh.waiting = [] := h.quiet_entered.1
  rw [arriveAdd, hread, if_neg (by simp [hsound]), hheld, hwaiting, hstore, hflip, if_neg nofun,
    needsCopy_congr (d := s.dp) (by simp), hcopy, holdAdd_daras h.opcode (hstore ▸ hmoved), hstore]
  cases putEntry (if moved then 4096 else 1024) (joinEntry moved q a) (entriesOf moved s.dp.store) with
  | some es => exact acknowledge_addFloat _ _ h.opcode
  | none => rfl

theorem exec_held {es : List AddEntry} (hput : putEntry (if moved then 4096 else 1024) (joinEntry moved q a) (entriesOf moved s.dp.store) = some es) :
    exec (.addFloat q) s
      = .next { s with dp := stampWaits s.mgt (reply s.mgt q 0x58 0 0 [] { entered .daras q s.dp with store := withEntries moved es s.dp.store }) } := by
  refine h.exec_of_arriveAdd ?_ (by rw [reply_coh]; exact h.quiet_entered.1)
  rw [h.arriveAdd_free hsound hhold hflip hcopy hmoved, hput]

/-- An add for which no entry is free waits, and is not held the second time either. -/
theorem exec_full (hput : putEntry (if moved then 4096 else 1024) (joinEntry moved q a) (entriesOf moved s.dp.store) = none) :
    exec (.addFloat q) s = .next { s with dp := stampWaits s.mgt (waitHome .daras q (entered .daras q s.dp)) } := by
  have harrive := h.arriveAdd_free hsound hhold hflip hcopy hmoved
  rw [hput] at harrive
  have hwaiting : (entered .daras q s.dp).coh.waiting = [] := h.quiet_entered.1
  have hretry : retryHome s.mgt (waitHome .daras q (entered .daras q s.dp)) = arriveAt s.mgt .daras q (entered .daras q s.dp) := by
    rw [retryHome, waitHome, hwaiting, List.nil_append, List.foldl_cons, List.foldl_nil, ← hwaiting]
  rw [h.exec_eq, (settle_arriveAt_addFloat h.opcode h.present_entered h.quiet_entered).1, h.arriveAt_eq, harrive, hretry, h.arriveAt_eq,
    harrive]

end

end AddLetIn

end Sys2Proof.Proofs

/-! The application of a combining entry: the sums of R291, in the line alone, which is left uncached (R123, R142, R291, R292). -/

namespace Sys2Proof.Proofs

open Sys2Proof.Machine Sys2Proof.Laws Sys2Proof.Safety

/-! ### The message that an entry's application stands for -/

theorem bitAt_eq_testBit (x i : Nat) : bitAt x i = x.testBit i := by
  rw [bitAt, Nat.testBit_eq_decide_div_mod_eq, Nat.shiftRight_eq_div_pow]

/-- The elements that an entry holds a sum for, as the bits of a mask. -/
def sumMask (sums : List (Nat × BitVec 32)) : Nat := sums.foldl (fun a x => a ||| 2 ^ x.1) 0

theorem testBit_foldl_or (sums : List (Nat × BitVec 32)) (a i : Nat) :
    (sums.foldl (fun a x => a ||| 2 ^ x.1) a).testBit i = (a.testBit i || sums.any (·.1 = i)) := by
  induction sums generalizing a with
  | nil => simp
  | cons x sums ih => rw [List.foldl_cons, ih, Nat.testBit_or, Nat.testBit_two_pow, List.any_cons, Bool.or_assoc]

theorem testBit_sumMask (sums : List (Nat × BitVec 32)) (i : Nat) : (sumMask sums).testBit i = (assoc sums i).isSome := by
  rw [sumMask, testBit_foldl_or, Nat.zero_testBit, Bool.false_or, assoc, Option.isSome_map, Bool.eq_iff_iff, List.any_eq_true, List.find?_isSome]

theorem sumMask_lt {sums : List (Nat × BitVec 32)} {n : Nat} (h : ∀ x ∈ sums, x.1 < n) : sumMask sums < 2 ^ n := by
  refine Nat.lt_pow_two_of_testBit _ fun i hi => ?_
  rw [sumMask, testBit_foldl_or, Nat.zero_testBit, Bool.false_or, List.any_eq_false]
  intro x hx
  have := h x hx
  simp only [decide_eq_true_eq]
  omega

theorem assoc_map_key {β : Type} (g : Nat → β) (l : List Nat) (i : Nat) : assoc (l.map fun j => (j, g j)) i = if i ∈ l then some (g i) else none := by
  induction l with
  | nil => rfl
  | cons j l ih =>
    rw [assoc] at ih ⊢
    by_cases h : j = i
    · subst h
      simp
    · rw [List.map_cons, List.find?_cons_of_neg (by simpa using h), ih]
      simp [Ne.symm h]

/-- Pieces of one length laid end to end are read back by their number. -/
theorem slice_flatMap {α : Type} {k : Nat} (f : α → Bytes) (hf : ∀ x, (f x).length = k) (l : List α) (i : Nat) (hi : i < l.length) :
    slice (l.flatMap f) (k * i) k = f l[i] := by
  induction l generalizing i with
  | nil => exact absurd hi (Nat.not_lt_zero i)
  | cons x l ih =>
    rw [List.flatMap_cons]
    cases i with
    | zero => exact List.take_left' (hf x)
    | succ i =>
      rw [slice, Nat.mul_succ, Nat.add_comm, ← List.drop_drop, List.drop_left' (hf x)]
      exact ih i (Nat.lt_of_succ_lt_succ hi)

/-- A table format of the adds: its elements fill the line, and there are at most 32 of them. -/
theorem perLine_add {f : Nat} (hf : f ∈ [0x03, 0x04, 0x05]) : f < 256 ∧ max f 3 = f ∧ perLine f ≤ 32 := by
  simp only [List.mem_cons, List.not_mem_nil, or_false] at hf
  rcases hf with rfl | rfl | rfl <;> decide

section
variable (m : Mgt) {e : AddEntry} (hf : e.format ∈ [0x03, 0x04, 0x05]) (hsums : ∀ x ∈ e.sums, x.1 < 512 / fmtBits e.format)
include hf

theorem entryMsg_format : bits (entryMsg m e).arg 7 0 = e.format := by
  have harg : (entryMsg m e).arg = sumMask e.sums * 2 ^ 32 + e.format := rfl
  have := (perLine_add hf).1
  rw [bits_eq_div_mod, harg]
  omega
include hsums

theorem entryMsg_mask_lt : sumMask e.sums < 2 ^ 32 :=
  sumMask_lt fun x hx => Nat.lt_of_lt_of_le (hsums x hx) (perLine_add hf).2.2

theorem entryMsg_mask : bits (entryMsg m e).arg 63 32 = sumMask e.sums := by
  have harg : (entryMsg m e).arg = sumMask e.sums * 2 ^ 32 + e.format := rfl
  have hmask := entryMsg_mask_lt hf hsums
  have := (perLine_add hf).1
  rw [bits_eq_div_mod, harg]
  omega

/-- The message carries the entry's sums: every element reads the addend that the entry holds for it. -/
theorem assoc_addendsOf_entryMsg (i : Nat) (hi : i < 512 / fmtBits e.format) : assoc (addendsOf (entryMsg m e)) i = assoc e.sums i := by
  obtain ⟨-, hmax, hle⟩ := perLine_add hf
  have hpayload : (entryMsg m e).payload = (List.range (perLine e.format)).flatMap fun i => natBytes 4 (((assoc e.sums i).getD 0).toNat) := by
    change (List.range (perLine (max e.format 3))).flatMap _ = _
    rw [hmax]
  have hread : slice (entryMsg m e).payload (4 * i) 4 = natBytes 4 ((assoc e.sums i).getD 0).toNat := by
    rw [hpayload, slice_flatMap _ (fun _ => natBytes_length 4 _) _ i (by simpa [perLine] using hi), List.getElem_range]
  have hword : BitVec.ofNat 32 (leNat (slice (entryMsg m e).payload (4 * i) 4)) = (assoc e.sums i).getD 0 := by
    have hlt : ((assoc e.sums i).getD 0).toNat < 256 ^ 4 := ((assoc e.sums i).getD 0).isLt
    rw [hread, leNat_natBytes, Nat.mod_eq_of_lt hlt, BitVec.ofNat_toNat, BitVec.setWidth_eq]
  have hmark : i ∈ setBits 32 (sumMask e.sums) ↔ (assoc e.sums i).isSome = true := by
    rw [setBits, List.mem_filter, bitAt_eq_testBit, testBit_sumMask, List.mem_range]
    exact and_iff_right (Nat.lt_of_lt_of_le hi hle)
  rw [addendsOf, assoc_map_key (fun i => BitVec.ofNat 32 (leNat (slice (entryMsg m e).payload (4 * i) 4))), entryMsg_mask m hf hsums, hword]
  simp only [hmark]
  cases assoc e.sums i with
  | none => rfl
  | some v => rfl

end

/-- The sums of a line rest on what is held for its own elements. -/
theorem addLine_congr {f : Nat} {old : Bytes} {a b : List (Nat × BitVec 32)} (h : ∀ i < 512 / fmtBits f, assoc a i = assoc b i) :
    addLine f old a = addLine f old b := by
  unfold addLine
  dsimp only
  congr 2
  refine List.map_congr_left fun i hi => ?_
  rw [h i (List.mem_range.mp hi)]

theorem changeOf_entryMsg (m : Mgt) {e : AddEntry} (old : Bytes) (hf : e.format ∈ [0x03, 0x04, 0x05])
    (hsums : ∀ x ∈ e.sums, x.1 < 512 / fmtBits e.format) :
    changeOf (entryMsg m e) old false = ⟨addLine e.format old e.sums, false, true, 0, 0, []⟩ := by
  have hcode : (entryMsg m e).opcode = 0x10 := rfl
  have hadd : addLine (bits (entryMsg m e).arg 7 0) old (addendsOf (entryMsg m e)) = addLine e.format old e.sums := by
    rw [entryMsg_format m hf, addLine_congr fun i hi => assoc_addendsOf_entryMsg m hf hsums i hi]
  simp only [changeOf, hcode, hadd]
  rfl

/-- An add to a poisoned line leaves it as it is. -/
theorem changeOf_entryMsg_poisoned (m : Mgt) (e : AddEntry) (old : Bytes) : changeOf (entryMsg m e) old true = ⟨old, true, false, 0x04, 0, []⟩ := rfl

/-! ### A line of a region that is neither sealed nor guarded -/

/-- A region's lines are stored as they are, and no guard holds a copy. -/
def Unprotected (m : Mgt) (r : Nat) : Prop := ∀ g : Region, m.region r = some g → g.sealed = false ∧ g.guard = 0

/-- From one data plane to another only the frame table and what is observed have changed, as where a touch is counted. -/
def Touched (d e : Dp) : Prop := ∃ fs o, e = { d with store := { d.store with frames := fs }, obs := o }

theorem Touched.countAt {d e : Dp} (h : Touched d e) (group addr n : Nat) : Touched d (countAt group addr n e) := by
  obtain ⟨fs, o, rfl⟩ := h
  unfold Machine.countAt
  split
  · exact ⟨fs, _, rfl⟩
  · exact ⟨fs, o, rfl⟩

/-- A host's touch is counted in its frame's heat and in the counters (R36, R443). -/
theorem countTouch_touched (m : Mgt) (p : Fin 2) (q : Msg) (a : Nat) (write : Bool) (d : Dp) :
    Touched d (countTouch m (.host p) q a write d) := by
  have hheat : Touched d (heat m (viaHalf m d (.host p) q) a d) := ⟨_, d.obs, rfl⟩
  unfold countTouch
  dsimp only
  split
  · exact ((hheat.countAt ..).countAt ..).countAt ..
  · exact (hheat.countAt ..).countAt ..

theorem setFrame_touched {d e : Dp} (h : Touched d e) (x : FrameRec) : Touched d (setFrame x e) := by
  obtain ⟨fs, o, rfl⟩ := h
  exact ⟨_, o, rfl⟩

/-- The stored bytes of a line rest on the memory and on what is taken over. -/
theorem Touched.rawLine {d e : Dp} (h : Touched d e) (a : Nat) : rawLine e a = rawLine d a := by
  obtain ⟨fs, o, rfl⟩ := h
  rfl

theorem mem_addNew {α : Type} [DecidableEq α] (l : List α) (a : α) : a ∈ addNew l a := by
  unfold addNew
  split
  · assumption
  · exact List.mem_cons_self

/-- A line stored reads back, taken over from a lost package or not (R401). -/
theorem rawLine_setRaw {a : Nat} {data : Bytes} {d : Dp} (hwf : Memory.wf d.store.mem = true) (hdata : data.length = 64) :
    rawLine (setRaw a data d) a = data := by
  have howned : ¬((restoredFrame (setRaw a data d) (a / 65536) && decide (a / 64 ∉ (setRaw a data d).store.own)) = true) := by
    have hrestored : restoredFrame (setRaw a data d) (a / 65536) = restoredFrame d (a / 65536) := rfl
    rw [hrestored]
    by_cases h : restoredFrame d (a / 65536) = true
    · simp [setRaw, h, mem_addNew]
    · simp [h]
  have hread := cellRead_cellWrite 0 data d.store.mem (a / 64 * 64) hwf
  rw [hdata] at hread
  rwa [rawLine, if_neg howned]

section
variable {m : Mgt} {r : Nat} (hr : Unprotected m r)
include hr

theorem readLine_unprotected (d : Dp) (a : Nat) : readLine m d r a = (rawLine d a, decide (a / 64 ∈ d.store.poison)) := by
  unfold readLine
  dsimp only
  split
  next hpoison => simp [hpoison]
  next hsound =>
    have hsound : decide (a / 64 ∈ d.store.poison) = false := by simpa using hsound
    rw [hsound]
    split
    next g hg =>
      rw [(hr g hg).1]
      rfl
    · rfl

theorem storeLine_unprotected (a : Nat) (data : Bytes) (d : Dp) : storeLine m r a data d = setRaw a data d := by
  unfold storeLine
  dsimp only
  split
  next g hg =>
    rw [(hr g hg).1]
    rfl
  · rfl

theorem openFrame_unprotected (f : Nat) (d : Dp) : Touched d (openFrame m r f d) := by
  have hsealed : ((m.region r).map (·.sealed)).getD false = false := by
    cases hg : m.region r with
    | none => rfl
    | some g => exact (hr g hg).1
  unfold openFrame
  rw [hsealed]
  dsimp only
  split
  · exact setFrame_touched ⟨_, _, rfl⟩ _
  · exact ⟨_, _, rfl⟩

/-- A clean write of a line: its frame's entry may change, and the line takes the bytes, loses its poison, and is copied again where its frame moves. -/
theorem writeLine_unprotected (a : Nat) (data : Bytes) (d : Dp) :
    ∃ e, Touched d e ∧ writeLine m r a data false d
      = markDirty a { setRaw a data e with store := { (setRaw a data e).store with poison := d.store.poison.filter (· ≠ a / 64) } } := by
  have hopen := openFrame_unprotected hr (a / 65536) d
  have hstale : Touched d (staleCoarse m r (a / 65536) (openFrame m r (a / 65536) d)) := by
    unfold staleCoarse
    split
    · exact setFrame_touched hopen _
    · exact hopen
  refine ⟨_, hstale, ?_⟩
  unfold writeLine
  dsimp only
  rw [storeLine_unprotected hr]
  generalize staleCoarse m r (a / 65536) (openFrame m r (a / 65536) d) = e at hstale
  obtain ⟨fs, o, rfl⟩ := hstale
  rfl

/-- A clean write of a whole line of a canonical memory changes that line alone. -/
theorem writeLine_unprotected_effect {a : Nat} {data : Bytes} {d : Dp} (hwf : Memory.wf d.store.mem = true) (hdata : data.length = 64) :
    let e := writeLine m r a data false d
    e.coh = d.coh ∧ e.fab = d.fab ∧ e.tasks = d.tasks ∧ e.store.combine = d.store.combine ∧ readLine m e r a = (data, false)
    ∧ ∀ b : Nat, b / 64 ≠ a / 64 → cellGet 0 e.store.mem b = cellGet 0 d.store.mem b := by
  obtain ⟨e, ⟨fs, o, rfl⟩, he⟩ := writeLine_unprotected hr a data d
  simp only [he]
  refine ⟨rfl, rfl, rfl, rfl, ?_, fun b hb => ?_⟩
  · have hraw : rawLine (setRaw a data { d with store := { d.store with frames := fs }, obs := o }) a = data := rawLine_setRaw hwf hdata
    rw [readLine_unprotected hr]
    refine Prod.ext hraw ?_
    simp [markDirty]
  · change cellGet 0 (cellWrite 0 d.store.mem (a / 64 * 64) data) b = _
    rw [cellGet_cellWrite _ _ _ _ _ hwf, if_neg]
    omega

/-- A clean change of a sound line is the write of the line, and there is no guard to wait for. -/
theorem applyChange_unprotected {a : Nat} {data : Bytes} {d : Dp} (hsound : a / 64 ∉ d.store.poison) (part bw : Nat) :
    applyChange m r a data false part bw d = ([], writeLine m r a data false d) := by
  have hkept : ¬((decide (a / 64 ∈ d.store.poison) && !false) = true) := by simp [hsound]
  unfold applyChange
  dsimp only
  rw [if_neg hkept]
  split
  · rfl
  next g hg => rw [if_pos (hr g hg).2]

end

/-! ### The directory entry of a line -/

/-- Forgetting the words once written to slots touches nothing else. -/
theorem clearSlots_frame (es : List DirEntry) (d : Dp) :
    ∃ raw, es.foldl (fun d e => clearSlot (dirSlot e) d) d = { d with coh := { d.coh with raw := raw } } := by
  refine foldl_keeps (fun x => ∃ raw, x = { d with coh := { d.coh with raw := raw } }) _ ?_ es d ⟨_, rfl⟩
  rintro _ e ⟨raw, rfl⟩
  exact ⟨_, rfl⟩

theorem dropEntry_eq (line : Nat) (d : Dp) :
    ∃ raw, dropEntry line d = { d with coh := { d.coh with raw := raw, dir := d.coh.dir.filter (·.line ≠ line) } } := by
  obtain ⟨raw, hraw⟩ := clearSlots_frame (d.coh.dir.filter (·.line = line)) d
  exact ⟨raw, by rw [dropEntry, hraw]⟩

theorem dropEntry_store (line : Nat) (d : Dp) : (dropEntry line d).store = d.store := by
  obtain ⟨raw, hraw⟩ := dropEntry_eq line d
  rw [hraw]

theorem entry_dropEntry (line : Nat) (d : Dp) : (dropEntry line d).entry line = none := by
  obtain ⟨raw, hraw⟩ := dropEntry_eq line d
  rw [hraw, Dp.entry, List.find?_eq_none]
  intro e he
  simpa using (List.mem_filter.mp he).2

/-! ### Serving a change -/

/-- The data plane at a home that has counted a request's touch. -/
def counted (m : Mgt) (via : Via) (q : Msg) (a : Nat) (d : Dp) : Dp := countTouch m via q a (changes (kindOf m via q) q) d

/-- The data plane at a home just before a request's change: the touch counted, a failed tag noted, the directory entry as the request leaves it. -/
def beforeChange (m : Mgt) (via : Via) (q : Msg) (r a : Nat) (d : Dp) : Dp :=
  entryAfter m (kindOf m via q) (lineOf q.addr) (holderOf d via q) (noteTag m r a (readLine m (counted m via q a d) r a).2 (counted m via q a d))

section
variable {m : Mgt} {via : Via} {q : Msg} {r a : Nat} {fwd : Bool} {d : Dp} {c : Change} (hchanges : changes (kindOf m via q) q = true)
  (hc : changeOf q (readLine m (counted m via q a d) r a).1 (readLine m (counted m via q a d) r a).2 = c)
include hchanges hc

/-- A request whose change comes to nothing is acknowledged. -/
theorem serve_of_unchanged (hnone : c.changed = false) : serve m via q r a fwd d = acknowledge m via q r c (beforeChange m via q r a d) := by
  subst hc
  unfold serve
  dsimp only
  unfold counted at hnone
  rw [if_pos hchanges, if_neg (Bool.eq_false_iff.mp hnone)]
  rfl

/-- A change that no guard is to be told of is applied and acknowledged at once. -/
theorem serve_of_unguarded (hsome : c.changed = true) {e : Dp}
    (happly : applyChange m r a c.data c.poison q.partition q.bwClass (beforeChange m via q r a d) = ([], e)) :
    serve m via q r a fwd d = acknowledge m via q r c e := by
  subst hc
  unfold serve
  dsimp only
  unfold beforeChange counted at happly
  unfold counted at hsome
  rw [if_pos hchanges, if_pos hsome, happly]
  rfl

end

/-! ### Serving an entry's application -/

/-- A line that is read as poisoned and is known to be has no tag to note. -/
theorem noteTag_of_known {m : Mgt} {a : Nat} {poisoned : Bool} (d : Dp) (r : Nat) (h : poisoned = true → a / 64 ∈ d.store.poison) :
    noteTag m r a poisoned d = d := by
  rw [noteTag, if_neg]
  cases poisoned with
  | false => nofun
  | true => simp [h rfl]

theorem acknowledge_entryMsg (m : Mgt) (p : Fin 2) (e : AddEntry) (r : Nat) (c : Change) (d : Dp) :
    acknowledge m (.host p) (entryMsg m e) r c d = d := rfl

theorem changes_entryMsg (m : Mgt) (p : Fin 2) (e : AddEntry) : changes (kindOf m (.host p) (entryMsg m e)) (entryMsg m e) = true := by
  rw [kindOf_addFloat rfl]
  rfl

/-- The application of an entry, with no holder left to snoop: its touch is counted, its line is uncached, and the sums are written unless the line is poisoned (R123, R142, R291). -/
theorem serve_entryMsg {m : Mgt} {e : AddEntry} {r : Nat} (hr : Unprotected m r) (p : Fin 2) (a : Nat) (d : Dp)
    (hf : e.format ∈ [0x03, 0x04, 0x05]) (hsums : ∀ x ∈ e.sums, x.1 < 512 / fmtBits e.format) :
    ∃ x, Touched d x ∧ serve m (.host p) (entryMsg m e) r a false d = if a / 64 ∈ d.store.poison then dropEntry (lineOf e.pool) x
      else writeLine m r a (addLine e.format (rawLine d a) e.sums) false (dropEntry (lineOf e.pool) x) := by
  have htouch : Touched d (counted m (.host p) (entryMsg m e) a d) := countTouch_touched ..
  refine ⟨_, htouch, ?_⟩
  have hpoisons : (counted m (.host p) (entryMsg m e) a d).store.poison = d.store.poison := by
    obtain ⟨fs, o, h⟩ := htouch
    rw [h]
  have hread : readLine m (counted m (.host p) (entryMsg m e) a d) r a = (rawLine d a, decide (a / 64 ∈ d.store.poison)) := by
    rw [readLine_unprotected hr, htouch.rawLine, hpoisons]
  have hbefore : beforeChange m (.host p) (entryMsg m e) r a d = dropEntry (lineOf e.pool) (counted m (.host p) (entryMsg m e) a d) := by
    rw [beforeChange, noteTag_of_known _ _ (by rw [hread, hpoisons]; exact of_decide_eq_true), kindOf_addFloat rfl]
    rfl
  split
  next hpoison =>
    have hc := changeOf_entryMsg_poisoned m e (rawLine d a)
    rw [serve_of_unchanged (changes_entryMsg m p e) (c := ⟨rawLine d a, true, false, 0x04, 0, []⟩) (by rw [hread, decide_eq_true hpoison, hc]) rfl,
      acknowledge_entryMsg, hbefore]
  next hsound =>
    have hc := changeOf_entryMsg m (rawLine d a) hf hsums
    rw [serve_of_unguarded (changes_entryMsg m p e) (c := ⟨addLine e.format (rawLine d a) e.sums, false, true, 0, 0, []⟩)
      (by rw [hread, decide_eq_false hsound, hc]) rfl (applyChange_unprotected hr ?_ _ _), acknowledge_entryMsg, hbefore]
    rwa [hbefore, dropEntry_store, hpoisons]

/-- What the application of an entry is to leave: the line uncached and, unless it is poisoned, with its sums; no other byte changed, and nothing else of the home. -/
structure Applied (m : Mgt) (e : AddEntry) (r : Nat) (d t : Dp) : Prop where
  fab : t.fab = d.fab
  tasks : t.tasks = d.tasks
  trackers : t.coh.trackers = d.coh.trackers
  waiting : t.coh.waiting = d.coh.waiting
  heldHome : t.coh.heldHome = d.coh.heldHome
  combine : t.store.combine = d.store.combine
  uncached : t.entry (lineOf e.pool) = none
  line : readLine m t r (e.line * 64) = if (readLine m d r (e.line * 64)).2 then readLine m d r (e.line * 64)
    else (addLine e.format (readLine m d r (e.line * 64)).1 e.sums, false)
  others : ∀ b : Nat, b / 64 ≠ e.line → cellGet 0 t.store.mem b = cellGet 0 d.store.mem b

theorem addLine_length (format : Nat) (old : Bytes) (sums : List (Nat × BitVec 32)) : (addLine format old sums).length = 64 := fit_length 64 _

theorem serve_entryMsg_applied {m : Mgt} {e : AddEntry} {r : Nat} (hr : Unprotected m r) (p : Fin 2) {d : Dp}
    (hwf : Memory.wf d.store.mem = true) (hf : e.format ∈ [0x03, 0x04, 0x05]) (hsums : ∀ x ∈ e.sums, x.1 < 512 / fmtBits e.format) :
    Applied m e r d (serve m (.host p) (entryMsg m e) r (e.line * 64) false d) := by
  obtain ⟨x, ⟨fs, o, rfl⟩, hserve⟩ := serve_entryMsg hr p (e.line * 64) d hf hsums
  obtain ⟨raw, hdrop⟩ := dropEntry_eq (lineOf e.pool) { d with store := { d.store with frames := fs }, obs := o }
  have hline : e.line * 64 / 64 = e.line := Nat.mul_div_cancel _ (by decide)
  have hgone := entry_dropEntry (lineOf e.pool) { d with store := { d.store with frames := fs }, obs := o }
  rw [hserve, hline]
  rw [hdrop] at hgone ⊢
  split
  next hpoison =>
    have hread : readLine m d r (e.line * 64) = (rawLine d (e.line * 64), true) := by
      rw [readLine_unprotected hr, hline, decide_eq_true hpoison]
    refine ⟨rfl, rfl, rfl, rfl, rfl, rfl, hgone, ?_, fun _ _ => rfl⟩
    rw [if_pos (by rw [hread]), readLine_unprotected hr, readLine_unprotected hr]
    rfl
  next hsound =>
    have hread : readLine m d r (e.line * 64) = (rawLine d (e.line * 64), false) := by
      rw [readLine_unprotected hr, hline, decide_eq_false hsound]
    have heffect := writeLine_unprotected_effect hr (a := e.line * 64) (data := addLine e.format (rawLine d (e.line * 64)) e.sums)
      (d := { d with store := { d.store with frames := fs }, obs := o, coh := { d.coh with raw := raw, dir := d.coh.dir.filter (·.line ≠ lineOf e.pool) } })
      hwf (addLine_length ..)
    obtain ⟨hcoh, hfab, htasks, hcombine, hwritten, hothers⟩ := heffect
    rw [hline] at hothers
    refine ⟨hfab, htasks, by rw [hcoh], by rw [hcoh], by rw [hcoh], hcombine, ?_, ?_, hothers⟩
    · rw [Dp.entry, hcoh]
      exact hgone
    · rw [hread, if_neg nofun]
      exact hwritten

/-! ### The application of an entry -/

/-- An entry whose line is busy, held or being moved stays. -/
theorem applyEntry_stays {m : Mgt} {e : AddEntry} {d : Dp}
    (h : busy d (lineOf e.pool) = true ∨ d.store.moves.any (·.covers (e.line / 1024)) = true ∨ frameHeld d (e.line / 1024) = true) :
    applyEntry m e d = d := by
  unfold applyEntry
  dsimp only
  rw [if_pos (by simpa [or_assoc] using h)]

/-- An entry that nothing hinders leaves the combining entries, and is served as its message. -/
theorem applyEntry_serves {m : Mgt} {e : AddEntry} {d : Dp} {r a : Nat} {reach : Reach}
    (hfree : ¬(busy d (lineOf e.pool) = true ∨ d.store.moves.any (·.covers (e.line / 1024)) = true ∨ frameHeld d (e.line / 1024) = true))
    (hplace : storePlace m d e.pool = some (r, reach, a)) (hsnoops : ∀ x, d.entry (lineOf e.pool) = some x → snoopsFor m .atomic none x = []) :
    ∃ p, applyEntry m e d = serve m (.host p) (entryMsg m e) r (e.line * 64) false
      { d with store := { d.store with combine := d.store.combine.erase e } } := by
  have hhome : applyEntry.frameHome m { d with store := { d.store with combine := d.store.combine.erase e } } e = some r := by
    have hplace' : storePlace m { d with store := { d.store with combine := d.store.combine.erase e } } e.pool = storePlace m d e.pool :=
      storePlace_congr m rfl e.pool
    rw [applyEntry.frameHome, hplace', hplace]
  refine ⟨Fin.ofNat 2 (((d.task e.task).map fun t => halfOf t.cluster).getD (homeSlice (lineOf e.pool))), ?_⟩
  unfold applyEntry
  dsimp only
  rw [if_neg (by simpa [or_assoc] using hfree), hhome]
  dsimp only
  split
  · rfl
  next x hx => rw [hsnoops x hx]; rfl

theorem combiningEntryApply_eq {s : State} {line : Nat} {e : AddEntry} (he : s.dp.store.combine.find? (fun x => lineOf x.pool = line) = some e) :
    exec (.combiningEntryApply line) s = .next { s with dp := settle s.mgt (applyEntry s.mgt e s.dp) } := by
  have hexec : exec (.combiningEntryApply line) s = execCombiningEntryApply line s := rfl
  rw [hexec, execCombiningEntryApply, liftDp_next, he]

/-- Settles O33: an add's way through its home ends in one of four ways, and the application of an entry is a change of its line alone. -/
theorem addsAreHeldAndApplied : Obligations.AddsAreHeldAndApplied := by
  unfold Obligations.AddsAreHeldAndApplied
  refine ⟨fun s q r reach a hcode hquiet hadmitted hplace hpresent hview => ?_, fun s line e r reach a he hquiet => ?_⟩
  · have h : AddLetIn s q r reach a := ⟨hcode, hquiet, hadmitted, hplace, hpresent, hview⟩
    obtain ⟨t, hexec, hmgt, hmem, hpoison, hdir⟩ := h.next
    refine ⟨t, hexec, hmgt, hmem, hpoison, hdir, ?_⟩
    have hfab : (entered .daras q s.dp).fab = (takeInbox q s.dp).fab := countIn_fab ..
    have hwaiting : (entered .daras q s.dp).coh.waiting = [] := h.quiet_entered.1
    split
    next hpoisoned =>
      cases (h.exec_poisoned hpoisoned).symm.trans hexec
      exact ⟨by simp, by simpa using hwaiting, reply_fab_congr s.mgt hfab ..⟩
    next hsound =>
      intro hhold hflip hcopy moved f e
      have hsound : (readLine s.mgt s.dp r a).2 = false := by simpa using hsound
      split
      next es hput =>
        cases (h.exec_held hsound hhold hflip hcopy rfl hput).symm.trans hexec
        refine ⟨reply_store .., by simpa using hwaiting, ?_⟩
        exact reply_fab_congr s.mgt (by exact hfab) ..
      next hput =>
        cases (h.exec_full hsound hhold hflip hcopy rfl hput).symm.trans hexec
        refine ⟨by simp [waitHome], ?_, hfab⟩
        rw [stampWaits_waiting, waitHome, hwaiting]
        rfl
  · obtain rfl : lineOf e.pool = line := by simpa using List.find?_some he
    rw [combiningEntryApply_eq he]
    split
    next hbusy =>
      rw [applyEntry_stays hbusy, settle_quiet _ _ hquiet]
      exact ⟨_, rfl, rfl, rfl, rfl, rfl⟩
    next hfree =>
      intro hplace hsnoops hwf hplain hf hsums
      obtain ⟨p, happly⟩ := applyEntry_serves hfree hplace fun x hx => by simpa only [hx] using hsnoops
      have h : Applied s.mgt e r { s.dp with store := { s.dp.store with combine := s.dp.store.combine.erase e } } (applyEntry s.mgt e s.dp) := by
        rw [happly]
        exact serve_entryMsg_applied hplain p hwf hf hsums
      have hquiet' : Quiet (applyEntry s.mgt e s.dp) := by
        rw [Quiet, h.waiting, h.heldHome, h.trackers]
        exact hquiet
      rw [settle_quiet _ _ hquiet']
      exact ⟨_, rfl, rfl, h.fab, h.tasks, h.trackers, h.combine, h.uncached, h.line, h.others⟩

end Sys2Proof.Proofs

/-! What an answer to a translation request, an invalidation and the completion of an outbound read leave behind (R63, R65, R66, R68 to R71, R113, R324). -/

namespace Sys2Proof.Proofs

open Sys2Proof.Machine Sys2Proof.Laws Sys2Proof.Safety

/-! ### Host ports and what stands of the data plane -/

theorem quiet_congr {d e : Dp} (h : e.coh = d.coh) (hquiet : Quiet d) : Quiet e := by
  rw [Quiet, h]
  exact hquiet

theorem modWhere_one {α : Type} [DecidableEq α] (l : List α) (a : α) (f : α → α) :
    modWhere l (fun x => decide (x = a)) f = l.map fun x => if x = a then f a else x := by
  refine List.map_congr_left fun x _ => ?_
  by_cases hx : x = a <;> simp [hx]

theorem task_congr {d e : Dp} (h : e.tasks.tasks = d.tasks.tasks) (id : Nat) : e.task id = d.task id := by
  rw [Dp.task, h, Dp.task]

/-- A host port changed is found changed. -/
theorem hostPort_modPort {p : Nat} (f : HostPort → HostPort) {d : Dp} (hp : p < d.hosts.ports.length) :
    (modPort p f d).hostPort p = f (d.hostPort p) := by
  simp [modPort, modAt, Dp.hostPort, List.getD_eq_getElem?_getD, hp]

/-- An error reported in a port's AER status sets its bit there and leaves the others. -/
theorem aerUncorrectable_status {p : Nat} (bit : Nat) {d : Dp} (hp : p < d.hosts.ports.length) :
    ((aerUncorrectable p bit d).hostPort p).uncorrStatus = (d.hostPort p).uncorrStatus ||| BitVec.ofNat 32 (2 ^ bit) := by
  rw [aerUncorrectable, hostPort_modPort _ hp]

theorem noDue_eq {d : Dp} (h : d.tasks.due = []) : { d with tasks := { d.tasks with due := [] } } = d := by rw [← h]

/-- Where no rejection waits for a translation, none is tried again. -/
theorem retryDue_none (m : Mgt) {d : Dp} (h : d.tasks.due = []) : retryDue m d = d := by
  rw [retryDue, h, List.foldl_nil, noDue_eq h]

/-! ### Translation requests that go out -/

/-- From one data plane to another, translation requests have gone out and nothing else has happened. -/
def OnlyAsked (d e : Dp) : Prop :=
  ∃ (reqs : List XltReq) (asked : List Out), e = { d with hosts := { d.hosts with reqs := reqs }, out := d.out ++ asked }
    ∧ ∀ o ∈ asked, ∃ q a n : Nat, o = .atsRequest q a n

theorem sendWaiting_onlyAsked (m : Mgt) (d : Dp) : OnlyAsked d (sendWaiting m d) := by
  refine foldl_keeps (OnlyAsked d) _ ?_ _ _ ⟨d.hosts.reqs, [], by simp, nofun⟩
  rintro _ r ⟨reqs, asked, rfl, hasked⟩
  dsimp only
  split
  · exact ⟨reqs, asked, rfl, hasked⟩
  · refine ⟨_, asked ++ [.atsRequest r.port r.page r.bytes], by rw [← List.append_assoc]; rfl, fun o ho => ?_⟩
    obtain ho | ho := List.mem_append.mp ho
    · exact hasked o ho
    · exact ⟨_, _, _, List.mem_singleton.mp ho⟩

/-! ### A translation granted -/

/-- A translation stands in its cluster's cache, whenever it was last used. -/
def Cached (x : Xlt) (d : Dp) : Prop := ∃ n, { x with used := n } ∈ d.hosts.caches

/-- From one data plane to another, only translation caches have changed. -/
def OnlyCaches (d e : Dp) : Prop := ∃ cs n, e = { d with hosts := { d.hosts with caches := cs, uses := n } }

theorem fillCache_onlyCaches {d e : Dp} (h : OnlyCaches d e) (x : Xlt) : OnlyCaches d (fillCache x e) := by
  obtain ⟨_, _, rfl⟩ := h
  exact ⟨_, _, rfl⟩

theorem fillCache_cached (x : Xlt) (d : Dp) : Cached x (fillCache x d) :=
  ⟨d.hosts.uses, List.mem_append_right _ (List.mem_singleton.mpr rfl)⟩

theorem mem_of_minBy {α : Type} {key : α → Nat} {l : List α} {a : α} (h : minBy key l = some a) : a ∈ l := by
  induction l generalizing a with
  | nil => cases h
  | cons b l ih =>
    simp only [minBy] at h
    split at h
    · cases h
      exact List.mem_cons_self
    next c hc =>
      split at h <;> cases h
      · exact List.mem_cons_self
      · exact List.mem_cons_of_mem _ (ih hc)

/-- A translation put into one cluster's cache takes no place in another's (R65). -/
theorem fillCache_keeps {x y : Xlt} (hcluster : y.cluster ≠ x.cluster) {d : Dp} (h : Cached y d) : Cached y (fillCache x d) := by
  obtain ⟨n, hn⟩ := h
  refine ⟨n, List.mem_append_left _ ?_⟩
  have hfresh : { y with used := n } ∈ d.hosts.caches.filter fun z => !(z.cluster = x.cluster && z.port = x.port && z.page = x.page && z.bytes = x.bytes) := by
    simp [hn, hcluster]
  split
  · exact hfresh
  · split
    next v hv =>
      have hv : v.cluster = x.cluster := by
        have := mem_of_minBy hv
        simp only [List.mem_filter, Bool.and_eq_true, decide_eq_true_eq] at this
        exact this.2.1
      refine (List.mem_erase_of_ne ?_).mpr hfresh
      rintro rfl
      exact hcluster hv
    · exact hfresh

/-- What a completion grants a cluster of the page asked for (R66). -/
def granted (r : XltReq) (a : AtsAnswer) (c : Nat) : Xlt :=
  ⟨c, r.port, r.page, a.base / a.bytes * a.bytes + r.page % a.bytes, r.bytes, a.read, a.write, 0, false⟩

theorem fillCaches_onlyCaches (r : XltReq) (a : AtsAnswer) (cs : List Nat) (d : Dp) :
    OnlyCaches d (cs.foldl (fun d c => fillCache (granted r a c) d) d) :=
  foldl_keeps (OnlyCaches d) _ (fun _ _ h => fillCache_onlyCaches h _) cs d ⟨_, _, rfl⟩

theorem fillCaches_cached (r : XltReq) (a : AtsAnswer) (c : Nat) (cs : List Nat) (d : Dp) (h : c ∈ cs ∨ Cached (granted r a c) d) :
    Cached (granted r a c) (cs.foldl (fun d c => fillCache (granted r a c) d) d) := by
  induction cs generalizing d with
  | nil => simpa using h
  | cons b cs ih =>
    refine ih _ ?_
    by_cases hb : c = b
    · subst hb
      exact .inr (fillCache_cached _ d)
    · exact h.imp (fun h => (List.mem_cons.mp h).resolve_left hb) fun h => fillCache_keeps hb h

/-! ### A translation refused -/

/-- A task that asked for a page ends with a cause of Table 2, or, where only its completion is left, without writing it (R68, R171). -/
def failAsker (m : Mgt) (cause : Nat) (d : Dp) (id : Nat) : Dp :=
  match d.task id with
  | none => d
  | some t =>
    if stageOf d id = 23 then removeTask m id (undeliverable m t.part t.slot (wordAt t.record 1) (taskCpl m d t) d)
    else failTask id 0x24 cause d

/-- What the end of tasks leaves alone. -/
structure TasksEnded (d e : Dp) : Prop where
  store : e.store = d.store
  coh : e.coh = d.coh
  fab : e.fab = d.fab
  caches : e.hosts.caches = d.hosts.caches
  due : e.tasks.due = d.tasks.due

theorem TasksEnded.refl (d : Dp) : TasksEnded d d := ⟨rfl, rfl, rfl, rfl, rfl⟩

theorem TasksEnded.trans {d e f : Dp} (h : TasksEnded d e) (h' : TasksEnded e f) : TasksEnded d f :=
  ⟨h'.store.trans h.store, h'.coh.trans h.coh, h'.fab.trans h.fab, h'.caches.trans h.caches, h'.due.trans h.due⟩

theorem removeTask_tasksEnded (m : Mgt) (id : Nat) (d : Dp) : TasksEnded d (removeTask m id d) := by
  unfold removeTask
  split
  · exact .refl d
  · dsimp only
    refine foldl_keeps (TasksEnded d) _ ?_ _ _ ⟨?_, ?_, ?_, ?_, ?_⟩
    · exact fun e x h => h.trans ⟨rfl, rfl, rfl, rfl, rfl⟩
    all_goals simp [dropSetAside]

theorem failAsker_tasksEnded (m : Mgt) (cause : Nat) (d : Dp) (id : Nat) : TasksEnded d (failAsker m cause d id) := by
  unfold failAsker
  split
  · exact .refl d
  · split
    · exact TasksEnded.trans (e := undeliverable ..) ⟨rfl, rfl, rfl, rfl, rfl⟩ (removeTask_tasksEnded ..)
    · exact ⟨rfl, rfl, rfl, rfl, rfl⟩

theorem failAskers_tasksEnded (m : Mgt) (cause : Nat) (ids : List Nat) (d : Dp) : TasksEnded d (ids.foldl (failAsker m cause) d) :=
  foldl_keeps (TasksEnded d) _ (fun e id h => h.trans (failAsker_tasksEnded m cause e id)) ids d (.refl d)

/-- Rejections whose completion waited for the page are given up (R171). -/
def giveUpDue (m : Mgt) (r : XltReq) (d : Dp) : Dp :=
  let mine := fun (x : Nat × Nat × Nat × Bytes) => match outWindow m x.2.2.1 with
    | some w => decide (w.port = r.port ∧ (x.2.2.1 - w.poolBase + w.hostBase) / w.pageBytes * w.pageBytes = r.page)
    | none => false
  (d.tasks.due.filter mine).foldl (fun d x => undeliverable m x.2.1 x.1 x.2.2.1 x.2.2.2 d)
    { d with tasks := { d.tasks with due := d.tasks.due.filter fun x => !mine x } }

theorem giveUpDue_none (m : Mgt) (r : XltReq) {d : Dp} (h : d.tasks.due = []) : giveUpDue m r d = d := by
  simp only [giveUpDue, h, List.filter_nil, List.foldl_nil]
  rw [noDue_eq h]

/-- Where no rejection waits for a translation, only the tasks that asked end. -/
theorem failPage_eq (m : Mgt) (r : XltReq) (cause : Nat) {d : Dp} (h : d.tasks.due = []) :
    failPage m r cause d = r.tasks.foldl (failAsker m cause) d :=
  calc failPage m r cause d = giveUpDue m r (r.tasks.foldl (failAsker m cause) d) := rfl
    _ = r.tasks.foldl (failAsker m cause) d := giveUpDue_none m r ((failAskers_tasksEnded m cause r.tasks d).due.trans h)

/-- A task stands, its completion is not all that is left of it, and this is its result. -/
def Stands (id : Nat) (result : Option Result) (d : Dp) : Prop := ∃ x, d.task id = some x ∧ x.prog.stage ≠ 23 ∧ x.result = result

/-- The result that a task fails with: the first failure stands (R155, R167). -/
def failed (cause : Nat) (result : Option Result) : Option Result :=
  if (result.map (·.status)).getD 0 = 0 then some ⟨0x24, cause, 0, 0, 0⟩ else result

theorem task_failTask {id : Nat} (cause : Nat) {d : Dp} {t : Machine.Task} (h : d.task id = some t) :
    ∃ x, (failTask id 0x24 cause d).task id = some x ∧ x.prog = t.prog ∧ x.result = failed cause t.result := by
  rw [failTask, task_modTask _ _ _ fun t => by split <;> (try split) <;> rfl, h]
  refine ⟨_, rfl, ?_, ?_⟩
  · dsimp only
    split <;> (try split) <;> rfl
  · unfold failed
    dsimp only
    split
    next r hr => by_cases hs : r.status = 0 <;> simp [hr, hs]
    next hr => simp [hr]

theorem task_failTask_ne {id y : Nat} (status detail : Nat) (d : Dp) (hy : y ≠ id) : (failTask id status detail d).task y = d.task y := by
  rw [failTask, task_modTask_ne _ _ (fun t => by split <;> (try split) <;> rfl) hy]

theorem failed_failed (cause : Nat) (result : Option Result) : failed cause (failed cause result) = failed cause result := by
  unfold failed
  split <;> simp_all

theorem Stands.modTask_state {id : Nat} {result : Option Result} {d : Dp} (h : Stands id result d) (j : Nat) (st : Machine.Task → TaskState) :
    Stands id result (modTask j (fun y => { y with state := st y }) d) := by
  obtain ⟨x, hx, hstage, hresult⟩ := h
  by_cases hj : id = j
  · subst hj
    exact ⟨{ x with state := st x }, by rw [task_modTask _ _ _ fun t => by rfl, hx]; rfl, hstage, hresult⟩
  · exact ⟨x, by rw [task_modTask_ne _ _ (fun t => by rfl) hj, hx], hstage, hresult⟩

theorem Stands.removeTask {id : Nat} {result : Option Result} {d : Dp} (h : Stands id result d) (m : Mgt) {j : Nat} (hj : id ≠ j) :
    Stands id result (removeTask m j d) := by
  unfold Machine.removeTask
  split
  · exact h
  · refine foldl_keeps (Stands id result) _ (fun e x h => h.modTask_state x.id (readyState e)) _ _ ?_
    obtain ⟨x, hx, hstage, hresult⟩ := h
    have hfound : (d.tasks.tasks.filter (·.id ≠ j)).find? (·.id = id) = some x := by
      rw [List.find?_filter, ← hx, Dp.task]
      congr 1
      funext t
      by_cases ht : t.id = id <;> simp [ht, hj]
    exact ⟨x, by simpa [Dp.task, dropSetAside] using hfound, hstage, hresult⟩

theorem Stands.failAsker_other {id : Nat} {result : Option Result} {d : Dp} (h : Stands id result d) (m : Mgt) (cause : Nat) {j : Nat} (hj : id ≠ j) :
    Stands id result (failAsker m cause d j) := by
  unfold failAsker
  split
  · exact h
  · split
    · exact Stands.removeTask (d := undeliverable ..) h m hj
    · obtain ⟨x, hx, hstage, hresult⟩ := h
      exact ⟨x, by rw [task_failTask_ne _ _ _ hj, hx], hstage, hresult⟩

theorem Stands.failAsker_same {id : Nat} {result : Option Result} {d : Dp} (h : Stands id result d) (m : Mgt) (cause : Nat) :
    Stands id (failed cause result) (failAsker m cause d id) := by
  obtain ⟨x, hx, hstage, rfl⟩ := h
  have hrunning : stageOf d id ≠ 23 := by rwa [stageOf, hx]
  have hfail : failAsker m cause d id = failTask id 0x24 cause d := by simp only [failAsker, hx, if_neg hrunning]
  obtain ⟨y, hy, hprog, hresult⟩ := task_failTask cause hx
  exact ⟨y, hfail ▸ hy, hprog ▸ hstage, hresult⟩

theorem Stands.failAskers {id : Nat} {result : Option Result} (m : Mgt) (cause : Nat) (ids : List Nat) {d : Dp} (h : Stands id result d) :
    Stands id (if id ∈ ids then failed cause result else result) (ids.foldl (failAsker m cause) d) := by
  induction ids generalizing d result with
  | nil => simpa using h
  | cons j ids ih =>
    by_cases hj : id = j
    · subst hj
      simpa [failed_failed] using ih (h.failAsker_same m cause)
    · simpa [hj] using ih (h.failAsker_other m cause hj)

/-! ### Completions of translations -/

/-- What the answer to a translation request does to the caches and to the tasks that asked (R66, R68). -/
def takeAnswer (m : Mgt) (r : XltReq) (a : AtsAnswer) (d : Dp) : Dp :=
  if a.error then failPage m r 0x03 d
  else if a.bytes < r.bytes then failPage m r 0x04 d
  else if !a.read && !a.write then failPage m r 0x02 d
  else r.clusters.foldl (fun d c => fillCache (granted r a c) d) d

/-- The answer grants the whole page that was asked for. -/
abbrev grants (r : XltReq) (a : AtsAnswer) : Prop := a.error = false ∧ r.bytes ≤ a.bytes ∧ (a.read || a.write) = true

/-- The cause of Table 2 that an answer without a grant ends tasks with. -/
def causeOf (r : XltReq) (a : AtsAnswer) : Nat := if a.error then 0x03 else if a.bytes < r.bytes then 0x04 else 0x02

theorem takeAnswer_granted (m : Mgt) {r : XltReq} {a : AtsAnswer} (d : Dp) (h : grants r a) :
    takeAnswer m r a d = r.clusters.foldl (fun d c => fillCache (granted r a c) d) d := by
  obtain ⟨herror, hbytes, hpermit⟩ := h
  have hpermit : ¬(!a.read && !a.write) = true := by rw [← Bool.not_or, hpermit]; decide
  rw [takeAnswer, if_neg (by simp [herror]), if_neg (by omega), if_neg hpermit]

theorem takeAnswer_refused (m : Mgt) {r : XltReq} {a : AtsAnswer} (d : Dp) (h : ¬grants r a) :
    takeAnswer m r a d = failPage m r (causeOf r a) d := by
  unfold takeAnswer causeOf
  split
  · rfl
  next herror =>
    split
    · rfl
    next hbytes =>
      have hpermit : (a.read || a.write) = false :=
        Bool.eq_false_iff.mpr fun hpermit => h ⟨Bool.eq_false_iff.mpr herror, Nat.le_of_not_lt hbytes, hpermit⟩
      have hnone : (!a.read && !a.write) = true := by rw [← Bool.not_or, hpermit, Bool.not_false]
      exact if_pos hnone

theorem translationCompletion_eq {s : State} {p : Fin 2} {page : BitVec 64} {r : XltReq} (a : AtsAnswer)
    (hr : s.dp.hosts.reqs.find? (fun r => r.port = p.val && r.page = page.toNat && r.sent) = some r) :
    exec (.translationCompletion p page a) s =
      if invalidating s.dp r.port r.page r.bytes then
        .next { s with dp := { s.dp with hosts := { s.dp.hosts with reqs := s.dp.hosts.reqs.map fun x => if x = r then { r with sent := false } else x } } }
      else .next { s with dp := settle s.mgt (sendWaiting s.mgt (retryDue s.mgt
        (takeAnswer s.mgt r a { s.dp with hosts := { s.dp.hosts with reqs := s.dp.hosts.reqs.erase r } }))) } := by
  have hexec : exec (.translationCompletion p page a) s = execTranslationCompletion p page a s := rfl
  rw [hexec, execTranslationCompletion, liftDp_next, hr]
  dsimp only
  rw [modWhere_one]
  split <;> rfl

/-- An answer that no invalidation covers is taken, and requests that waited go out; the home slices stay. -/
theorem translationCompletion_taken {s : State} {p : Fin 2} {page : BitVec 64} {r : XltReq} (a : AtsAnswer)
    (hr : s.dp.hosts.reqs.find? (fun r => r.port = p.val && r.page = page.toNat && r.sent) = some r)
    (hclear : ¬invalidating s.dp r.port r.page r.bytes = true) {e : Dp}
    (he : takeAnswer s.mgt r a { s.dp with hosts := { s.dp.hosts with reqs := s.dp.hosts.reqs.erase r } } = e)
    (hdue : e.tasks.due = []) (hquiet : Quiet e) :
    ∃ t : State, exec (.translationCompletion p page a) s = .next t ∧ t.mgt = s.mgt ∧ t.dp.store = e.store ∧ t.dp.coh.dir = e.coh.dir ∧ t.dp.fab = e.fab
      ∧ t.dp.tasks = e.tasks ∧ t.dp.hosts.caches = e.hosts.caches := by
  obtain ⟨reqs, asked, hsent, -⟩ := sendWaiting_onlyAsked s.mgt e
  have hquiet : Quiet (sendWaiting s.mgt e) := quiet_congr (by rw [hsent]) hquiet
  rw [translationCompletion_eq a hr, if_neg hclear, he, retryDue_none _ hdue, settle_quiet _ _ hquiet, hsent]
  exact ⟨_, rfl, rfl, rfl, rfl, rfl, rfl, rfl⟩

theorem translationCompletion_effect {s : State} {p : Fin 2} {page : BitVec 64} {r : XltReq} (a : AtsAnswer)
    (hr : s.dp.hosts.reqs.find? (fun r => r.port = p.val && r.page = page.toNat && r.sent) = some r)
    (hclear : ¬invalidating s.dp r.port r.page r.bytes = true) (hquiet : Quiet s.dp) (hdue : s.dp.tasks.due = []) :
    ∃ t : State, exec (.translationCompletion p page a) s = .next t ∧ t.mgt = s.mgt ∧ t.dp.store = s.dp.store ∧ t.dp.coh.dir = s.dp.coh.dir ∧ t.dp.fab = s.dp.fab
      ∧ if grants r a then t.dp.tasks = s.dp.tasks ∧ ∀ c ∈ r.clusters, Cached (granted r a c) t.dp
        else t.dp.hosts.caches = s.dp.hosts.caches ∧ ∀ (i : Nat) (k : Machine.Task), s.dp.task i = some k → k.prog.stage ≠ 23 →
          Stands i (if i ∈ r.tasks then failed (causeOf r a) k.result else k.result) t.dp := by
  let d : Dp := { s.dp with hosts := { s.dp.hosts with reqs := s.dp.hosts.reqs.erase r } }
  split
  next hgrant =>
    obtain ⟨cs, n, hfilled⟩ := fillCaches_onlyCaches r a r.clusters d
    obtain ⟨t, hexec, hmgt, hstore, hdir, hfab, htasks, hcaches⟩ :=
      translationCompletion_taken a hr hclear ((takeAnswer_granted s.mgt d hgrant).trans hfilled) hdue hquiet
    refine ⟨t, hexec, hmgt, hstore, hdir, hfab, htasks, fun c hc => ?_⟩
    have hcached : Cached (granted r a c) { d with hosts := { d.hosts with caches := cs, uses := n } } :=
      hfilled ▸ fillCaches_cached r a c r.clusters d (.inl hc)
    rwa [Cached, hcaches]
  next hrefused =>
    have hended := failAskers_tasksEnded s.mgt (causeOf r a) r.tasks d
    obtain ⟨t, hexec, hmgt, hstore, hdir, hfab, htasks, hcaches⟩ :=
      translationCompletion_taken a hr hclear ((takeAnswer_refused s.mgt d hrefused).trans (failPage_eq s.mgt r _ hdue)) (hended.due.trans hdue)
        (quiet_congr hended.coh hquiet)
    refine ⟨t, hexec, hmgt, hstore.trans hended.store, hdir.trans (congrArg Coh.dir hended.coh), hfab.trans hended.fab, hcaches.trans hended.caches, fun i k hk hstage => ?_⟩
    obtain ⟨x, hx, hstands⟩ := Stands.failAskers s.mgt (causeOf r a) r.tasks (d := d) ⟨k, hk, hstage, rfl⟩
    exact ⟨x, (task_congr (congrArg Tasks.tasks htasks) i).trans hx, hstands⟩

/-! ### Invalidations -/

theorem atsInvalidateRequest_eq (s : State) (p : Fin 2) (g : Fin 32) (base : BitVec 64) (n : Nat) :
    exec (.atsInvalidateRequest p g base n) s =
      if (s.dp.hosts.invals.filter fun v => v.port = p.val && v.answer).length < 32 then
        .next { s with dp := { s.dp with hosts := { s.dp.hosts with
          caches := s.dp.hosts.caches.map fun x => if x.port = p.val ∧ x.page < base.toNat + n ∧ base.toNat < x.page + x.bytes then { x with invalidating := true } else x
          invals := s.dp.hosts.invals ++ [⟨p.val, g.val, base.toNat, n, true⟩] } } }
      else .next s := by
  have hexec : exec (.atsInvalidateRequest p g base n) s = execAtsInvalidateRequest p g base n s := rfl
  rw [hexec, execAtsInvalidateRequest, liftDp_next]
  by_cases hfree : (s.dp.hosts.invals.filter fun v => v.port = p.val && v.answer).length < 32
  · rw [if_pos hfree, if_neg (by omega)]
    simp [modWhere, and_assoc]
  · rw [if_neg hfree, if_pos (by omega)]

theorem invalidateDrainEnd_eq {s : State} {p : Fin 2} {g : Fin 32} {v : Inval}
    (hv : s.dp.hosts.invals.find? (fun v => v.port = p.val && v.itag = g.val) = some v) :
    exec (.invalidateDrainEnd p g) s =
      if underOld s.mgt s.dp v then .next s
      else
        let d := { s.dp with hosts := { s.dp.hosts with
          caches := s.dp.hosts.caches.filter fun x => !(x.port = v.port && x.page < v.base + v.bytes && v.base < x.page + x.bytes)
          invals := s.dp.hosts.invals.erase v } }
        .next { s with dp := sendWaiting s.mgt (if v.answer then emit (.atsInvalidated p.val g.val) d else d) } := by
  have hexec : exec (.invalidateDrainEnd p g) s = execInvalidateDrainEnd p g s := rfl
  rw [hexec, execInvalidateDrainEnd, liftDp_next, hv]
  dsimp only
  split <;> rfl

/-! ### Outbound reads -/

theorem outboundReadCompletion_eq {s : State} {p : Fin 2} {tag : Nat} {r : OutRead} (data : Option Bytes)
    (hr : s.dp.hosts.reads.find? (fun r => r.port = p.val && r.tag = tag) = some r) (hlost : r.lost = false) (hdrained : r.drained = false) :
    exec (.outboundReadCompletion p tag data) s = .next { s with dp := match data with
      | none => { s.dp with hosts := { s.dp.hosts with reads := s.dp.hosts.reads.map fun x => if x = r then { r with drained := true, lost := true } else x } }
      | some b => (if r.flush then id else modTask r.task fun k => { k with arrived := ⟨r.line, fit 64 b, none⟩ :: k.arrived.filter (·.line ≠ r.line) })
          { s.dp with hosts := { s.dp.hosts with reads := s.dp.hosts.reads.erase r } } } := by
  have hexec : exec (.outboundReadCompletion p tag data) s = execOutboundReadCompletion p tag data s := rfl
  rw [hexec, execOutboundReadCompletion, liftDp_next, hr]
  simp only [hlost, hdrained, Bool.false_or, modWhere_one]
  cases data with
  | none => rfl
  | some b => cases r.flush <;> rfl

/-- A completion that no outstanding read awaits is reported and changes no read, whatever it brings (R324). -/
theorem outboundReadCompletion_unexpected {s : State} {p : Fin 2} {tag : Nat} (data : Option Bytes)
    (hnone : ∀ r ∈ s.dp.hosts.reads, r.port = p.val → r.tag ≠ tag) :
    exec (.outboundReadCompletion p tag data) s = .next { s with dp := aerUncorrectable p.val 16 s.dp } := by
  have hexec : exec (.outboundReadCompletion p tag data) s = execOutboundReadCompletion p tag data s := rfl
  have hr : s.dp.hosts.reads.find? (fun r => r.port = p.val && r.tag = tag) = none := by simpa using hnone
  rw [hexec, execOutboundReadCompletion, liftDp_next, hr]

theorem unexpectedCompletion_eq {s : State} {p : Fin 2} {tag : Nat} (hnone : ∀ r ∈ s.dp.hosts.reads, r.port = p.val → r.tag ≠ tag) :
    exec (.unexpectedCompletion p tag) s = .next { s with dp := aerUncorrectable p.val 16 s.dp } := by
  have hexec : exec (.unexpectedCompletion p tag) s = execUnexpectedCompletion p tag s := rfl
  have hall : (s.dp.hosts.reads.filter fun r => !(r.port = p.val && r.tag = tag && r.lost && r.drained)) = s.dp.hosts.reads := by
    refine List.filter_eq_self.mpr fun r hr => ?_
    by_cases hport : r.port = p.val
    · simp [hnone r hr hport]
    · simp [hport]
  rw [hexec, execUnexpectedCompletion, liftDp_next, hall]

/-- A read that is due is given up: its task waits on, under the end-to-end timer (R324). -/
def giveUpRead (s : State) (p : Fin 2) (tag : Nat) : List OutRead :=
  modWhere s.dp.hosts.reads (fun r => r.port = p.val && r.tag = tag && !r.lost && decide (s.mgt.clk.ltb ≥ r.since + 100 * (s.dp.hostPort p.val).timeoutUs))
    fun r => { r with lost := true }

theorem outboundCompletionTimeout_eq {s : State} {p : Fin 2} {tag : Nat} {r : OutRead}
    (hr : s.dp.hosts.reads.find? (fun r => r.port = p.val && r.tag = tag) = some r) (hlost : r.lost = false)
    (hlate : r.since + 100 * (s.dp.hostPort p.val).timeoutUs ≤ s.mgt.clk.ltb) :
    exec (.outboundCompletionTimeout p tag) s
        = .next { s with dp := aerUncorrectable p.val 14 { s.dp with hosts := { s.dp.hosts with reads := giveUpRead s p tag } } }
      ∧ { r with lost := true } ∈ giveUpRead s p tag := by
  have hdue : (r.port = p.val && r.tag = tag && !r.lost && decide (s.mgt.clk.ltb ≥ r.since + 100 * (s.dp.hostPort p.val).timeoutUs)) = true := by
    have := List.find?_some hr
    simp_all
  have hmem := List.mem_of_find?_eq_some hr
  refine ⟨?_, List.mem_map.mpr ⟨r, hmem, if_pos hdue⟩⟩
  have hexec : exec (.outboundCompletionTimeout p tag) s = execOutboundCompletionTimeout p tag s := rfl
  rw [hexec, execOutboundCompletionTimeout, liftDp_next]
  dsimp only
  rw [if_pos (List.any_eq_true.mpr ⟨r, hmem, hdue⟩)]
  rfl

/-- Settles O41: an answer fills the caches or ends the tasks that asked, an invalidation takes its range, and an outbound read ends as its completion says. -/
theorem translationsAndOutboundReads : Obligations.TranslationsAndOutboundReads := by
  unfold Obligations.TranslationsAndOutboundReads
  refine ⟨fun s p page a r hr => ?_, fun s p g base n => ?_, fun s p g v hv => ?_, fun s p tag r hr hlost hdrained => ⟨fun b => ?_, ?_, fun hlate hp => ?_⟩,
    fun s p tag hp hnone => ⟨fun c => ?_, ?_⟩⟩
  · split
    next hinval =>
      rw [translationCompletion_eq a hr, if_pos hinval]
    next hclear =>
      intro hquiet hdue
      obtain ⟨t, hexec, hmgt, hstore, hdir, hfab, heffect⟩ := translationCompletion_effect a hr hclear hquiet hdue
      refine ⟨t, hexec, hmgt, hstore, hdir, hfab, ?_⟩
      split at heffect
      next hgrant =>
        obtain ⟨htasks, hcached⟩ := heffect
        rw [if_pos hgrant]
        refine ⟨htasks, fun c hc => ?_⟩
        obtain ⟨n, hn⟩ := hcached c hc
        exact ⟨_, hn, rfl, rfl, rfl, rfl, rfl, rfl, rfl, rfl⟩
      next hrefused =>
        obtain ⟨hcaches, hstands⟩ := heffect
        rw [if_neg hrefused]
        refine ⟨hcaches, fun i k hk hstage => ?_⟩
        obtain ⟨x, hx, -, hresult⟩ := hstands i k hk hstage
        refine ⟨x, hx, hresult.trans ?_⟩
        by_cases hi : i ∈ r.tasks
        · rw [if_pos hi, failed]
          simp only [hi, true_and]
          rfl
        · rw [if_neg hi, if_neg fun hasked => hi hasked.1]
  · rw [atsInvalidateRequest_eq]
    split
    · exact ⟨_, rfl, rfl, rfl, rfl, rfl, rfl, rfl, rfl⟩
    · rfl
  · rw [invalidateDrainEnd_eq hv]
    split
    · rfl
    · obtain ⟨reqs, asked, hsent, hasked⟩ := sendWaiting_onlyAsked s.mgt _
      dsimp only
      rw [hsent]
      refine ⟨_, asked, rfl, rfl, ?_, ?_, ?_, ?_, ?_, ?_, hasked⟩ <;> split <;> simp
  · exact outboundReadCompletion_eq (some b) hr hlost hdrained
  · exact outboundReadCompletion_eq none hr hlost hdrained
  · obtain ⟨hexec, hgiven⟩ := outboundCompletionTimeout_eq hr hlost hlate
    exact ⟨_, hexec, rfl, rfl, rfl, aerUncorrectable_status 14 hp, ⟨_, hgiven, rfl⟩, List.length_map _⟩
  · exact ⟨_, outboundReadCompletion_unexpected c hnone, aerUncorrectable_status 16 hp, rfl, rfl, rfl, rfl⟩
  · exact ⟨_, unexpectedCompletion_eq hnone, aerUncorrectable_status 16 hp, rfl, rfl, rfl, rfl⟩

end Sys2Proof.Proofs

/-! What a host's request does once its turn has come: reads and writes at their windows, requests outside what the port decodes, and requests that wait (R58, R101, R118, R123, R317 to R319, R324, R327). -/

namespace Sys2Proof.Proofs

open Sys2Proof.Machine Sys2Proof.Laws Sys2Proof.Safety

/-! ### Reads and writes at a host address -/

theorem hostRead_reads (s : State) (p : Fin 2) (host n tag : Nat) (cxl : Bool) (code : Nat) :
    HostReads s p host n tag cxl code (.next { s with dp := settle s.mgt (hostRead s.mgt p host n tag cxl code s.dp) }) := by
  unfold HostReads hostRead
  dsimp only
  cases windowAt s.mgt p.val host with
  | none => rfl
  | some x =>
    obtain ⟨i, w⟩ := x
    dsimp only
    rw [Nat.add_comm w.poolBase]
    cases inbound s.mgt s.dp w (host - w.hostBase + w.poolBase) false <;> rfl

theorem hostWrite_writes (s : State) (p : Fin 2) (host : Nat) (ls : Nat → List (Nat × Bytes × Nat)) (poison cxl : Bool) (d : Dp) :
    HostWrites s p host ls poison cxl d (.next { s with dp := settle s.mgt (hostWrite s.mgt p host ls poison cxl d) }) := by
  unfold HostWrites hostWrite
  dsimp only
  cases windowAt s.mgt p.val host with
  | none => rfl
  | some x =>
    obtain ⟨i, w⟩ := x
    dsimp only
    rw [Nat.add_comm w.poolBase]
    cases inbound s.mgt d w (host - w.hostBase + w.poolBase) true with
    | served g =>
      rintro _ rfl
      rfl
    | _ => rfl

/-! ### What a port decodes -/

theorem decoded_iff (h : HostPort) (addr : Nat) : decoded h addr = true ↔ ∃ x ∈ h.decoders, x.committed = true ∧ x.base ≤ addr ∧ addr < x.base + x.size := by
  simp [decoded, and_assoc]

theorem memOpen_of_decoder {h : HostPort} {addr : Nat} {x : Hdm} (hmode : h.mode = 1) (hd3 : h.d3 = false) (hperst : h.perst = false)
    (hx : x ∈ h.decoders) (hcommitted : x.committed = true) (hbase : x.base ≤ addr) (hend : addr < x.base + x.size) : h.memOpen addr = true := by
  simp [HostPort.memOpen, hmode, hd3, hperst, (decoded_iff h addr).mpr ⟨x, hx, hcommitted, hbase, hend⟩]

theorem memOpen_of_no_decoder {h : HostPort} {addr : Nat} (hnone : ∀ x ∈ h.decoders, x.committed = true → addr < x.base ∨ x.base + x.size ≤ addr) :
    h.memOpen addr = false := by
  have hclosed : decoded h addr = false := by
    refine Bool.eq_false_iff.mpr fun hopen => ?_
    obtain ⟨x, hx, hcommitted, hbase, hend⟩ := (decoded_iff h addr).mp hopen
    have := hnone x hx hcommitted
    omega
  simp [HostPort.memOpen, hclosed]

theorem lineStart_eq (a : Nat) : a / 64 * 64 = a - a % 64 := by omega

/-! ### Requests outside what the BARs decode -/

section
variable {s : State} {p : Fin 2} {o : BitVec 64}

theorem outside_iff : (!(s.dp.hostPort p.val).decodes || decide (o.toNat ≥ barSize s.mgt p.val)) = true
    ↔ (s.dp.hostPort p.val).decodes = false ∨ barSize s.mgt p.val ≤ o.toNat := by
  simp

theorem within (hopen : (s.dp.hostPort p.val).decodes = true) (hin : o.toNat < barSize s.mgt p.val) :
    ¬((s.dp.hostPort p.val).decodes = false ∨ barSize s.mgt p.val ≤ o.toNat) := by
  simp [hopen, hin]

theorem hostMemoryRead_eq (n tag : Nat) : exec (.hostMemoryRead p o n tag) s = .next { s with
    dp := if (s.dp.hostPort p.val).decodes = false ∨ barSize s.mgt p.val ≤ o.toNat then undecoded s.mgt p.val tag s.dp
      else settle s.mgt (hostSubmit s.mgt p.val (.hostMemoryRead p o n tag) s.dp) } := by
  have hexec : exec (.hostMemoryRead p o n tag) s = execHostMemoryRead p o n tag s := rfl
  rw [hexec, execHostMemoryRead, liftDp_next]
  simp only [outside_iff]

theorem hostMemoryWrite_eq (b : Bytes) (ep : Bool) : exec (.hostMemoryWrite p o b ep) s = .next { s with
    dp := if (s.dp.hostPort p.val).decodes = false ∨ barSize s.mgt p.val ≤ o.toNat then s.dp
      else settle s.mgt (hostSubmit s.mgt p.val (.hostMemoryWrite p o b ep) s.dp) } := by
  have hexec : exec (.hostMemoryWrite p o b ep) s = execHostMemoryWrite p o b ep s := rfl
  rw [hexec, execHostMemoryWrite, liftDp_next]
  simp only [outside_iff]

end

theorem undecoded_eq (m : Mgt) (p tag : Nat) (d : Dp) : undecoded m p tag d =
    if (d.hostPort p).mode = 0 ∨ (d.hostPort p).perst = true then d else hostAnswer m p tag 1 [] 0 0 (aerUncorrectable p 20 d) := by
  simp [undecoded]

theorem slotTableRead_undecoded {s : State} {p : Fin 2} (n : Nat) (hclosed : (s.dp.hostPort p.val).decodes = false) :
    exec (.slotTableRead p n) s = .next { s with dp := undecoded s.mgt p.val 0 s.dp } := by
  have hexec : exec (.slotTableRead p n) s = execSlotTableRead p n s := rfl
  simp [hexec, execSlotTableRead, hclosed]

/-! ### Requests whose turn has come, and requests that wait -/

section
variable {m : Mgt} {p : Nat} {c : Instr} {d : Dp}

theorem hostSubmit_waits (h : mustWait m d p c = true) : hostSubmit m p c d = modLease p (fun l => { l with held := l.held ++ [c] }) d := if_pos h

theorem hostSubmit_serves (h : mustWait m d p c = false) : hostSubmit m p c d = hostServe m c d := if_neg (by simp [h])

end

/-- A request that follows no order but its port's waits for the window and for what waits there already (R101). -/
theorem mustWait_slotTableRead (m : Mgt) (d : Dp) (p : Fin 2) (o : Nat) (hwindow : overLimit m d p.val = false) (hfirst : (d.lease p.val).held = []) :
    mustWait m d p.val (.slotTableRead p o) = false := by
  simp [mustWait, hwindow, hfirst]

theorem slotTableRead_served {s : State} {p : Fin 2} {o : Nat} (hopen : (s.dp.hostPort p.val).decodes = true) (hlo : 0x800 ≤ o) (hhi : o < 0x1000)
    (hturn : mustWait s.mgt s.dp p.val (.slotTableRead p o) = false) :
    exec (.slotTableRead p o) s = .next { s with dp := hostAnswer s.mgt p.val 0 0 (natBytes 8 (statusWord s.mgt s.dp (some p.val) o)) 0 0 s.dp } := by
  have hexec : exec (.slotTableRead p o) s = execSlotTableRead p o s := rfl
  have hrange : ¬(decide (o < 0x800) || decide (0x1000 ≤ o)) = true := by simp; omega
  rw [hexec, execSlotTableRead, liftDp_next, if_neg (by simp [hopen]), if_neg hrange, hostSubmit_serves hturn]
  rfl

/-! ### CXL.mem -/

section
variable {s : State} {p : Fin 2} {addr : BitVec 64} (hmode : (s.dp.hostPort p.val).mode = 1)
include hmode

theorem cxlMemRead_served {ask : CacheAsk} {tag : Nat} (hturn : mustWait s.mgt s.dp p.val (.cxlMemRead p addr ask tag) = false) :
    exec (.cxlMemRead p addr ask tag) s = .next { s with
      dp := settle s.mgt (if (s.dp.hostPort p.val).memOpen (addr.toNat - addr.toNat % 64) then
          hostRead s.mgt p (addr.toNat - addr.toNat % 64) 64 tag true (cxlCode s.mgt ask) s.dp
        else refuseRead s.mgt p.val tag 64 true none 0 255 s.dp) } := by
  have hexec : exec (.cxlMemRead p addr ask tag) s = execCxlMemRead p addr ask tag s := rfl
  rw [hexec, execCxlMemRead, liftDp_next, if_neg (by simp [hmode]), hostSubmit_serves hturn, hostServe, lineStart_eq]

/-- A write that no snoop awaits enters as a host's write. -/
theorem cxlMemWrite_served {b : Bytes} {mask : BitVec 64} {poison : Bool} (hturn : mustWait s.mgt s.dp p.val (.cxlMemWrite p addr b mask poison) = false)
    (hfree : ∀ t ∈ s.dp.coh.trackers, ∀ n ∈ t.snoops, n.holder ≠ .host p) :
    exec (.cxlMemWrite p addr b mask poison) s = .next { s with
      dp := settle s.mgt (if (s.dp.hostPort p.val).memOpen (addr.toNat - addr.toNat % 64) then
          hostWrite s.mgt p (addr.toNat - addr.toNat % 64) (fun x => [(x, fit 64 b, mask.toNat)]) poison true s.dp
        else hostAnswer s.mgt p.val 0 0 [] 0 0 (logRefused s.mgt none 0 255 1 s.dp)) } := by
  have hexec : exec (.cxlMemWrite p addr b mask poison) s = execCxlMemWrite p addr b mask poison s := rfl
  have hunasked : ∀ line, snooping s.dp line p = false := by
    intro line
    simp only [snooping, List.any_eq_false, Bool.and_eq_true, decide_eq_true_eq, List.any_eq_true, not_and, not_exists]
    exact fun t ht _ n hn hholder _ => hfree t ht n hn hholder
  rw [hexec, execCxlMemWrite, liftDp_next]
  dsimp only
  rw [if_neg (by simp [hmode]), if_neg (by simp [hunasked]), hostSubmit_serves hturn, hostServe, lineStart_eq]
  cases (s.dp.hostPort p.val).memOpen (addr.toNat - addr.toNat % 64) <;> rfl

end

/-! ### The end of a window -/

theorem releasePort_none {m : Mgt} {p : Nat} {d : Dp} (h : d.hosts.leases = [HostLease.reset, HostLease.reset]) (hp : p < 2) : releasePort m p d = d := by
  have hlease : d.lease p = HostLease.reset := by
    rw [Dp.lease, h]
    match p, hp with
    | 0, _ => rfl
    | 1, _ => rfl
  have hsame : modLease p (fun l => { l with held := [] }) d = d := by
    have hleases : modAt d.hosts.leases p (fun l => { l with held := [] }) = d.hosts.leases := by
      rw [h]
      match p, hp with
      | 0, _ => rfl
      | 1, _ => rfl
    rw [modLease, hleases]
  rw [releasePort, hlease, hsame]
  rfl

theorem forerunnerWindowEnd_early {s : State} (h : s.mgt.forerunner = false ∨ s.mgt.clk.ltb < s.dp.hosts.windowAt + 1000) : exec .forerunnerWindowEnd s = .next s := by
  have hexec : exec .forerunnerWindowEnd s = execForerunnerWindowEnd s := rfl
  rw [hexec, execForerunnerWindowEnd, liftDp_next, if_pos (by simpa using h)]

/-- A window that ends counts anew, and requests that waited go on (R101). -/
theorem forerunnerWindowEnd_due {s : State} (hmode : s.mgt.forerunner = true) (hdue : s.dp.hosts.windowAt + 1000 ≤ s.mgt.clk.ltb) :
    exec .forerunnerWindowEnd s = .next { s with
      dp := settle s.mgt (releasePort s.mgt 1 (releasePort s.mgt 0 { s.dp with hosts := { s.dp.hosts with
        windowAt := s.mgt.clk.ltb, ports := s.dp.hosts.ports.map fun h => { h with bytesLast := h.bytesNow, bytesNow := 0 } } })) } := by
  have hexec : exec .forerunnerWindowEnd s = execForerunnerWindowEnd s := rfl
  rw [hexec, execForerunnerWindowEnd, liftDp_next, if_neg (by simp [hmode]; omega)]

end Sys2Proof.Proofs

/-! The expiry of a host's lease: its slots, its lines and its pointers (R143, R151, R391), and from it and the requests of hosts the statement about host ports. -/

namespace Sys2Proof.Proofs

open Sys2Proof.Machine Sys2Proof.Laws Sys2Proof.Safety

/-! ### What the host ports keep -/

/-- Changes that leave the host ports alone, one for each item of a list, leave them alone. -/
theorem foldl_hosts {α : Type} (f : Dp → α → Dp) (hf : ∀ d a, (f d a).hosts = d.hosts) (l : List α) (d : Dp) : (l.foldl f d).hosts = d.hosts :=
  foldl_keeps (fun e : Dp => e.hosts = d.hosts) f (fun e a h => (hf e a).trans h) l d rfl

@[simp] theorem dropEntry_hosts (line : Nat) (d : Dp) : (dropEntry line d).hosts = d.hosts := by
  obtain ⟨raw, h⟩ := dropEntry_eq line d
  rw [h]

@[simp] theorem removeHolder_hosts (line : Nat) (h : Holder) (d : Dp) : (removeHolder line h d).hosts = d.hosts := by
  unfold removeHolder
  split
  · rfl
  · split
    · exact dropEntry_hosts line d
    · rfl

@[simp] theorem storeLine_hosts (m : Mgt) (region a : Nat) (data : Bytes) (d : Dp) : (storeLine m region a data d).hosts = d.hosts := by
  unfold storeLine
  split
  · split <;> simp
  · simp

@[simp] theorem openFrame_hosts (m : Mgt) (region f : Nat) (d : Dp) : (openFrame m region f d).hosts = d.hosts := by
  unfold openFrame
  dsimp only
  split
  · split
    · rw [setFrame_hosts, foldl_hosts _ fun _ _ => storeLine_hosts ..]
    · rfl
  · rfl

@[simp] theorem staleCoarse_hosts (m : Mgt) (region f : Nat) (d : Dp) : (staleCoarse m region f d).hosts = d.hosts := by
  unfold staleCoarse
  split <;> rfl

@[simp] theorem writeLine_hosts (m : Mgt) (region a : Nat) (data : Bytes) (poison : Bool) (d : Dp) : (writeLine m region a data poison d).hosts = d.hosts := by
  simp [writeLine]

@[simp] theorem issue_hosts (m : Mgt) (via : Via) (q : Msg) (d : Dp) : (issue m via q d).hosts = d.hosts := by
  unfold issue
  dsimp only
  split
  · rfl
  · simp

@[simp] theorem sendGuards_hosts (m : Mgt) (part bw : Nat) (gs : List (Nat × Nat × Bytes)) (d : Dp) : (sendGuards m part bw gs d).2.hosts = d.hosts :=
  foldl_keeps (fun x : List (Nat × Nat × Bytes × Nat) × Dp => x.2.hosts = d.hosts) _ (fun _ _ h => (issue_hosts ..).trans h) gs ([], d) rfl

@[simp] theorem guardNumber_hosts (m : Mgt) (f : Nat) (d : Dp) : (guardNumber m f d).2.hosts = d.hosts := by
  unfold guardNumber
  split <;> rfl

@[simp] theorem applyChange_hosts (m : Mgt) (region a : Nat) (data : Bytes) (poison : Bool) (part bw : Nat) (d : Dp) :
    (applyChange m region a data poison part bw d).2.hosts = d.hosts := by
  have hwritten (c : Prop) [Decidable c] : (if c then logEvent m 1 8 3 none 0 0 (m.homeId * 2 ^ 50 + a / 64 * 64) [] (writeLine m region a data poison d)
      else writeLine m region a data poison d).hosts = d.hosts := by
    split <;> simp
  unfold applyChange
  dsimp only
  split
  · exact hwritten _
  · split
    · exact hwritten _
    · rw [sendGuards_hosts, guardNumber_hosts, hwritten]

@[simp] theorem walkLine_hosts (m : Mgt) (line : Nat) (p : Fin 2) (d : Dp) : (walkLine m line p d).hosts = d.hosts := by
  unfold walkLine
  split
  · rfl
  · split
    · rfl
    · dsimp only
      split
      · exact removeHolder_hosts ..
      · split <;> simp

@[simp] theorem giveSummary_hosts (g : Region) (a : Nat) (d : Dp) : (giveSummary g a d).hosts = d.hosts := by
  unfold giveSummary
  dsimp only
  split
  · rfl
  · split
    · exact foldl_hosts _ (fun _ _ => giveFrame_hosts ..) _ _
    · rfl

@[simp] theorem dropPage_hosts (m : Mgt) (id : Nat) (d : Dp) : (dropPage m id d).hosts = d.hosts := by
  unfold dropPage
  split
  · rfl
  · split
    · rfl
    · split
      · rfl
      · dsimp only
        rw [giveSummary_hosts]
        exact foldl_hosts _ (fun _ _ => giveFrame_hosts ..) _ _

@[simp] theorem abandonAppends_hosts (m : Mgt) (region session : Nat) (d : Dp) : (abandonAppends m region session d).hosts = d.hosts := by
  unfold abandonAppends
  split
  · split
    · rfl
    · exact foldl_hosts _ (fun _ _ => dropPage_hosts ..) _ d
  · rfl

@[simp] theorem closeSlot_hosts (m : Mgt) (slot : Nat) (d : Dp) : (closeSlot m slot d).hosts = d.hosts :=
  foldl_hosts _ (fun _ _ => abandonAppends_hosts ..) _ (closeViewsOf slot d)

@[simp] theorem abortSlot_hosts (slot : Nat) (keep : Option Nat) (detail : Nat) (d : Dp) : (abortSlot slot keep detail d).2.hosts = d.hosts :=
  foldl_hosts (fun d (t : Machine.Task) => abortTask t.id detail d) (fun _ _ => rfl) _ d

@[simp] theorem shutSlot_hosts (m : Mgt) (slot detail : Nat) (d : Dp) : (shutSlot m slot detail d).hosts = d.hosts := by
  unfold shutSlot
  split
  · split <;> simp
  · rfl

/-! ### The expiry of a lease -/

/-- The data plane with a port's lease EXPIRED and its walk begun (R143, R391). -/
def leaseOut (p : Fin 2) (l : HostLease) (d : Dp) : Dp :=
  { d with hosts := { d.hosts with leases := d.hosts.leases.set p.val { l with state := 2 } }, coh := { d.coh with walk := modAt d.coh.walk p.val fun _ => true } }

/-- The slots that a port owns are shut, their tasks aborted with detail 0x04 (R151, R152). -/
def shutSlotsOf (m : Mgt) (p : Fin 2) (d : Dp) : Dp :=
  (((m.image.map (·.slots)).getD []).filter (·.owner = 0x4000 + p.val)).foldl (fun d e => shutSlot m e.number 0x04 d) d

@[simp] theorem shutSlotsOf_hosts (m : Mgt) (p : Fin 2) (d : Dp) : (shutSlotsOf m p d).hosts = d.hosts :=
  foldl_hosts _ (fun _ _ => shutSlot_hosts ..) _ d

/-- Every line whose entry names a port is walked, in the directory's order (R143). -/
def walkLines (m : Mgt) (p : Fin 2) (d : Dp) : Dp := (d.coh.dir.filter fun e => e.hosts.getLsb p).foldl (fun d e => walkLine m e.line p d) d

@[simp] theorem walkLines_hosts (m : Mgt) (p : Fin 2) (d : Dp) : (walkLines m p d).hosts = d.hosts := foldl_hosts _ (fun _ _ => walkLine_hosts ..) _ d

theorem walkLines_none {m : Mgt} {p : Fin 2} {d : Dp} (h : d.coh.dir.filter (fun e => e.hosts.getLsb p) = []) : walkLines m p d = d := by
  rw [walkLines, h, List.foldl_nil]

theorem walkLines_one {m : Mgt} {p : Fin 2} {d : Dp} {e : DirEntry} (h : d.coh.dir.filter (fun e => e.hosts.getLsb p) = [e]) :
    walkLines m p d = walkLine m e.line p d := by
  rw [walkLines, h, List.foldl_cons, List.foldl_nil]

theorem holds_of_only {p : Fin 2} {dir : List DirEntry} {e : DirEntry} (h : dir.filter (fun e => e.hosts.getLsb p) = [e]) : e.hosts.getLsb p = true := by
  have hmem : e ∈ dir.filter fun e => e.hosts.getLsb p := h ▸ List.mem_singleton_self e
  exact (List.mem_filter.mp hmem).2

theorem modLease_eq_set {p : Nat} {l : HostLease} {d : Dp} (hl : d.hosts.leases[p]? = some l) (f : HostLease → HostLease) :
    modLease p f d = { d with hosts := { d.hosts with leases := d.hosts.leases.set p (f l) } } := by
  have hset : modAt d.hosts.leases p f = d.hosts.leases.set p (f l) := by
    refine List.ext_getElem? fun i => ?_
    rw [modAt, List.getElem?_modify, List.getElem?_set]
    split
    next hi =>
      subst hi
      rw [hl, if_pos (List.getElem?_eq_some_iff.mp hl).1]
      rfl
    next => cases d.hosts.leases[i]? <;> rfl
  rw [modLease, hset]

theorem lease_eq {p : Nat} {l : HostLease} {d : Dp} (hl : d.hosts.leases[p]? = some l) : d.lease p = l := by
  rw [Dp.lease, List.getD_eq_getElem?_getD, hl]
  rfl

theorem endHostSnoops_none (m : Mgt) (p : Fin 2) {d : Dp} (h : d.coh.trackers = []) : endHostSnoops m p d = d := by
  rw [endHostSnoops, h]
  rfl

theorem abandonRequests_none (m : Mgt) (p : Nat) {d : Dp} (h : d.hosts.reqs = []) : abandonRequests m p d = d := by
  have hsame : { d with hosts := { d.hosts with reqs := [] } } = d := by rw [← h]
  simp only [abandonRequests, h, List.filter_nil, List.foldl_nil, hsame]

section
variable {s : State} {p : Fin 2} {l : HostLease} (hl : s.dp.hosts.leases[p.val]? = some l)
include hl

theorem hostLeaseExpiry_early (h : l.state ≠ 1 ∨ s.mgt.clk.ltb < l.renewed + s.mgt.timers.leaseLossMs * 100000) : exec (.hostLeaseExpiry p) s = .next s := by
  have hexec : exec (.hostLeaseExpiry p) s = execHostLeaseExpiry p s := rfl
  rw [hexec, execHostLeaseExpiry, liftDp_next, lease_eq hl]
  dsimp only
  rw [if_pos (by simpa using h)]

/-- With no snoop and no translation request about, an expired lease ends its port's walk and shuts its slots. -/
theorem hostLeaseExpiry_due (hstate : l.state = 1) (hlate : l.renewed + s.mgt.timers.leaseLossMs * 100000 ≤ s.mgt.clk.ltb)
    (htrackers : s.dp.coh.trackers = []) (hreqs : s.dp.hosts.reqs = []) :
    exec (.hostLeaseExpiry p) s = .next { s with dp := settle s.mgt (shutSlotsOf s.mgt p (walkLines s.mgt p (leaseOut p l s.dp))) } := by
  have hexec : exec (.hostLeaseExpiry p) s = execHostLeaseExpiry p s := rfl
  have hnone : (shutSlotsOf s.mgt p (walkLines s.mgt p (leaseOut p l s.dp))).hosts.reqs = [] := by simpa [leaseOut] using hreqs
  rw [hexec, execHostLeaseExpiry, liftDp_next, lease_eq hl]
  dsimp only
  rw [if_neg (by simp [hstate]; omega), modLease_eq_set hl]
  change Host.Outcome.next { s with dp := settle s.mgt (abandonRequests s.mgt p.val (shutSlotsOf s.mgt p
    (walkLines s.mgt p (endHostSnoops s.mgt p (leaseOut p l s.dp))))) } = _
  rw [endHostSnoops_none s.mgt p (d := leaseOut p l s.dp) htrackers, abandonRequests_none _ _ hnone]

end

section
variable {m : Mgt} {p : Fin 2} {line : Nat} {e : DirEntry} {d : Dp} (he : d.entry line = some e) (hholds : e.hosts.getLsb p = true)
include he hholds

theorem walkLine_shared (howned : e.owned = false) : walkLine m line p d = removeHolder line (.host p) d := by
  unfold walkLine
  rw [he]
  dsimp only
  rw [if_neg (by simp only [hholds]; decide), if_pos (by simp only [howned]; decide)]

/-- A line that the port owned is poisoned and logged (R141, R143). -/
theorem walkLine_owned (howned : e.owned = true) {r a : Nat} {reach : Reach} (hplace : placeOffset m (removeHolder line (.host p) d) (line * 64) = .store r reach a) :
    walkLine m line p d =
      let out := logEvent m 3 8 1 none 0 0 (m.homeId * 2 ^ 50 + line * 64) [1, 4] (removeHolder line (.host p) d)
      (applyChange m r a (readLine m out r a).1 true (((m.region r).map (·.partition)).getD 0) 0 out).2 := by
  unfold walkLine
  rw [he]
  dsimp only
  rw [if_neg (by simp only [hholds]; decide), if_neg (by simp only [howned]; decide), hplace]

end

theorem directoryWalkEnd_eq (s : State) (p : Fin 2) :
    exec (.directoryWalkEnd p) s = .next { s with dp := { s.dp with coh := { s.dp.coh with walk := modAt s.dp.coh.walk p.val fun _ => false } } } := rfl

/-- Settles O57: a host's request is served at its window or refused there, or waits, and an expired lease takes its port out of the directory and shuts its slots. -/
theorem hostsReachThePoolThroughTheirWindows : Obligations.HostsReachThePoolThroughTheirWindows := by
  unfold Obligations.HostsReachThePoolThroughTheirWindows
  refine ⟨fun s p o n tag houtside => ⟨undecoded s.mgt p.val tag s.dp, ?_, ?_, fun hclosed hmode hperst => ?_, fun b ep => ?_⟩,
    fun s p o n tag hopen hin => ⟨fun hwait => ?_, fun hturn => ?_⟩,
    fun s p addr ask tag hmode hturn => ⟨fun hnone => ?_, fun x hx hcommitted hbase hend hd3 hperst => ?_⟩,
    fun s p o b ep hopen hin hturn => ?_,
    fun s p addr b mask poison hmode hturn hfree hd3 hperst => ⟨fun hnone => ?_, fun x hx hcommitted hbase hend => ?_⟩,
    fun s p o hopen hlo hhi hwindow hfirst => slotTableRead_served hopen hlo hhi (mustWait_slotTableRead s.mgt s.dp p o hwindow hfirst),
    fun s => ⟨forerunnerWindowEnd_early, fun hmode hdue hleases => ?_⟩,
    fun s p l hl => ⟨hostLeaseExpiry_early hl, fun hstate hlate htrackers hreqs => ⟨fun hnone => ?_, fun e hone he => ⟨fun howned => ?_, fun howned r reach a hplace => ?_⟩⟩⟩,
    directoryWalkEnd_eq⟩
  · rw [hostMemoryRead_eq, if_pos houtside]
  · rw [undecoded_eq]
    split <;> rfl
  · rw [slotTableRead_undecoded n hclosed, undecoded_eq, if_neg (by simp [hmode, hperst])]
  · rw [hostMemoryWrite_eq, if_pos houtside]
  · rw [hostMemoryRead_eq, if_neg (within hopen hin), hostSubmit_waits hwait]
  · rw [hostMemoryRead_eq, if_neg (within hopen hin), hostSubmit_serves hturn]
    exact hostRead_reads ..
  · rw [cxlMemRead_served hmode hturn, if_neg (by simp [memOpen_of_no_decoder hnone])]
    rfl
  · rw [cxlMemRead_served hmode hturn, if_pos (memOpen_of_decoder hmode hd3 hperst hx hcommitted hbase hend)]
    cases ask <;> exact hostRead_reads ..
  · rw [hostMemoryWrite_eq, if_neg (within hopen hin), hostSubmit_serves hturn]
    exact hostWrite_writes ..
  · rw [cxlMemWrite_served hmode hturn hfree, if_neg (by simp [memOpen_of_no_decoder hnone])]
  · rw [cxlMemWrite_served hmode hturn hfree, if_pos (memOpen_of_decoder hmode hd3 hperst hx hcommitted hbase hend)]
    exact hostWrite_writes ..
  · rw [forerunnerWindowEnd_due hmode hdue, releasePort_none (p := 0) (by exact hleases) (by decide), releasePort_none (by exact hleases) (by decide)]
  · rw [hostLeaseExpiry_due hl hstate hlate htrackers hreqs, walkLines_none (d := leaseOut p l s.dp) hnone]
    rfl
  · rw [hostLeaseExpiry_due hl hstate hlate htrackers hreqs, walkLines_one (d := leaseOut p l s.dp) hone,
      walkLine_shared (d := leaseOut p l s.dp) he (holds_of_only hone) howned]
    rfl
  · rw [hostLeaseExpiry_due hl hstate hlate htrackers hreqs, walkLines_one (d := leaseOut p l s.dp) hone,
      walkLine_owned (d := leaseOut p l s.dp) he (holds_of_only hone) howned hplace]
    rfl

end Sys2Proof.Proofs
